-- ==== Sys2Proof/Word.lean ====
section
/-! DEFINITION. The plain words of the model: a character on the link, a text, the belt count and the revolution stamp.
Everything else that the manual counts is a natural number or an integer. -/

namespace Sys2Proof

/-- One character of a line on the link (8 data bits, `00_scope.md`, Connections). -/
abbrev Byte := BitVec 8

/-- A run of characters. -/
abbrev Text := List Byte

/-- A belt count: 32 bits, differences modulo 2^32 (R2, R5). -/
abbrev Belt := BitVec 32

/-- The revolution stamp: 16 bits, the stamp after 65535 is 0 (R60). -/
abbrev Stamp := BitVec 16

/-- A raw result of the 10-bit converter (`00_scope.md`, Connections; R124). -/
abbrev Raw := BitVec 10

/-- A recipe slot, 0 to 15 (R24). -/
abbrev Slot := Fin 16

/-- A measurement channel, 0 to 7 (R124). -/
abbrev Channel := Fin 8

/-- A point, P00 to P23 (R169). -/
abbrev PointNo := Fin 24

end Sys2Proof
end

