-- ==== Sys2Proof/Vocab.lean ====
section
/-! DEFINITION. The fixed sets of names the manual uses: zones, marks, states, faults, warnings, point functions, refusal codes.
Each is an inductive type whose constructors stand in the order of the manual's own table. -/

namespace Sys2Proof

/-- The two family members (`00_scope.md`, Family members). -/
inductive Member where
  | bl320 | bl340
deriving DecidableEq, Repr

/-- The two bagging stations. -/
inductive Station where
  | a | b
deriving DecidableEq, Repr

/-- One thing for each station. -/
structure PerStation (α : Type) where
  a : α
  b : α
deriving DecidableEq, Repr

/-- The zones of the line (R2). -/
inductive Zone where
  | infeed | slicer | transfer
  | station (x : Station)
  | outfeed | reject
deriving DecidableEq, Repr

/-- The reject marks (R2), in the order of R160's counts. -/
inductive Mark where
  | short | double | operator | miscut | interrupted | noRecipe | noClean
deriving DecidableEq, Repr

/-- The tie results (R2). `notTied` is the manual's NONE, for a station whose tyer is not fitted. -/
inductive TieResult where
  | tied | mistie | untied | notTied
deriving DecidableEq, Repr

/-- The kinds of distance check (R10). -/
inductive CheckKind where
  | length | stop | reject | exit
deriving DecidableEq, Repr

/-- The line states (R139). -/
inductive LineState where
  | stopped | running | draining | halted
deriving DecidableEq, Repr

/-- The states of the slicing context (R57). -/
inductive HeadState where
  | empty | entering | advancing | cutting | ejecting | passing | homing | paused | interrupted
deriving DecidableEq, Repr

/-- The blade phase kept by the slicing head (R60). -/
inductive BladePhase where
  | idle | cut | ret
deriving DecidableEq, Repr

/-- What the pusher drive is told to do (R58). -/
inductive PusherDrive where
  | released | holds
  | movesTo (target : Int)
deriving DecidableEq, Repr

/-- The states of a bagging station (R78). -/
inductive StationState where
  | outOfService | empty | opening | ready | filling | tying | releasing
deriving DecidableEq, Repr

/-- The distribution policies (R85). -/
inductive Policy where
  | alternate | fillA | aOnly | bOnly
deriving DecidableEq, Repr

/-- The reasons of a pending sweep (R113). -/
inductive SweepReason where
  | threshold | changeover | command
deriving DecidableEq, Repr

/-- The results a sweep can have (R119, R120). -/
inductive SweepResult where
  | success | weak | aborted
deriving DecidableEq, Repr

/-- Crumb control's three answers to the admission question (R114). -/
inductive CrumbAnswer where
  | take | takeNoClean | hold
deriving DecidableEq, Repr

/-- The sampling modes (R130). -/
inductive SampleMode where
  | centre | edge | hybrid
deriving DecidableEq, Repr

/-- The phase recorded with a sample (R124). -/
inductive SamplePhase where
  | cut | ret | idle | request
deriving DecidableEq, Repr

/-- Who may ask the converter for a conversion of its own (R126). -/
inductive Requester where
  | station (x : Station)
  | crumb
deriving DecidableEq, Repr

/-- The limits that R133 binds to a fault or a warning, in the order of its table. -/
inductive BoundLimit where
  | knifeWarn | knifeFault | pusherFault | bladeWarn | bladeFault | supplyWarn | supplyFault | boardFault
deriving DecidableEq, Repr

/-- The states of a fault entry (R143). -/
inductive FaultState where
  | inactive | active | latched
deriving DecidableEq, Repr

/-- The actions a fault may apply (R146). -/
inductive Action where
  | nothing | hold | halt
deriving DecidableEq, Repr

/-- The fault kinds, in the order of R146's table. -/
inductive FaultKind where
  | guardOpen | bladeStall | beltStall | jamInfeed | jamOutfeed | trackOverrun | rejectMissed | pusherFault
  | pusherOverload | bladeOverload | bladeHot
  | station (x : Station)
  | clipsOut (x : Station)
  | vacuumFail | trayFull | supplyLow | boardHot
deriving DecidableEq, Repr

/-- The warnings, in the order of R150's table. -/
inductive WarnKind where
  | trackFull | keyInvalid | strayEdge | miscut
  | bagsLow (x : Station)
  | bagsEmpty (x : Station)
  | noStation
  | clipsLow (x : Station)
  | mistie | sweepWeak | crumbHigh | bladeDull | bladeWarm | supplySag
deriving DecidableEq, Repr

/-- A name SET MASK takes: a fault's or a warning's (R151). -/
inductive AlertName where
  | fault (k : FaultKind)
  | warning (w : WarnKind)
deriving DecidableEq, Repr

/-- The reset causes (R154). -/
inductive ResetCause where
  | powerOn | resetLine | message
deriving DecidableEq, Repr

/-- The causes of a shift close (R164). -/
inductive CloseCause where
  | schedule | command | clockSet | scheduleChanged
deriving DecidableEq, Repr

/-- The two halves of the key switch (R32). -/
inductive Key where
  | a | b
deriving DecidableEq, Repr

/-- The access tiers, in rising order (R32). -/
inductive Tier where
  | operator | setter | engineer
deriving DecidableEq, Repr

/-- The modes of a point (R170); `input` is IN and `output` is OUT. -/
inductive PointMode where
  | input | output | func1 | func2
deriving DecidableEq, Repr

/-- The drives of a point: PP and OD (R172). -/
inductive DriveKind where
  | pushPull | openDrain
deriving DecidableEq, Repr

/-- What the part puts on the terminal of a point (R170). -/
inductive TerminalDrive where
  | letGo | drivenHigh | drivenLow | pulledLow
deriving DecidableEq, Repr

/-- The edge selects of a point (R170). -/
inductive EdgeSelect where
  | never | rise | fall | both
deriving DecidableEq, Repr

/-- The point functions (R169). -/
inductive Func where
  | infeedEye | stopEye | rejectEye | exitEye
  | bagEye (x : Station)
  | key (k : Key)
  | guardDoor | trayFull
  | infeedHold | knifeRun | pusherEnable | rejectGate | stationGate
  | blower (x : Station)
  | scoop (x : Station)
  | tie (x : Station)
  | airKnife | vacuum | trend
deriving DecidableEq, Repr

/-- What stands on the wire of a terminal from outside: a level driven low or high, or nothing (R170). -/
inductive Signal where
  | low | high | undriven
deriving DecidableEq, Repr

/-- The two eyes at the ends of the line (R17). -/
inductive EndEye where
  | exit | reject
deriving DecidableEq, Repr

/-- The refusal codes, in the order of the chapter The Link and Message Formats, section 12.6. -/
inductive Code where
  | frame | unknown | malformed | range | tier | locked | state | notFitted | notAvailable | inUse | noSuch | tooLate | busy
  | notConfigured | blocked | noRecipe | noClock | noStation
deriving DecidableEq, Repr

/-- The report kinds (R182). -/
inductive ReportKind where
  | f | l | w | d | x | c | s | e
deriving DecidableEq, Repr

/-- What the transmitter is sending (R181). -/
inductive TxKind where
  | reply | pendingAnswer | report
deriving DecidableEq, Repr

end Sys2Proof
end

