-- ==== Sys2Proof/Config.lean ====
section
/-! DEFINITION. What is fixed for every part (the manual's constants) and the free values: opaque constants, for what the
manual leaves open. Nothing can be proved about the value of a free value. -/

namespace Sys2Proof.Config

/-- The most records the track holds (R1). -/
def trackCapacity : Nat := 12

/-- The infeed is held, and TRACK_FULL present, from this many records on (R8). -/
def trackFullFrom : Nat := 11

/-- The pusher tolerance in counts, at home and at a target (R58). -/
def pusherTolerance : Nat := 2

/-- The stall deadline without previous durations: 1000 ms, in microseconds (R61). -/
def stallDeadline : Nat := 1000000

/-- BAGS_LOW_x is present at this magazine and below (R82). -/
def bagsLowAt : Nat := 20

/-- CLIPS_LOW_x is present at this many class-M clips and below (R104). -/
def clipsLowAt : Nat := 20

/-- The largest crumb load (R111). -/
def loadCap : Nat := 65535

/-- The largest occurrence count (R143). -/
def occurrenceCap : Nat := 255

/-- The largest totals count (R160). -/
def countCap : Nat := 4294967295

/-- Seconds of the calendar clock's range, 2000-01-01 to 2099-12-31 (R156). -/
def clockSpan : Nat := 3155760000

/-- Days of the same range. -/
def daySpan : Nat := 36525

/-- The most closed records in the history (R165). -/
def historyCapacity : Nat := 8

/-- The most reports in the queue (R182). -/
def queueCapacity : Nat := 16

/-- The most characters of a received line before the ";" (R178). -/
def lineCapacity : Nat := 120

/-- The most characters of a received line that are stored (R179). -/
def bufferCapacity : Nat := 124

/-- The revision letter of the parts the manual describes: C (R184). -/
def revision : Byte := 0x43

/-- FREE VALUE: how a negative pusher count is written in a reply.
R178 gives numbers as digits with no sign and R76 asks for a signed count (log entry 8). -/
opaque negativeCountText : Nat → Text

/-- FREE VALUE: the level read at a terminal that nothing drives and that has no pull-up.
R170 gives the level only for a driven or pulled terminal (log entry 9). The argument is `State.fresh`. -/
opaque floatingLevel : Nat → Bool

/-- FREE VALUE: the momentary level of the TREND signal inside a period whose duty is neither 0 nor 1023.
R136 gives the duty, not the moment of the reading (log entry 9). The argument is `State.fresh`. -/
opaque trendMoment : Nat → Bool

end Sys2Proof.Config
end

