-- ==== Sys2Proof/Syntax.lean ====
section
/-! DEFINITION. The commands: one constructor of `Instr` per row of spec/opcode_table.json, in the table's order.
A request row carries its operands as its syntax line gives them; `none` stands for operand words that do not have the form of
that line (one missing, one too many, a word where a number belongs), which R179 and each command's rule refuse with SYNTAX.
A keyword operand is an `Option` where a word outside the keyword's set is a case of its own (RANGE, not SYNTAX).
An event row carries what the event brings from outside: which station, which direction, which level, a measured time. -/

namespace Sys2Proof

/-- The operands of a request: `some` the operands, or `none` for a form that the syntax line does not admit. -/
abbrev Form (α : Type) := Option α

/-- The four distances (mm) and two pitches (counts per 100 mm) of SET GEOMETRY (R18). -/
structure Geometry where
  dStop : Nat
  dTransfer : Nat
  dReject : Nat
  dExit : Nat
  k : Nat
  kp : Nat
deriving DecidableEq, Repr

/-- The figures of a recipe: the fields of R24 that a snapshot copies (R2). -/
structure Figures where
  thickness : Nat
  heel : Nat
  maxSlices : Nat
  minLength : Nat
  maxLength : Nat
  crumb : Nat
  bagClass : Nat
  shelfDays : Nat
  clearBefore : Nat
deriving DecidableEq, Repr

/-- WRITE RECIPE (R27). -/
structure RecipeWrite where
  slot : Nat
  name : Text
  figures : Figures
deriving DecidableEq, Repr

/-- TRY PLAN (R55); `inCounts` says that the word COUNTS was given. -/
structure PlanTrial where
  slot : Nat
  length : Nat
  inCounts : Bool
deriving DecidableEq, Repr

/-- LOAD BAGS and LOAD CLIPS (R83, R105). -/
structure StationLoad where
  station : Station
  amount : Nat
deriving DecidableEq, Repr

/-- SET STATION (R92). -/
structure StationSetting where
  station : Station
  bagClass : Nat
  inService : Nat
deriving DecidableEq, Repr

/-- SET BAGGING (R96). -/
structure BaggingTimes where
  openTimeout : Nat
  scoopTime : Nat
deriving DecidableEq, Repr

/-- The four clip lengths and the strike time of a tyer (R98, R106). -/
structure TyerSettings where
  s : Nat
  m : Nat
  l : Nat
  xl : Nat
  strike : Nat
deriving DecidableEq, Repr

/-- SET TYER (R106). -/
structure TyerWrite where
  station : Station
  settings : TyerSettings
deriving DecidableEq, Repr

/-- The five crumb settings (R122). -/
structure CrumbSettings where
  bladeThreshold : Nat
  step : Nat
  trayThreshold : Nat
  sweepTime : Nat
  pressure : Nat
deriving DecidableEq, Repr

/-- The four limits and the deglitch count of a channel (R132). -/
structure Limits where
  faultLow : Nat
  warnLow : Nat
  warnHigh : Nat
  faultHigh : Nat
  deglitch : Nat
deriving DecidableEq, Repr

/-- SET LIMITS (R134). -/
structure LimitsWrite where
  channel : Nat
  limits : Limits
deriving DecidableEq, Repr

/-- SET SAMPLING (R135); each set is its word's digits, 0 to 9, none twice. -/
structure SamplingWrite where
  cutSet : List Nat
  retSet : List Nat
  mode : Option SampleMode
  edgeDelay : Nat
  hybridPeriod : Nat
deriving DecidableEq, Repr

/-- SET TREND (R136). -/
structure TrendWrite where
  channel : Nat
  frequency : Nat
deriving DecidableEq, Repr

/-- SET ACTION (R147). -/
structure ActionWrite where
  fault : Option FaultKind
  action : Option Action
deriving DecidableEq, Repr

/-- SET MASK (R151). -/
structure MaskWrite where
  name : Option AlertName
  masked : Nat
deriving DecidableEq, Repr

/-- A calendar moment as SET CLOCK gives it (R157). -/
structure Moment where
  year : Nat
  month : Nat
  day : Nat
  hour : Nat
  minute : Nat
  second : Nat
deriving DecidableEq, Repr

/-- One pair of SET SHIFTS: a character and a time (R159). -/
structure ShiftPair where
  letter : Byte
  hour : Nat
  minute : Nat
deriving DecidableEq, Repr

/-- SET POINT (R172). -/
structure PointWrite where
  point : Nat
  mode : Option PointMode
  drive : Option DriveKind
  pullUp : Nat
  edge : Option EdgeSelect
  report : Nat
deriving DecidableEq, Repr

/-- WRITE OUT (R176). -/
structure OutWrite where
  point : Nat
  level : Nat
deriving DecidableEq, Repr

/-- The levels of the option straps OPT0, OPT1 and OPT2 (`00_scope.md`, Connections; R98). -/
structure Straps where
  opt0 : Bool
  opt1 : Bool
  opt2 : Bool
deriving DecidableEq, Repr

/-- The commands of the block: the requests of the link, then the events of the line, in the order of spec/opcode_table.json. -/
inductive Instr where
  | setInfeed (limit : Form Nat)
  | setGeometry (g : Form Geometry)
  | reject (tag : Form Nat)
  | purge (form : Form Unit)
  | readTrack (form : Form Unit)
  | writeRecipe (w : Form RecipeWrite)
  | erase (slot : Form Nat)
  | readRecipe (slot : Form Nat)
  | run (slot : Form Nat)
  | lock (slot : Form Nat)
  | unlock (slot : Form Nat)
  | bypassOn (form : Form Unit)
  | bypassOff (form : Form Unit)
  | lockdown (form : Form Unit)
  | readAccess (form : Form Unit)
  | tryPlan (w : Form PlanTrial)
  | readSlicer (form : Form Unit)
  | loadBags (w : Form StationLoad)
  | setDistribution (policy : Form (Option Policy))
  | setStation (w : Form StationSetting)
  | setBagging (w : Form BaggingTimes)
  | readStations (form : Form Unit)
  | loadClips (w : Form StationLoad)
  | setTyer (w : Form TyerWrite)
  | readTyers (form : Form Unit)
  | cleanNow (form : Form Unit)
  | setCrumb (w : Form CrumbSettings)
  | readCrumb (form : Form Unit)
  | setLimits (w : Form LimitsWrite)
  | setSampling (w : Form SamplingWrite)
  | setTrend (w : Form TrendWrite)
  | readChannels (form : Form Unit)
  | start (form : Form Unit)
  | stopDrain (form : Form Unit)
  | stopNow (form : Form Unit)
  | setAction (w : Form ActionWrite)
  | clearFaults (form : Form Unit)
  | setMask (w : Form MaskWrite)
  | readStatus (form : Form Unit)
  | readFaults (form : Form Unit)
  | reset (form : Form Unit)
  | setClock (m : Form Moment)
  | readClock (form : Form Unit)
  | setShifts (pairs : Form (List ShiftPair))
  | closeShift (form : Form Unit)
  | readTotals (form : Form Unit)
  | readHistory (place : Form Nat)
  | setPoint (w : Form PointWrite)
  | takeEdges (form : Form Unit)
  | writeOut (w : Form OutWrite)
  | readPoints (form : Form Unit)
  | setReports (kinds : Form (List ReportKind))
  | ident (form : Form Unit)
  | powerOn (straps : Straps)
  | resetLine (straps : Straps)
  | infeedEyeLeadingEdge
  | infeedEyeTrailingEdge
  | stopEyeLeadingEdge
  | exitEyeTrailingEdge
  | rejectEyeTrailingEdge
  | exitRejectLeadingEdge (eye : EndEye)
  | beltEncoderStep (forward : Bool)
  | lengthCheckExpiry (tag : Nat)
  | stopCheckExpiry (tag : Nat)
  | rejectCheckExpiry (tag : Nat)
  | exitCheckExpiry (tag : Nat)
  | pusherEncoderStep (forward : Bool)
  | cutBegin (elapsed : Nat)
  | returnBegin (elapsed : Nat)
  | parkChange (high : Bool)
  | stallTimerExpiry
  | bagEyeLeadingEdge (x : Station)
  | bagEyeTrailingEdge (x : Station)
  | bagOpenTimeout (x : Station)
  | releaseTimeout (x : Station)
  | travelCountExpiry (x : Station)
  | scoopEnd (x : Station)
  | strikeMidpoint (x : Station)
  | strikeEnd (x : Station)
  | riseTimerExpiry
  | sweepTimerExpiry
  | conversionComplete (value : Raw)
  | centreConversionDue
  | edgeDelayExpiry
  | idleTimerExpiry
  | beltWatchExpiry
  | guardDoorChange (high : Bool)
  | trayFullChange (high : Bool)
  | keyInputChange (key : Key) (on : Bool)
  | plainInputEdge (point : PointNo) (signal : Signal)
  | clockTick
  | requestLine
  | silenceTimeout
  | lineSent
  | characterReceived (c : Byte)
  | trendPeriodStart
deriving DecidableEq, Repr

end Sys2Proof
end

