-- ==== Sys2Proof/WellFormed.lean ====
section
/-! DEFINITION. Which commands can be written down at all: a number of at most ten digits (R178), a recipe name of printable
characters, a time of two-digit fields (R157), one to four shift pairs (R159), sets without a repeated letter or digit (R135,
R183), a received character that is not the carriage return (R179).
A value outside its field's range is well formed: the command refuses or clamps it. -/

namespace Sys2Proof

/-- A number the link can carry: a run of 1 to 10 digits (R178). -/
def numberOk (n : Nat) : Bool := n < 10000000000

/-- A printable character: codes 32 to 126 (R178). -/
def printable (c : Byte) : Bool := 32 ≤ c.toNat && c.toNat ≤ 126

/-- A word of a request: printable, not empty, no space. -/
def wordOk (t : Text) : Bool := !t.isEmpty && t.all fun c => printable c && c.toNat != 32

/-- All numbers of a list can be carried. -/
def numbersOk (ns : List Nat) : Bool := ns.all numberOk

/-- The figures of a recipe as numbers. -/
def Figures.numbers (f : Figures) : List Nat :=
  [f.thickness, f.heel, f.maxSlices, f.minLength, f.maxLength, f.crumb, f.bagClass, f.shelfDays, f.clearBefore]

/-- A set word of SET SAMPLING: digits, none given twice (R135). -/
def setWordOk (ds : List Nat) : Bool := ds.all (· < 10) && decide ds.Nodup

/-- The operands of a well-formed request, or an ill-formed operand list (which the command refuses with SYNTAX). -/
def formOk {α : Type} (ok : α → Bool) : Form α → Bool
  | none => true
  | some a => ok a

/-- The check of one command. -/
def WellFormed : Instr → Bool
  | .setInfeed f => formOk numberOk f
  | .setGeometry f => formOk (fun g => numbersOk [g.dStop, g.dTransfer, g.dReject, g.dExit, g.k, g.kp]) f
  | .reject f => formOk numberOk f
  | .purge _ => true
  | .readTrack _ => true
  | .writeRecipe f => formOk (fun w => numberOk w.slot && wordOk w.name && numbersOk w.figures.numbers) f
  | .erase f => formOk numberOk f
  | .readRecipe f => formOk numberOk f
  | .run f => formOk numberOk f
  | .lock f => formOk numberOk f
  | .unlock f => formOk numberOk f
  | .bypassOn _ => true
  | .bypassOff _ => true
  | .lockdown _ => true
  | .readAccess _ => true
  | .tryPlan f => formOk (fun w => numbersOk [w.slot, w.length]) f
  | .readSlicer _ => true
  | .loadBags f => formOk (fun w => numberOk w.amount) f
  | .setDistribution _ => true
  | .setStation f => formOk (fun w => numbersOk [w.bagClass, w.inService]) f
  | .setBagging f => formOk (fun w => numbersOk [w.openTimeout, w.scoopTime]) f
  | .readStations _ => true
  | .loadClips f => formOk (fun w => numberOk w.amount) f
  | .setTyer f => formOk (fun w => numbersOk [w.settings.s, w.settings.m, w.settings.l, w.settings.xl, w.settings.strike]) f
  | .readTyers _ => true
  | .cleanNow _ => true
  | .setCrumb f => formOk (fun c => numbersOk [c.bladeThreshold, c.step, c.trayThreshold, c.sweepTime, c.pressure]) f
  | .readCrumb _ => true
  | .setLimits f => formOk (fun w =>
      numbersOk [w.channel, w.limits.faultLow, w.limits.warnLow, w.limits.warnHigh, w.limits.faultHigh, w.limits.deglitch]) f
  | .setSampling f => formOk (fun w =>
      setWordOk w.cutSet && setWordOk w.retSet && numbersOk [w.edgeDelay, w.hybridPeriod]) f
  | .setTrend f => formOk (fun w => numbersOk [w.channel, w.frequency]) f
  | .readChannels _ => true
  | .start _ => true
  | .stopDrain _ => true
  | .stopNow _ => true
  | .setAction _ => true
  | .clearFaults _ => true
  | .setMask f => formOk (fun w => numberOk w.masked) f
  | .readStatus _ => true
  | .readFaults _ => true
  | .reset _ => true
  | .setClock f => formOk (fun m =>
      m.year < 10000 && m.month < 100 && m.day < 100 && m.hour < 100 && m.minute < 100 && m.second < 100) f
  | .readClock _ => true
  | .setShifts f => formOk (fun ps =>
      1 ≤ ps.length && ps.length ≤ 4 &&
        ps.all fun p => printable p.letter && p.letter.toNat != 32 && p.hour < 100 && p.minute < 100) f
  | .closeShift _ => true
  | .readTotals _ => true
  | .readHistory f => formOk numberOk f
  | .setPoint f => formOk (fun w => numbersOk [w.point, w.pullUp, w.report]) f
  | .takeEdges _ => true
  | .writeOut f => formOk (fun w => numbersOk [w.point, w.level]) f
  | .readPoints _ => true
  | .setReports f => formOk (fun ks => decide ks.Nodup) f
  | .ident _ => true
  | .powerOn _ => true
  | .resetLine _ => true
  | .infeedEyeLeadingEdge => true
  | .infeedEyeTrailingEdge => true
  | .stopEyeLeadingEdge => true
  | .exitEyeTrailingEdge => true
  | .rejectEyeTrailingEdge => true
  | .exitRejectLeadingEdge _ => true
  | .beltEncoderStep _ => true
  | .lengthCheckExpiry tag => 1 ≤ tag && tag ≤ 65535
  | .stopCheckExpiry tag => 1 ≤ tag && tag ≤ 65535
  | .rejectCheckExpiry tag => 1 ≤ tag && tag ≤ 65535
  | .exitCheckExpiry tag => 1 ≤ tag && tag ≤ 65535
  | .pusherEncoderStep _ => true
  | .cutBegin _ => true
  | .returnBegin _ => true
  | .parkChange _ => true
  | .stallTimerExpiry => true
  | .bagEyeLeadingEdge _ => true
  | .bagEyeTrailingEdge _ => true
  | .bagOpenTimeout _ => true
  | .releaseTimeout _ => true
  | .travelCountExpiry _ => true
  | .scoopEnd _ => true
  | .strikeMidpoint _ => true
  | .strikeEnd _ => true
  | .riseTimerExpiry => true
  | .sweepTimerExpiry => true
  | .conversionComplete _ => true
  | .centreConversionDue => true
  | .edgeDelayExpiry => true
  | .idleTimerExpiry => true
  | .beltWatchExpiry => true
  | .guardDoorChange _ => true
  | .trayFullChange _ => true
  | .keyInputChange _ _ => true
  | .plainInputEdge _ _ => true
  | .clockTick => true
  | .requestLine => true
  | .silenceTimeout => true
  | .lineSent => true
  | .characterReceived c => c.toNat != 13
  | .trendPeriodStart => true

end Sys2Proof
end

