-- ==== Sys2Proof/Decode.lean ====
section
/-! DEFINITION. The block has no instruction words: no row of spec/opcode_table.json gives bits, so no word spells a command.
The text of a request is read by `Sys2Proof.Machine` (Operands.lean), from the receive buffer, at REQUEST_LINE. -/

namespace Sys2Proof

/-- The command that a word of `nbits` bits spells by the table's bits: none, for the table gives no row any bits. -/
def decodeTableWord (_nbits _w : Nat) : Option Instr := none

end Sys2Proof
end

