-- ==== Sys2Proof/Machine/Calendar.lean ====
section
/-! DEFINITION. The calendar of R108 and R156, as day numbers and seconds since 2000-01-01 00:00:00, and the bakery date of R107.
A day number outside 0 to 36524 exists only inside the date arithmetic and is clamped. -/

namespace Sys2Proof.Machine

/-- A calendar date. -/
structure Date where
  year : Nat
  month : Nat
  day : Nat
deriving DecidableEq, Repr

/-- A year from 2000 to 2099 is a leap year when it is divisible by 4 (R108). -/
def leapYear (year : Nat) : Bool := year % 4 == 0

/-- The lengths of the months (R108). -/
def monthLengths (year : Nat) : List Nat :=
  [31, if leapYear year then 29 else 28, 31, 30, 31, 30, 31, 31, 30, 31, 30, 31]

/-- The length of one month, 0 for a month outside 1 to 12. -/
def monthLength (year month : Nat) : Nat := if month = 0 then 0 else (monthLengths year).getD (month - 1) 0

/-- The day number of a date from 2000-01-01 on. -/
def dayNumber (d : Date) : Nat :=
  (d.year - 2000) * 365 + (d.year - 2000 + 3) / 4 + ((monthLengths d.year).take (d.month - 1)).sum + (d.day - 1)

/-- The year of a day number and the day within it: four years have 1461 days, the first of the four is a leap year. -/
def yearAndDay (n : Nat) : Nat × Nat :=
  let inCycle := n % 1461
  if inCycle < 366 then (2000 + 4 * (n / 1461), inCycle)
  else (2000 + 4 * (n / 1461) + 1 + (inCycle - 366) / 365, (inCycle - 366) % 365)

/-- The month and the day of the month, from a day within a year, along the months' lengths. -/
def monthAndDay : List Nat → Nat → Nat → Nat × Nat
  | [], month, left => (month, left + 1)
  | len :: rest, month, left => if left < len then (month, left + 1) else monthAndDay rest (month + 1) (left - len)

/-- The date of a day number. -/
def dateOfDay (n : Nat) : Date :=
  let yd := yearAndDay n
  let md := monthAndDay (monthLengths yd.1) 1 yd.2
  ⟨yd.1, md.1, md.2⟩

/-- The day number of a clock reading. -/
def dayOfReading (reading : Nat) : Nat := reading / 86400

/-- The second of the day of a clock reading. -/
def secondOfDay (reading : Nat) : Nat := reading % 86400

/-- The minute of the day of a clock reading. -/
def minuteOfDay (reading : Nat) : Nat := secondOfDay reading / 60

/-- The clock reading of a moment (R156). -/
def readingOf (m : Moment) : Nat :=
  dayNumber ⟨m.year, m.month, m.day⟩ * 86400 + m.hour * 3600 + m.minute * 60 + m.second

/-- Whether the fields of a moment are inside their ranges (R157). -/
def momentInRange (m : Moment) : Bool :=
  2000 ≤ m.year && m.year ≤ 2099 && 1 ≤ m.month && m.month ≤ 12 && 1 ≤ m.day && m.day ≤ monthLength m.year m.month &&
    m.hour ≤ 23 && m.minute ≤ 59 && m.second ≤ 59

/-- The bakery date of a moment as a day number, which may lie one day outside the calendar (R107). -/
def bakeryDay (firstStart reading : Nat) : Int :=
  let day : Int := dayOfReading reading
  if 720 ≤ firstStart then
    if minuteOfDay reading < firstStart then day else day + 1
  else
    if minuteOfDay reading < firstStart then day - 1 else day

/-- A day number brought into 2000-01-01 to 2099-12-31 (R108, R158). -/
def clampDay (day : Int) : Nat := min day.toNat (Config.daySpan - 1)

/-- The best-before date: the bakery date plus the shelf days, inside the calendar (R108). -/
def bestBefore (firstStart reading shelfDays : Nat) : Date :=
  dateOfDay (clampDay (bakeryDay firstStart reading + shelfDays))

end Sys2Proof.Machine
end

