-- ==== Sys2Proof/Machine/Tables.lean ====
section
/-! DEFINITION. The manual's tables: the functions of the points (R169), the fault kinds with their default and allowed actions
(R146), the warnings (R150), the bound limits (R133), the default limits (R138), and the place of each name in its table. -/

namespace Sys2Proof

/-- The entry of one station. -/
def PerStation.get {α : Type} (p : PerStation α) : Station → α
  | .a => p.a
  | .b => p.b

/-- The pair with one station's entry replaced. -/
def PerStation.set {α : Type} (p : PerStation α) (x : Station) (v : α) : PerStation α :=
  match x with
  | .a => { p with a := v }
  | .b => { p with b := v }

end Sys2Proof

namespace Sys2Proof.Machine

/-- The other station. -/
def otherStation : Station → Station
  | .a => .b
  | .b => .a

/-- A station is fitted on the BL-340, and station A alone on the BL-320 (R78). -/
def stationFitted : Member → Station → Bool
  | _, .a => true
  | .bl340, .b => true
  | .bl320, .b => false

/-- The fitted stations in order. -/
def fittedStations : Member → List Station
  | .bl320 => [.a]
  | .bl340 => [.a, .b]

/-- The place of a fault kind in R146's table. -/
def faultIndex : FaultKind → Fin 19
  | .guardOpen => 0
  | .bladeStall => 1
  | .beltStall => 2
  | .jamInfeed => 3
  | .jamOutfeed => 4
  | .trackOverrun => 5
  | .rejectMissed => 6
  | .pusherFault => 7
  | .pusherOverload => 8
  | .bladeOverload => 9
  | .bladeHot => 10
  | .station .a => 11
  | .station .b => 12
  | .clipsOut .a => 13
  | .clipsOut .b => 14
  | .vacuumFail => 15
  | .trayFull => 16
  | .supplyLow => 17
  | .boardHot => 18

/-- All fault kinds, in the order of R146's table. -/
def allFaults : List FaultKind :=
  [.guardOpen, .bladeStall, .beltStall, .jamInfeed, .jamOutfeed, .trackOverrun, .rejectMissed, .pusherFault, .pusherOverload,
    .bladeOverload, .bladeHot, .station .a, .station .b, .clipsOut .a, .clipsOut .b, .vacuumFail, .trayFull, .supplyLow,
    .boardHot]

/-- STATION_B and CLIPS_OUT_B do not exist on the BL-320 (R143). -/
def faultExists (m : Member) : FaultKind → Bool
  | .station x => stationFitted m x
  | .clipsOut x => stationFitted m x
  | _ => true

/-- The fault kinds of a member: 19 on the BL-340, 17 on the BL-320 (R143). -/
def memberFaults (m : Member) : List FaultKind := allFaults.filter (faultExists m)

/-- The allowed actions of a fault kind, in the order of the tables of R146 and R93. -/
def allowedActions : FaultKind → List Action
  | .guardOpen => [.halt]
  | .bladeStall => [.halt]
  | .beltStall => [.hold, .halt]
  | .jamInfeed => [.halt, .hold]
  | .jamOutfeed => [.hold, .halt]
  | .trackOverrun => [.halt]
  | .rejectMissed => [.halt, .hold]
  | .pusherFault => [.halt]
  | .pusherOverload => [.halt]
  | .bladeOverload => [.halt, .hold]
  | .bladeHot => [.hold, .halt]
  | .station _ => [.nothing, .hold, .halt]
  | .clipsOut _ => [.nothing, .hold, .halt]
  | .vacuumFail => [.hold, .halt]
  | .trayFull => [.hold, .halt]
  | .supplyLow => [.halt]
  | .boardHot => [.halt]

/-- The default action of a fault kind (R146, R93). -/
def defaultAction (m : Member) : FaultKind → Action
  | .guardOpen => .halt
  | .bladeStall => .halt
  | .beltStall => .hold
  | .jamInfeed => .halt
  | .jamOutfeed => .hold
  | .trackOverrun => .halt
  | .rejectMissed => .halt
  | .pusherFault => .halt
  | .pusherOverload => .halt
  | .bladeOverload => .halt
  | .bladeHot => .hold
  | .station _ => match m with | .bl340 => .nothing | .bl320 => .hold
  | .clipsOut _ => match m with | .bl340 => .nothing | .bl320 => .hold
  | .vacuumFail => .hold
  | .trayFull => .hold
  | .supplyLow => .halt
  | .boardHot => .halt

/-- The place of a warning in R150's table. -/
def warnIndex : WarnKind → Fin 17
  | .trackFull => 0
  | .keyInvalid => 1
  | .strayEdge => 2
  | .miscut => 3
  | .bagsLow .a => 4
  | .bagsLow .b => 5
  | .bagsEmpty .a => 6
  | .bagsEmpty .b => 7
  | .noStation => 8
  | .clipsLow .a => 9
  | .clipsLow .b => 10
  | .mistie => 11
  | .sweepWeak => 12
  | .crumbHigh => 13
  | .bladeDull => 14
  | .bladeWarm => 15
  | .supplySag => 16

/-- All warnings, in the order of R150's table. -/
def allWarnings : List WarnKind :=
  [.trackFull, .keyInvalid, .strayEdge, .miscut, .bagsLow .a, .bagsLow .b, .bagsEmpty .a, .bagsEmpty .b, .noStation,
    .clipsLow .a, .clipsLow .b, .mistie, .sweepWeak, .crumbHigh, .bladeDull, .bladeWarm, .supplySag]

/-- BAGS_LOW_B, BAGS_EMPTY_B and CLIPS_LOW_B do not exist on the BL-320 (R150). -/
def warnExists (m : Member) : WarnKind → Bool
  | .bagsLow x => stationFitted m x
  | .bagsEmpty x => stationFitted m x
  | .clipsLow x => stationFitted m x
  | _ => true

/-- The warnings of a member: 17 on the BL-340, 14 on the BL-320 (R150). -/
def memberWarnings (m : Member) : List WarnKind := allWarnings.filter (warnExists m)

/-- The place of a bound limit in R133's table. -/
def boundIndex : BoundLimit → Fin 8
  | .knifeWarn => 0
  | .knifeFault => 1
  | .pusherFault => 2
  | .bladeWarn => 3
  | .bladeFault => 4
  | .supplyWarn => 5
  | .supplyFault => 6
  | .boardFault => 7

/-- All bound limits, in the order of R133's table. -/
def allBounds : List BoundLimit :=
  [.knifeWarn, .knifeFault, .pusherFault, .bladeWarn, .bladeFault, .supplyWarn, .supplyFault, .boardFault]

/-- The channel of a bound limit (R133). -/
def boundChannel : BoundLimit → Channel
  | .knifeWarn => 0
  | .knifeFault => 0
  | .pusherFault => 1
  | .bladeWarn => 2
  | .bladeFault => 2
  | .supplyWarn => 6
  | .supplyFault => 6
  | .boardFault => 7

/-- What the condition of a bound limit drives: a warning or a condition fault (R133). -/
def boundDrives : BoundLimit → AlertName
  | .knifeWarn => .warning .bladeDull
  | .knifeFault => .fault .bladeOverload
  | .pusherFault => .fault .pusherOverload
  | .bladeWarn => .warning .bladeWarm
  | .bladeFault => .fault .bladeHot
  | .supplyWarn => .warning .supplySag
  | .supplyFault => .fault .supplyLow
  | .boardFault => .fault .boardHot

/-- Whether a sample is beyond a bound limit: above a high limit, below a low one (R132, R133). -/
def beyondBound (b : BoundLimit) (l : Limits) (value : Nat) : Bool :=
  match b with
  | .knifeWarn => decide (l.warnHigh < value)
  | .knifeFault => decide (l.faultHigh < value)
  | .pusherFault => decide (l.faultHigh < value)
  | .bladeWarn => decide (l.warnHigh < value)
  | .bladeFault => decide (l.faultHigh < value)
  | .supplyWarn => decide (value < l.warnLow)
  | .supplyFault => decide (value < l.faultLow)
  | .boardFault => decide (l.faultHigh < value)

/-- The limits after power-on (R138). -/
def defaultLimits : Vector Limits 8 :=
  #v[⟨0, 0, 650, 820, 4⟩, ⟨0, 0, 700, 880, 3⟩, ⟨0, 0, 480, 560, 8⟩, ⟨0, 0, 1023, 1023, 1⟩, ⟨0, 300, 1023, 1023, 1⟩,
    ⟨0, 300, 1023, 1023, 1⟩, ⟨640, 700, 1023, 1023, 6⟩, ⟨0, 0, 600, 680, 8⟩]

/-- The function a point offers in FUNC1 (R169). -/
def func1Of : Nat → Option Func
  | 0 => some .infeedEye
  | 1 => some .stopEye
  | 2 => some .rejectEye
  | 3 => some (.bagEye .a)
  | 4 => some (.bagEye .b)
  | 5 => some .exitEye
  | 6 => some (.key .a)
  | 7 => some (.key .b)
  | 8 => some .guardDoor
  | 9 => some .trayFull
  | 10 => some .infeedHold
  | 11 => some .knifeRun
  | 12 => some .pusherEnable
  | 13 => some .rejectGate
  | 14 => some .stationGate
  | 15 => some (.blower .a)
  | 16 => some (.scoop .a)
  | 17 => some (.tie .a)
  | 18 => some (.blower .b)
  | 19 => some (.scoop .b)
  | 20 => some (.tie .b)
  | 21 => some .airKnife
  | 22 => some .vacuum
  | 23 => some .trend
  | _ => none

/-- The function a point offers in FUNC2 (R169). -/
def func2Of : Nat → Option Func
  | 4 => some .trayFull
  | 14 => some .trend
  | 18 => some .trend
  | 19 => some .airKnife
  | 20 => some .vacuum
  | _ => none

/-- The function a point would hold in a mode (R169, R170). -/
def functionOf (p : PointNo) : PointMode → Option Func
  | .input => none
  | .output => none
  | .func1 => func1Of p.val
  | .func2 => func2Of p.val

/-- Whether a function is an input function (R169). -/
def isInput : Func → Bool
  | .infeedEye => true
  | .stopEye => true
  | .rejectEye => true
  | .exitEye => true
  | .bagEye _ => true
  | .key _ => true
  | .guardDoor => true
  | .trayFull => true
  | _ => false

/-- The station-B functions (R169). -/
def isStationB : Func → Bool
  | .bagEye .b => true
  | .blower .b => true
  | .scoop .b => true
  | .tie .b => true
  | _ => false

end Sys2Proof.Machine
end

