-- ==== Sys2Proof/Machine/Text.lean ====
section
/-! DEFINITION. The text forms of the link (R178, R180, R186): numbers, flags, absent fields, lists, the names of the states, and
the sum and carriage return that end a line. -/

namespace Sys2Proof.Machine

/-- The character codes of a word. -/
def codes (w : String) : Text := w.toList.map fun c => BitVec.ofNat 8 c.toNat

/-- A number in decimal. -/
def decimal (n : Nat) : Text := (Nat.toDigits 10 n).map fun c => BitVec.ofNat 8 c.toNat

/-- A number in decimal, filled with zeros to `width` digits. -/
def padded (width n : Nat) : Text := List.replicate (width - (decimal n).length) 0x30 ++ decimal n

/-- A signed count; the sign's form is the manual's silence (`Config.negativeCountText`). -/
def signedText : Int → Text
  | .ofNat n => decimal n
  | .negSucc n => Config.negativeCountText (n + 1)

/-- A flag is sent as 1 (set, on, yes) or 0 (R180). -/
def flagText (b : Bool) : Text := if b then [0x31] else [0x30]

/-- An absent field is sent as "-" (R180). -/
def absentText : Text := [0x2D]

/-- An optional field. -/
def optText {α : Type} (f : α → Text) : Option α → Text
  | none => absentText
  | some a => f a

/-- Parts joined by one separator character. -/
def joinWith (sep : Byte) : List Text → Text
  | [] => []
  | [t] => t
  | t :: ts => t ++ sep :: joinWith sep ts

/-- A list is sent with its entries joined by commas, an empty list as "-" (R180). -/
def listText (ts : List Text) : Text := if ts.isEmpty then absentText else joinWith 0x2C ts

/-- The fields of a line are separated by single spaces (R178). -/
def fields (ts : List Text) : Text := joinWith 0x20 ts

/-- The sum modulo 256 of the codes of all characters (R178). -/
def checkSum (t : Text) : Byte := t.foldl (· + ·) 0

/-- One hexadecimal digit, in capitals. -/
def hexDigit (n : Nat) : Byte := if n < 10 then BitVec.ofNat 8 (48 + n) else BitVec.ofNat 8 (55 + n)

/-- A line as it stands on the wire: the text, ";", the sum in two hexadecimal digits, CR (R178). -/
def sealLine (t : Text) : Text :=
  t ++ [0x3B, hexDigit ((checkSum t).toNat / 16), hexDigit ((checkSum t).toNat % 16), 0x0D]

/-- The class names S, M, L and XL are sent as their numbers; stations as A and B. -/
def stationText : Station → String
  | .a => "A"
  | .b => "B"

def memberText : Member → String
  | .bl320 => "BL-320"
  | .bl340 => "BL-340"

def zoneText : Zone → String
  | .infeed => "INFEED"
  | .slicer => "SLICER"
  | .transfer => "TRANSFER"
  | .station .a => "STATION_A"
  | .station .b => "STATION_B"
  | .outfeed => "OUTFEED"
  | .reject => "REJECT"

def markText : Mark → String
  | .short => "SHORT"
  | .double => "DOUBLE"
  | .operator => "OPERATOR"
  | .miscut => "MISCUT"
  | .interrupted => "INTERRUPTED"
  | .noRecipe => "NO_RECIPE"
  | .noClean => "NO_CLEAN"

def tieText : TieResult → String
  | .tied => "TIED"
  | .mistie => "MISTIE"
  | .untied => "UNTIED"
  | .notTied => "NONE"

def checkText : CheckKind → String
  | .length => "LENGTH"
  | .stop => "STOP"
  | .reject => "REJECT"
  | .exit => "EXIT"

def lineText : LineState → String
  | .stopped => "STOPPED"
  | .running => "RUNNING"
  | .draining => "DRAINING"
  | .halted => "HALTED"

def headText : HeadState → String
  | .empty => "EMPTY"
  | .entering => "ENTERING"
  | .advancing => "ADVANCING"
  | .cutting => "CUTTING"
  | .ejecting => "EJECTING"
  | .passing => "PASSING"
  | .homing => "HOMING"
  | .paused => "PAUSED"
  | .interrupted => "INTERRUPTED"

def bladeText : BladePhase → String
  | .idle => "IDLE"
  | .cut => "CUT"
  | .ret => "RETURN"

def stationStateText : StationState → String
  | .outOfService => "OUT_OF_SERVICE"
  | .empty => "EMPTY"
  | .opening => "OPENING"
  | .ready => "READY"
  | .filling => "FILLING"
  | .tying => "TYING"
  | .releasing => "RELEASING"

def policyText : Policy → String
  | .alternate => "ALTERNATE"
  | .fillA => "FILL_A"
  | .aOnly => "A_ONLY"
  | .bOnly => "B_ONLY"

def reasonText : SweepReason → String
  | .threshold => "THRESHOLD"
  | .changeover => "CHANGEOVER"
  | .command => "COMMAND"

def sweepText : SweepResult → String
  | .success => "SUCCESS"
  | .weak => "WEAK"
  | .aborted => "ABORTED"

def modeText : SampleMode → String
  | .centre => "CENTRE"
  | .edge => "EDGE"
  | .hybrid => "HYBRID"

def samplePhaseText : SamplePhase → String
  | .cut => "CUT"
  | .ret => "RETURN"
  | .idle => "IDLE"
  | .request => "REQUEST"

def faultStateText : FaultState → String
  | .inactive => "INACTIVE"
  | .active => "ACTIVE"
  | .latched => "LATCHED"

def actionText : Action → String
  | .nothing => "NONE"
  | .hold => "HOLD"
  | .halt => "HALT"

def faultText : FaultKind → String
  | .guardOpen => "GUARD_OPEN"
  | .bladeStall => "BLADE_STALL"
  | .beltStall => "BELT_STALL"
  | .jamInfeed => "JAM_INFEED"
  | .jamOutfeed => "JAM_OUTFEED"
  | .trackOverrun => "TRACK_OVERRUN"
  | .rejectMissed => "REJECT_MISSED"
  | .pusherFault => "PUSHER_FAULT"
  | .pusherOverload => "PUSHER_OVERLOAD"
  | .bladeOverload => "BLADE_OVERLOAD"
  | .bladeHot => "BLADE_HOT"
  | .station .a => "STATION_A"
  | .station .b => "STATION_B"
  | .clipsOut .a => "CLIPS_OUT_A"
  | .clipsOut .b => "CLIPS_OUT_B"
  | .vacuumFail => "VACUUM_FAIL"
  | .trayFull => "TRAY_FULL"
  | .supplyLow => "SUPPLY_LOW"
  | .boardHot => "BOARD_HOT"

def warnText : WarnKind → String
  | .trackFull => "TRACK_FULL"
  | .keyInvalid => "KEY_INVALID"
  | .strayEdge => "STRAY_EDGE"
  | .miscut => "MISCUT"
  | .bagsLow .a => "BAGS_LOW_A"
  | .bagsLow .b => "BAGS_LOW_B"
  | .bagsEmpty .a => "BAGS_EMPTY_A"
  | .bagsEmpty .b => "BAGS_EMPTY_B"
  | .noStation => "NO_STATION"
  | .clipsLow .a => "CLIPS_LOW_A"
  | .clipsLow .b => "CLIPS_LOW_B"
  | .mistie => "MISTIE"
  | .sweepWeak => "SWEEP_WEAK"
  | .crumbHigh => "CRUMB_HIGH"
  | .bladeDull => "BLADE_DULL"
  | .bladeWarm => "BLADE_WARM"
  | .supplySag => "SUPPLY_SAG"

def alertText : AlertName → String
  | .fault k => faultText k
  | .warning w => warnText w

def resetText : ResetCause → String
  | .powerOn => "POWER_ON"
  | .resetLine => "RESET_LINE"
  | .message => "MESSAGE"

def causeText : CloseCause → String
  | .schedule => "SCHEDULE"
  | .command => "COMMAND"
  | .clockSet => "CLOCK_SET"
  | .scheduleChanged => "SCHEDULE_CHANGED"

def tierText : Tier → String
  | .operator => "OPERATOR"
  | .setter => "SETTER"
  | .engineer => "ENGINEER"

def pointModeText : PointMode → String
  | .input => "IN"
  | .output => "OUT"
  | .func1 => "FUNC1"
  | .func2 => "FUNC2"

def driveText : DriveKind → String
  | .pushPull => "PP"
  | .openDrain => "OD"

def edgeText : EdgeSelect → String
  | .never => "NONE"
  | .rise => "RISE"
  | .fall => "FALL"
  | .both => "BOTH"

def funcText : Func → String
  | .infeedEye => "INFEED_EYE"
  | .stopEye => "STOP_EYE"
  | .rejectEye => "REJECT_EYE"
  | .exitEye => "EXIT_EYE"
  | .bagEye .a => "BAG_EYE_A"
  | .bagEye .b => "BAG_EYE_B"
  | .key .a => "KEY_A"
  | .key .b => "KEY_B"
  | .guardDoor => "GUARD_DOOR"
  | .trayFull => "TRAY_FULL"
  | .infeedHold => "INFEED_HOLD"
  | .knifeRun => "KNIFE_RUN"
  | .pusherEnable => "PUSHER_ENABLE"
  | .rejectGate => "REJECT_GATE"
  | .stationGate => "STATION_GATE"
  | .blower .a => "BLOWER_A"
  | .blower .b => "BLOWER_B"
  | .scoop .a => "SCOOP_A"
  | .scoop .b => "SCOOP_B"
  | .tie .a => "TIE_A"
  | .tie .b => "TIE_B"
  | .airKnife => "AIR_KNIFE"
  | .vacuum => "VACUUM"
  | .trend => "TREND"

def codeText : Code → String
  | .frame => "FRAME"
  | .unknown => "UNKNOWN"
  | .malformed => "SYNTAX"
  | .range => "RANGE"
  | .tier => "TIER"
  | .locked => "LOCKED"
  | .state => "STATE"
  | .notFitted => "NOT_FITTED"
  | .notAvailable => "NOT_AVAILABLE"
  | .inUse => "IN_USE"
  | .noSuch => "NO_SUCH"
  | .tooLate => "TOO_LATE"
  | .busy => "BUSY"
  | .notConfigured => "NOT_CONFIGURED"
  | .blocked => "BLOCKED"
  | .noRecipe => "NO_RECIPE"
  | .noClock => "NO_CLOCK"
  | .noStation => "NO_STATION"

end Sys2Proof.Machine
end

