-- ==== Sys2Proof/Machine/State.lean ====
section
/-! DEFINITION. Every piece of state the manual gives the controller, block by block, as plain data; the two kinds of stop; and
`State.reset`, the controller right after power-on. -/

namespace Sys2Proof.Machine

/-! ## The loaf track (01_the_loaf_track.md) -/

/-- The recipe snapshot of a record whose slot is not none (R2, R31). -/
structure Snapshot where
  slot : Slot
  figures : Figures
  locked : Bool
deriving DecidableEq, Repr

/-- A fixed length: belt counts and units (R2, R5). -/
structure Measured where
  counts : Nat
  lmm : Nat
deriving DecidableEq, Repr

/-- A slice plan (R52). -/
structure Plan where
  n : Nat
  leadHeel : Nat
  trailHeel : Nat
  cutCount : Nat
  targets : List Nat
  ejectTarget : Nat
deriving DecidableEq, Repr

/-- The code printed on a clip (R109). -/
structure ClipCode where
  day : Nat
  month : Nat
  letter : Byte
deriving DecidableEq, Repr

/-- An armed distance check (R10). A check whose `remaining` is 0 has expired; its expiry event takes it away. -/
structure DistanceCheck where
  kind : CheckKind
  remaining : Nat
deriving DecidableEq, Repr

/-- A loaf record (R2). -/
structure Loaf where
  tag : Nat
  zone : Zone
  snapshot : Option Snapshot
  leadCount : Belt
  measured : Option Measured
  plan : Option Plan
  cutsDone : Option Nat
  mark : Option Mark
  station : Option Station
  tie : Option TieResult
  clipCode : Option ClipCode
  ejectCount : Option Belt
  check : Option DistanceCheck
deriving DecidableEq, Repr

/-- The loaf track (R1, R3, R8, R9, R18). -/
structure Track where
  loaves : List Loaf
  nextTag : Nat
  beltCount : Belt
  limit : Nat
  geometry : Geometry
  infeedHold : Bool
deriving DecidableEq, Repr

/-! ## The recipe table (02_recipes_tiers_and_locks.md) -/

/-- A VALID recipe slot (R24). -/
structure Recipe where
  name : Text
  figures : Figures
  locked : Bool
deriving DecidableEq, Repr

/-- The recipe table and the access controls (R24, R30, R37, R38, R39); an EMPTY slot is `none`. -/
structure Recipes where
  slots : Vector (Option Recipe) 16
  runRecipe : Option Slot
  lockdown : Bool
  bypass : Bool
  frozen : Bool
deriving DecidableEq, Repr

/-! ## The slicing head (04_the_slicing_head.md) -/

/-- The slicing context, the pusher, the blade and its timing (R57 to R61, R69).
`phase` is IDLE exactly while the blade is not turning. `cutTime` is the CUT duration of the revolution in progress.
`previous` holds the previous CUT and RETURN durations in microseconds. `stallTimer` is its deadline while it runs. -/
structure Head where
  state : HeadState
  tag : Option Nat
  nextCut : Option Nat
  target : Int
  pausedFrom : Option HeadState
  pusher : Int
  knife : Bool
  park : Bool
  phaseInput : Bool
  phase : BladePhase
  stamp : Stamp
  cutTime : Option Nat
  previous : Option (Nat × Nat)
  stallTimer : Option Nat
  miscuts : Nat
deriving DecidableEq, Repr

/-! ## Stations and tyers (05, 06) -/

/-- The record of one station (R78), with its timers: the bag-open timer (R80), the travel count (R88), the scoop pulse (R88)
and the release wait (R89), each absent while it does not run. A travel count of 0 has run out; its expiry event takes it. -/
structure StationRec where
  state : StationState
  bagClass : Nat
  inServiceFlag : Bool
  magazine : Nat
  misties : Nat
  tag : Option Nat
  attempt : Option Nat
  held : Bool
  bagTimer : Option Nat
  travel : Option Nat
  scoopTimer : Option Nat
  releaseTimer : Option Nat
deriving DecidableEq, Repr

/-- The stations block (R78, R85, R87, R96). -/
structure Stations where
  recs : PerStation StationRec
  policy : Policy
  lastAssigned : Station
  times : BaggingTimes
  stationGate : Bool
deriving DecidableEq, Repr

/-- A tying stage in STRIKING (R100, R101): the strike time it began with, whether its midpoint is still to come, and the
judgement of its tension sample once that has come. -/
structure Strike where
  time : Nat
  midpointDue : Bool
  judged : Option TieResult
deriving DecidableEq, Repr

/-- One tyer (R98). -/
structure Tyer where
  spool : Nat
  settings : TyerSettings
  stage : Option Strike
  codeHeld : Option ClipCode
  clipsOut : Bool
deriving DecidableEq, Repr

/-- The options read from the straps (R26, R98). -/
structure Options where
  printer : Bool
  tyers : PerStation Bool
deriving DecidableEq, Repr

/-! ## Crumb control (07_crumb_control.md) -/

/-- A running sweep (R117, R118): the settings it began with, whether the pressure has been reached, whether the rise timer and
the sweep timer still run (VACUUM is asserted while the sweep timer runs), and the judgement once it is made. -/
structure Sweep where
  time : Nat
  pressure : Nat
  reached : Bool
  riseRunning : Bool
  timerRunning : Bool
  judged : Option SweepResult
deriving DecidableEq, Repr

/-- Crumb control (R111 to R119). -/
structure Crumb where
  bladeLoad : Nat
  trayLoad : Nat
  settings : CrumbSettings
  bursting : Bool
  airKnife : Bool
  pending : Option SweepReason
  sweep : Option Sweep
  lastAdmitted : Option Slot
  weakCount : Nat
deriving DecidableEq, Repr

/-! ## Measurement (08_phase_aligned_measurement.md) -/

/-- A last sample (R124). -/
structure Sample where
  value : Nat
  stamp : Stamp
  phase : SamplePhase
deriving DecidableEq, Repr

/-- The condition and run counter of a bound limit (R132). -/
structure Bound where
  present : Bool
  runCount : Nat
deriving DecidableEq, Repr

/-- A request to the converter (R126). `live` is false once the stage that asked has been cut short: its sample is then
ignored when it comes (R103, R120). -/
structure ConvRequest where
  who : Requester
  live : Bool
deriving DecidableEq, Repr

/-- A conversion in progress (R125). -/
structure Conversion where
  channel : Channel
  stamp : Stamp
  phase : SamplePhase
  request : Option ConvRequest
deriving DecidableEq, Repr

/-- The sampling settings (R127, R130, R135); each set in ascending order. -/
structure Sampling where
  cutSet : List Channel
  retSet : List Channel
  mode : SampleMode
  edgeDelay : Nat
  hybridPeriod : Nat
deriving DecidableEq, Repr

/-- The TREND output (R136): the selected channel and frequency, the value the output has taken and waits to show, and the
duty and frequency of the period in progress. -/
structure Trend where
  channel : Channel
  frequency : Nat
  value : Nat
  duty : Nat
  periodFrequency : Nat
deriving DecidableEq, Repr

/-- Measurement (R124 to R136). `centreTimer` and `edgeTimer` hold their delays in microseconds while they run; `centreDue`
is a CENTRE conversion waiting for the converter, `edgeRun` an EDGE run under way, `scan` the channels an idle scan has still
to take. -/
structure Meas where
  samples : Vector Sample 8
  limits : Vector Limits 8
  bounds : Vector Bound 8
  sampling : Sampling
  cutPointer : Option Channel
  retPointer : Option Channel
  converter : Option Conversion
  requests : List ConvRequest
  centreTimer : Option Nat
  centreDue : Bool
  edgeTimer : Option Nat
  edgeRun : Bool
  idleTimer : Bool
  scan : List Channel
  trend : Trend
deriving DecidableEq, Repr

/-! ## Supervision (09_line_states_faults_and_warnings.md) -/

/-- A stamp: the clock reading and the revolution stamp (R143). -/
structure FaultStamp where
  clock : Nat
  rev : Stamp
deriving DecidableEq, Repr

/-- One entry of the fault table (R143). -/
structure FaultEntry where
  state : FaultState
  action : Action
  count : Nat
  lastStamp : Option FaultStamp
  lastLoaf : Option Nat
  mask : Bool
deriving DecidableEq, Repr

/-- One entry of the warning table (R150). -/
structure WarnEntry where
  present : Bool
  indication : Bool
  mask : Bool
deriving DecidableEq, Repr

/-- The first-fault record (R149). -/
structure FirstFault where
  kind : FaultKind
  stamp : FaultStamp
  loaf : Option Nat
  line : LineState
deriving DecidableEq, Repr

/-- Supervision (R139, R143, R149, R150, R154); `beltWatch` says whether the belt watch timer runs (R144). -/
structure Supervision where
  line : LineState
  faults : Vector FaultEntry 19
  warnings : Vector WarnEntry 17
  firstFault : Option FirstFault
  resetCause : ResetCause
  beltWatch : Bool
deriving DecidableEq, Repr

/-! ## Shift clock and totals (10_shift_clock_and_totals.md) -/

/-- One entry of the shift schedule (R158). -/
structure ShiftEntry where
  letter : Byte
  startMinute : Nat
deriving DecidableEq, Repr

/-- The seven counts of rejected loaves (R160). -/
structure RejectCounts where
  short : Nat
  double : Nat
  operator : Nat
  miscut : Nat
  interrupted : Nat
  noRecipe : Nat
  noClean : Nat
deriving DecidableEq, Repr

/-- The counts of one station (R160). -/
structure StationCounts where
  drawn : Nat
  wasted : Nat
  clipMm : Nat
  misties : Nat
  untied : Nat
deriving DecidableEq, Repr

/-- A per-recipe line (R160); the key `none` is "no recipe". -/
structure RecipeLine where
  key : Option Slot
  loavesIn : Nat
  bagged : Nat
  rejected : Nat
  slices : Nat
deriving DecidableEq, Repr

/-- The open shift record (R160); the bakery date is a day number. -/
structure ShiftRecord where
  entry : Nat
  letter : Byte
  bakeryDay : Option Nat
  openTime : Nat
  openClockSet : Bool
  carriedIn : Nat
  loavesIn : Nat
  bagged : Nat
  lost : Nat
  unrecorded : Nat
  rejected : RejectCounts
  sweepsSuccess : Nat
  sweepsWeak : Nat
  sweepsAborted : Nat
  bursts : Nat
  halts : Nat
  runSeconds : Nat
  drainSeconds : Nat
  stopSeconds : Nat
  haltSeconds : Nat
  stations : PerStation StationCounts
  lines : List RecipeLine
deriving DecidableEq, Repr

/-- A closed shift record (R160, R165). -/
structure ClosedRecord where
  record : ShiftRecord
  carriedOut : Nat
  closeTime : Nat
  closeClockSet : Bool
  cause : CloseCause
deriving DecidableEq, Repr

/-- The shift clock and totals (R156, R158, R160, R165); `clock` is the clock reading in seconds. -/
structure Shift where
  clock : Nat
  clockSet : Bool
  schedule : List ShiftEntry
  openRecord : ShiftRecord
  history : List ClosedRecord
deriving DecidableEq, Repr

/-- A fresh open record: every count 0 and no per-recipe line (R165). -/
def freshRecord (entry : Nat) (letter : Byte) (day : Option Nat) (time : Nat) (clockSet : Bool) (carriedIn : Nat) : ShiftRecord where
  entry := entry
  letter := letter
  bakeryDay := day
  openTime := time
  openClockSet := clockSet
  carriedIn := carriedIn
  loavesIn := 0
  bagged := 0
  lost := 0
  unrecorded := 0
  rejected := ⟨0, 0, 0, 0, 0, 0, 0⟩
  sweepsSuccess := 0
  sweepsWeak := 0
  sweepsAborted := 0
  bursts := 0
  halts := 0
  runSeconds := 0
  drainSeconds := 0
  stopSeconds := 0
  haltSeconds := 0
  stations := ⟨⟨0, 0, 0, 0, 0⟩, ⟨0, 0, 0, 0, 0⟩⟩
  lines := []

/-! ## Points (11_points.md) -/

/-- One point (R170). `driven` and `signal` are what stands at the terminal from outside: whether anything drives it, and the
level it has where no pull-up decides it. -/
structure Point where
  mode : PointMode
  drive : DriveKind
  pullUp : Bool
  edge : EdgeSelect
  report : Bool
  latch : Bool
  written : Bool
  driven : Bool
  signal : Bool
deriving DecidableEq, Repr

/-! ## The link (12_the_link_and_message_formats.md) -/

/-- A report (R182). -/
inductive Report where
  | fault (k : FaultKind) (st : FaultState) (count : Nat)
  | line (l : LineState)
  | warning (w : WarnKind) (present : Bool)
  | done (tag : Nat) (tie : Option TieResult)
  | rejected (tag : Nat) (mark : Option Mark)
  | sweep (reason : SweepReason) (result : SweepResult) (trayLoad : Nat)
  | shift (letter : Byte) (day : Option Nat) (cause : CloseCause) (time carriedOut : Nat)
  | edge (p : PointNo) (rise level : Bool)
deriving DecidableEq, Repr

/-- The report enables of the six NORMAL kinds (R183). -/
structure Enables where
  w : Bool
  d : Bool
  x : Bool
  c : Bool
  s : Bool
  e : Bool
deriving DecidableEq, Repr

/-- The reply owed: its lines not yet begun, and whether it is the reply of RESET (R154, R180). -/
structure Owed where
  lines : List Text
  isReset : Bool
deriving DecidableEq, Repr

/-- The line being sent (R181). -/
structure Sending where
  kind : TxKind
  text : Text
deriving DecidableEq, Repr

/-- The link (R179 to R183). -/
structure Link where
  buffer : Text
  silence : Bool
  owed : Option Owed
  pendingAnswer : Option Code
  queue : List Report
  lost : Bool
  enables : Enables
  sending : Option Sending
deriving DecidableEq, Repr

/-! ## The whole controller -/

/-- The state of the controller. `member` is fixed for a part and `fresh` is the model's own counter, the argument of the free
values (log entries 1 and 9). `pending` is the queue of commands still to be taken, first in, first out. -/
structure State where
  member : Member
  options : Options
  track : Track
  recipes : Recipes
  head : Head
  stations : Stations
  tyers : PerStation Tyer
  crumb : Crumb
  meas : Meas
  sup : Supervision
  shift : Shift
  points : Vector Point 24
  link : Link
  fresh : Nat
  pending : List Instr
deriving DecidableEq, Repr

/-- The ways a command can stop the model with a fault: none.
No command of the block ends in a fault (the manual gives every command an effect in every state), so the type is empty. -/
inductive Fault where
deriving DecidableEq, Repr

/-- The ways a command can be refused by the model. -/
inductive Refusal where
  /-- Raised by an arm of `exec` whose command has no meaning yet; safe: the model stops where the hardware goes on. -/
  | notModelled (mnemonic : String)
deriving DecidableEq, Repr

/-! ## One update for each block of the state -/

def State.setOptions (s : State) (v : Options) : State := { s with options := v }
def State.setTrack (s : State) (v : Track) : State := { s with track := v }
def State.setRecipes (s : State) (v : Recipes) : State := { s with recipes := v }
def State.setHead (s : State) (v : Head) : State := { s with head := v }
def State.setStations (s : State) (v : Stations) : State := { s with stations := v }
def State.setTyers (s : State) (v : PerStation Tyer) : State := { s with tyers := v }
def State.setCrumb (s : State) (v : Crumb) : State := { s with crumb := v }
def State.setMeas (s : State) (v : Meas) : State := { s with meas := v }
def State.setSup (s : State) (v : Supervision) : State := { s with sup := v }
def State.setShift (s : State) (v : Shift) : State := { s with shift := v }
def State.setPoints (s : State) (v : Vector Point 24) : State := { s with points := v }
def State.setLink (s : State) (v : Link) : State := { s with link := v }
def State.setFresh (s : State) (v : Nat) : State := { s with fresh := v }
def State.setPending (s : State) (v : List Instr) : State := { s with pending := v }

/-! ## The state after power-on, block by block -/

def Track.powerOn : Track where
  loaves := []
  nextTag := 1
  beltCount := 0
  limit := 2
  geometry := ⟨500, 450, 900, 1500, 800, 1250⟩
  infeedHold := true

def Recipes.powerOn : Recipes where
  slots := Vector.replicate 16 none
  runRecipe := none
  lockdown := false
  bypass := false
  frozen := false

/-- `park` and `phaseInput` are input levels, which no reset gives; see log entry 2. -/
def Head.powerOn (park phaseInput : Bool) : Head where
  state := .empty
  tag := none
  nextCut := none
  target := 0
  pausedFrom := none
  pusher := 0
  knife := false
  park := park
  phaseInput := phaseInput
  phase := .idle
  stamp := 0
  cutTime := none
  previous := none
  stallTimer := none
  miscuts := 0

def StationRec.powerOn : StationRec where
  state := .empty
  bagClass := 1
  inServiceFlag := true
  magazine := 0
  misties := 0
  tag := none
  attempt := none
  held := false
  bagTimer := none
  travel := none
  scoopTimer := none
  releaseTimer := none

def Stations.powerOn : Stations where
  recs := ⟨StationRec.powerOn, StationRec.powerOn⟩
  policy := .alternate
  lastAssigned := .b
  times := ⟨400, 150⟩
  stationGate := false

def Tyer.powerOn : Tyer where
  spool := 0
  settings := ⟨60, 70, 80, 90, 60⟩
  stage := none
  codeHeld := none
  clipsOut := false

/-- The options given by the straps; OPT2 is not read on the BL-320 (R98). -/
def Options.ofStraps (m : Member) (p : Straps) : Options where
  printer := p.opt0
  tyers := ⟨p.opt1, stationFitted m .b && p.opt2⟩

def Crumb.powerOn : Crumb where
  bladeLoad := 0
  trayLoad := 0
  settings := ⟨2000, 500, 20000, 3, 400⟩
  bursting := false
  airKnife := false
  pending := none
  sweep := none
  lastAdmitted := none
  weakCount := 0

def Sampling.powerOn : Sampling where
  cutSet := [0, 1]
  retSet := [1, 2, 3, 6, 7]
  mode := .hybrid
  edgeDelay := 500
  hybridPeriod := 200

def Meas.powerOn : Meas where
  samples := Vector.replicate 8 ⟨0, 0, .idle⟩
  limits := defaultLimits
  bounds := Vector.replicate 8 ⟨false, 0⟩
  sampling := Sampling.powerOn
  cutPointer := some 0
  retPointer := some 1
  converter := none
  requests := []
  centreTimer := none
  centreDue := false
  edgeTimer := none
  edgeRun := false
  idleTimer := true
  scan := []
  trend := ⟨0, 200, 0, 0, 200⟩

/-- The fault table after power-on: INACTIVE, default actions, masks clear, nothing counted (R155). -/
def faultsPowerOn (m : Member) : Vector FaultEntry 19 :=
  Vector.ofFn fun i => ⟨.inactive, defaultAction m (allFaults.getD i.val .guardOpen), 0, none, none, false⟩

def Supervision.powerOn (m : Member) : Supervision where
  line := .stopped
  faults := faultsPowerOn m
  warnings := Vector.replicate 17 ⟨false, false, false⟩
  firstFault := none
  resetCause := .powerOn
  beltWatch := false

def Shift.powerOn : Shift where
  clock := 0
  clockSet := false
  schedule := [⟨0x41, 360⟩]
  openRecord := freshRecord 1 0x41 none 0 false 0
  history := []

def Point.powerOn : Point where
  mode := .input
  drive := .pushPull
  pullUp := false
  edge := .never
  report := false
  latch := false
  written := false
  driven := true
  signal := false

def Link.powerOn : Link where
  buffer := []
  silence := false
  owed := none
  pendingAnswer := none
  queue := []
  lost := false
  enables := ⟨true, true, true, true, true, true⟩
  sending := none

/-- The warnings present after a power-on of a BL-340 with both tyers fitted (R155), in the order of R150. -/
def resetWarnings : Vector WarnEntry 17 :=
  Vector.ofFn fun i => if i.val ∈ [4, 5, 6, 7, 9, 10] then ⟨true, true, false⟩ else ⟨false, false, false⟩

/-- The controller right after power-on: a BL-340 with the printer and both tyers strapped (log entry 1), every block at its
power-on values, the warnings that the stations and tyers then present indicated, the #W of the first of them being sent and
those of the others queued (R154, R155, R181). -/
def State.reset : State where
  member := .bl340
  options := ⟨true, ⟨true, true⟩⟩
  track := Track.powerOn
  recipes := Recipes.powerOn
  head := Head.powerOn false false
  stations := Stations.powerOn
  tyers := ⟨Tyer.powerOn, Tyer.powerOn⟩
  crumb := Crumb.powerOn
  meas := Meas.powerOn
  sup := { Supervision.powerOn .bl340 with warnings := resetWarnings }
  shift := Shift.powerOn
  points := Vector.replicate 24 Point.powerOn
  link := { Link.powerOn with
    queue := [.warning (.bagsLow .b) true, .warning (.bagsEmpty .a) true, .warning (.bagsEmpty .b) true,
      .warning (.clipsLow .a) true, .warning (.clipsLow .b) true]
    sending := some ⟨.report, sealLine (codes "#W BAGS_LOW_A 1")⟩ }
  fresh := 0
  pending := []

end Sys2Proof.Machine
end

