-- ==== Sys2Proof/Machine/Ops.lean ====
section
/-! DEFINITION. The shared operations over points, tiers, loaf records, totals and the link: reading a function input, the tier of
a request, finding and changing a record, taking a count, queueing a report, owing a reply, starting the next line. -/

namespace Sys2Proof.Machine

/-! ## Points and inputs (R169 to R171) -/

/-- The function a point holds (R170). -/
def pointFunction (s : State) (p : PointNo) : Option Func := functionOf p s.points[p].mode

/-- The point that holds a function, if one does. -/
def holder (s : State) (f : Func) : Option PointNo := (List.finRange 24).find? fun p => decide (pointFunction s p = some f)

/-- Whether a point holds the function. -/
def isHeld (s : State) (f : Func) : Bool := (holder s f).isSome

/-- The level at an input terminal: pulled high where the pull-up is on and nothing drives it, else what stands there (R170). -/
def terminalLevel (p : Point) : Bool := if !p.driven && p.pullUp then true else p.signal

/-- The level of an input function; a function held by no point reads low (R171). -/
def inputHigh (s : State) (f : Func) : Bool :=
  match holder s f with
  | none => false
  | some p => terminalLevel s.points[p]

/-- What stands at a terminal from outside after it changes; a terminal let go takes a free level (log entry 9). -/
def Point.setSignal (p : Point) (sig : Signal) (fresh : Nat) : Point :=
  match sig with
  | .low => { p with driven := true, signal := false }
  | .high => { p with driven := true, signal := true }
  | .undriven => { p with driven := false, signal := Config.floatingLevel fresh }

/-- A change at the terminal of one point; letting it go uses up one free value. -/
def setTerminal (p : PointNo) (sig : Signal) (s : State) : State :=
  let t := s.setPoints (s.points.set p (s.points[p].setSignal sig s.fresh))
  if sig = .undriven then t.setFresh (s.fresh + 1) else t

/-- The level that stands at the terminal of an input function from here on; nothing where no point holds it. -/
def driveInput (f : Func) (high : Bool) (s : State) : State :=
  match holder s f with
  | none => s
  | some p => setTerminal p (if high then .high else .low) s

/-! ## Tiers (R32, R33) -/

/-- Both key functions are held by points (R32). -/
def keysAssigned (s : State) : Bool := isHeld s (.key .a) && isHeld s (.key .b)

/-- The tier of a request at this moment (R32). -/
def tier (s : State) : Tier :=
  if keysAssigned s then
    match inputHigh s (.key .a), inputHigh s (.key .b) with
    | true, false => .setter
    | false, true => .engineer
    | _, _ => .operator
  else .engineer

/-- The rank of a tier. -/
def tierRank : Tier → Nat
  | .operator => 0
  | .setter => 1
  | .engineer => 2

/-- Whether the caller is at or above a minimum tier (R33). -/
def tierOk (s : State) (least : Tier) : Bool := tierRank least ≤ tierRank (tier s)

/-! ## The line state and derived levels -/

/-- The line is RUNNING or DRAINING: PUSHER_ENABLE is asserted (R58). -/
def moving (s : State) : Bool := s.sup.line = .running || s.sup.line = .draining

/-- The pusher is home: its count lies within 2 of 0 (R58). -/
def pusherHome (h : Head) : Bool := h.pusher.natAbs ≤ Config.pusherTolerance

/-- The pusher is in position: its count lies within 2 of the current target (R58). -/
def inPosition (h : Head) : Bool := (h.pusher - h.target).natAbs ≤ Config.pusherTolerance

/-! ## Loaf records (R1, R2) -/

/-- The record with a tag. -/
def findLoaf (s : State) (tag : Nat) : Option Loaf := s.track.loaves.find? fun r => r.tag = tag

/-- The oldest record in a zone. -/
def oldestIn (s : State) (z : Zone) : Option Loaf := s.track.loaves.find? fun r => decide (r.zone = z)

/-- The number of records in a zone. -/
def zoneCount (s : State) (z : Zone) : Nat := (s.track.loaves.filter fun r => decide (r.zone = z)).length

/-- The track with the list of records replaced. -/
def setLoaves (ls : List Loaf) (s : State) : State := s.setTrack { s.track with loaves := ls }

/-- A change to the first record that meets a test. -/
def modifyFirst (p : Loaf → Bool) (f : Loaf → Loaf) : List Loaf → List Loaf
  | [] => []
  | r :: rs => if p r then f r :: rs else r :: modifyFirst p f rs

/-- A change to the record with a tag. -/
def modifyLoaf (tag : Nat) (f : Loaf → Loaf) (s : State) : State :=
  setLoaves (modifyFirst (fun r => decide (r.tag = tag)) f s.track.loaves) s

/-- A zone move's bookkeeping on the record with a tag, asked for by the block that owns the zone it leaves (R12). -/
def moveLoaf (zone : Zone) (tag : Nat) (f : Loaf → Loaf) (s : State) : State :=
  setLoaves (modifyFirst (fun r => decide (r.tag = tag) && decide (r.zone = zone)) f s.track.loaves) s

/-- The record with a tag leaves the list; the records behind it close up (R1). -/
def removeLoaf (tag : Nat) (s : State) : State := setLoaves (s.track.loaves.eraseP fun r => decide (r.tag = tag)) s

/-- The first mark written stands (R2). -/
def Loaf.withMark (m : Mark) (r : Loaf) : Loaf := { r with mark := r.mark.or (some m) }

/-- The pusher position at which a loaf of this length has left the slicer, rounded half up (R51, R71). -/
def ejectPosition (lmm kp : Nat) : Nat := ((lmm + 200) * kp + 500) / 1000

/-- The eject target of a record: its plan's, or the one its length gives (R71). -/
def ejectTargetOf (s : State) (r : Loaf) : Nat :=
  match r.plan with
  | some p => p.ejectTarget
  | none => ejectPosition ((r.measured.map Measured.lmm).getD 0) s.track.geometry.kp

/-- The record the slicing context holds (R57). -/
def headLoaf (s : State) : Option Loaf := s.head.tag.bind (findLoaf s)

/-- The distance of a check in belt counts (R6, R10). -/
def checkDistance (g : Geometry) : CheckKind → Nat
  | .length => 800 * g.k / 100
  | .stop => (g.dStop + 200) * g.k / 100
  | .reject => (g.dReject + 200) * g.k / 100
  | .exit => (g.dExit + 200) * g.k / 100

/-- A check armed with the geometry in force (R10). -/
def armedCheck (s : State) (kind : CheckKind) : DistanceCheck := ⟨kind, checkDistance s.track.geometry kind⟩

/-! ## Counts of the open shift record (R160 to R163) -/

/-- A count raised by `n`, saturating (R160). -/
def raiseCount (c n : Nat) : Nat := min (c + n) Config.countCap

/-- A change to the open shift record. -/
def countShift (f : ShiftRecord → ShiftRecord) (s : State) : State :=
  s.setShift { s.shift with openRecord := f s.shift.openRecord }

/-- A change to one station's counts. -/
def countStation (x : Station) (f : StationCounts → StationCounts) (s : State) : State :=
  countShift (fun r => { r with stations := r.stations.set x (f (r.stations.get x)) }) s

/-- Whether a per-recipe key stands before another: ascending slots, "no recipe" last (R160). -/
def keyBefore : Option Slot → Option Slot → Bool
  | some i, some j => i.val < j.val
  | some _, none => true
  | none, _ => false

/-- A per-recipe line with nothing counted. -/
def RecipeLine.fresh (key : Option Slot) : RecipeLine := ⟨key, 0, 0, 0, 0⟩

/-- A count taken against a key: on the key's line, or on a new line in its place (R160). -/
def countLine (key : Option Slot) (f : RecipeLine → RecipeLine) : List RecipeLine → List RecipeLine
  | [] => [f (RecipeLine.fresh key)]
  | l :: ls =>
    if l.key = key then f l :: ls
    else if keyBefore key l.key then f (RecipeLine.fresh key) :: l :: ls
    else l :: countLine key f ls

/-- The per-recipe key of a record: its snapshot's slot, or "no recipe" (R161). -/
def Loaf.key (r : Loaf) : Option Slot := r.snapshot.map Snapshot.slot

/-- A loaf rejected, under its mark (R161). -/
def RejectCounts.add (c : RejectCounts) : Mark → RejectCounts
  | .short => { c with short := raiseCount c.short 1 }
  | .double => { c with double := raiseCount c.double 1 }
  | .operator => { c with operator := raiseCount c.operator 1 }
  | .miscut => { c with miscut := raiseCount c.miscut 1 }
  | .interrupted => { c with interrupted := raiseCount c.interrupted 1 }
  | .noRecipe => { c with noRecipe := raiseCount c.noRecipe 1 }
  | .noClean => { c with noClean := raiseCount c.noClean 1 }

/-- The sum of the seven counts: "rejected" in the balance of R162 (R160). -/
def RejectCounts.total (c : RejectCounts) : Nat :=
  c.short + c.double + c.operator + c.miscut + c.interrupted + c.noRecipe + c.noClean

/-! ## The link: replies, reports, the transmitter (R180 to R183) -/

/-- #F and #L are URGENT, the rest NORMAL (R182). -/
def Report.urgent : Report → Bool
  | .fault _ _ _ => true
  | .line _ => true
  | _ => false

/-- Whether a report's kind is enabled; #F and #L always are (R183). -/
def Enables.allow (e : Enables) : Report → Bool
  | .fault _ _ _ => true
  | .line _ => true
  | .warning _ _ => e.w
  | .done _ _ => e.d
  | .rejected _ _ => e.x
  | .sweep _ _ _ => e.c
  | .shift _ _ _ _ _ => e.s
  | .edge _ _ _ => e.e

/-- A date as it is sent: yyyy-mm-dd (R186). -/
def dateText (d : Date) : Text := padded 4 d.year ++ 0x2D :: padded 2 d.month ++ 0x2D :: padded 2 d.day

/-- A day number as a date. -/
def dayText (n : Nat) : Text := dateText (dateOfDay n)

/-- The fields of a report after its mark (R182). -/
def Report.text : Report → Text
  | .fault k st n => fields [codes "F", codes (faultText k), codes (faultStateText st), decimal n]
  | .line l => fields [codes "L", codes (lineText l)]
  | .warning w p => fields [codes "W", codes (warnText w), flagText p]
  | .done tag tie => fields [codes "D", decimal tag, optText (codes ∘ tieText) tie]
  | .rejected tag m => fields [codes "X", decimal tag, optText (codes ∘ markText) m]
  | .sweep r res load => fields [codes "C", codes (reasonText r), codes (sweepText res), decimal load]
  | .shift letter day cause time out =>
    fields [codes "S", [letter], optText dayText day, codes (causeText cause), decimal time, decimal out]
  | .edge p rise level => fields [codes "E", decimal p.val, codes (if rise then "RISE" else "FALL"), flagText level]

/-- A report joins the queue, displaces the oldest NORMAL report of a full queue, or is dropped (R182). -/
def Link.push (r : Report) (l : Link) : Link :=
  if l.queue.length < Config.queueCapacity then { l with queue := l.queue ++ [r] }
  else
    match l.queue.find? fun q => !q.urgent with
    | some old => { l with queue := l.queue.erase old ++ [r], lost := true }
    | none => { l with lost := true }

/-- A report is queued if its kind is enabled (R182, R183). -/
def report (r : Report) (s : State) : State := if s.link.enables.allow r then s.setLink (s.link.push r) else s

/-- The report the transmitter sends next: the oldest URGENT, else the oldest NORMAL (R181). -/
def nextReport (q : List Report) : Option Report :=
  match q.find? Report.urgent with
  | some r => some r
  | none => q.head?

/-- An idle transmitter begins the first of: the next reply line, the pending answer, the oldest URGENT report, the oldest
NORMAL report (R181). The lost flag marks the report and is cleared as its sending begins (R182). -/
def Link.begin (l : Link) : Link :=
  match l.sending with
  | some _ => l
  | none =>
    match l.owed with
    | some ⟨t :: ts, isReset⟩ => { l with owed := some ⟨ts, isReset⟩, sending := some ⟨.reply, sealLine t⟩ }
    | some ⟨[], _⟩ => l
    | none =>
      match l.pendingAnswer with
      | some c => { l with sending := some ⟨.pendingAnswer, sealLine (0x21 :: codes (codeText c))⟩ }
      | none =>
        match nextReport l.queue with
        | some r =>
          { l with
            queue := l.queue.erase r
            lost := false
            sending := some ⟨.report, sealLine (0x23 :: (if l.lost then 0x2B :: r.text else r.text))⟩ }
        | none => l

/-- The transmitter, at the end of an event that may have made something ready to send. -/
def transmit (s : State) : State := s.setLink s.link.begin

/-- The reply to a refused request: "!" and the code (R180). -/
def refusal (c : Code) : Owed := ⟨[0x21 :: codes (codeText c)], false⟩

/-- The reply to an accepted request on a single line: "=", the command words, the fields (R180). -/
def accepted (words : String) (fs : List Text) : Owed := ⟨[0x3D :: fields (codes words :: fs)], false⟩

/-- A following line of a multi-line reply begins with "=" (R180). -/
def followLine (fs : List Text) : Text := 0x3D :: fields fs

/-- A multi-line reply: the first line carries the command words, the number of lines that follow and the header fields (R180). -/
def multiLine (words : String) (header : List Text) (follow : List (List Text)) : Owed :=
  ⟨(0x3D :: fields (codes words :: decimal follow.length :: header)) :: follow.map followLine, false⟩

/-- What a request's owning block does with it: the state afterwards and the reply, formed at the same event (R179). -/
abbrev Service := State → State × Owed

/-- A refused request changes nothing. -/
def refuse (c : Code) : Service := fun s => (s, refusal c)

/-- A request that is a form its syntax line does not admit is refused with SYNTAX before any other check (R179). -/
def withForm {α : Type} (f : Form α) (k : α → Service) : Service :=
  match f with
  | none => refuse .malformed
  | some a => k a

/-- The next check of a request, made on the state as it stands: refused with the code if it fails. -/
def require (ok : State → Bool) (c : Code) (k : Service) : Service := fun s => if ok s then k s else refuse c s

/-- The tier check of a request (R33). -/
def needTier (least : Tier) (k : Service) : Service := require (fun s => tierOk s least) .tier k

/-- A line that completes while a reply is owed or a pending answer is held gets a pending answer, if none is held (R180). -/
def answerLater (c : Code) (l : Link) : Link :=
  match l.pendingAnswer with
  | some _ => l
  | none => { l with pendingAnswer := some c }

/-- Whether a line that completes now is taken as a request: no reply is owed and no pending answer is held (R180). -/
def linkFree (l : Link) : Bool := l.owed.isNone && l.pendingAnswer.isNone

/-- A request line has completed: it is taken, and its reply is owed from this event; or it is answered later with BUSY (R179, R180). -/
def serve (svc : Service) (s : State) : State :=
  if linkFree s.link then
    let r := svc s
    transmit (r.1.setLink { r.1.link with owed := some r.2 })
  else s.setLink (answerLater .busy s.link)

/-- What a meaning answers. -/
abbrev Result := Host.Outcome State Fault Refusal

end Sys2Proof.Machine
end

