-- ==== Sys2Proof/Machine/Flags.lean ====
section
/-! DEFINITION. The status flags of supervision: the fault entries with the first-fault record (R143 to R145, R149), the warning
flags (R150), the conditions the warnings follow, and the two alert lines (R151).
A fault's action on the line is in Line.lean. -/

namespace Sys2Proof.Machine

/-- The entry of a fault kind. -/
def faultEntry (s : State) (k : FaultKind) : FaultEntry := s.sup.faults[faultIndex k]

/-- The entry of a fault kind replaced. -/
def setFault (k : FaultKind) (e : FaultEntry) (s : State) : State :=
  s.setSup { s.sup with faults := s.sup.faults.set (faultIndex k) e }

/-- The entry of a warning. -/
def warnEntry (s : State) (w : WarnKind) : WarnEntry := s.sup.warnings[warnIndex w]

/-- The entry of a warning replaced. -/
def setWarning (w : WarnKind) (e : WarnEntry) (s : State) : State :=
  s.setSup { s.sup with warnings := s.sup.warnings.set (warnIndex w) e }

/-- A fault is ACTIVE or LATCHED. -/
def faultStands (s : State) (k : FaultKind) : Bool := (faultEntry s k).state != .inactive

/-- Every fault is INACTIVE (R149). -/
def noFaultStands (s : State) : Bool := allFaults.all fun k => !faultStands s k

/-- The stamp of this event: the clock reading and the revolution stamp (R143). -/
def eventStamp (s : State) : FaultStamp := ⟨s.shift.clock, s.head.stamp⟩

/-- The first-fault record is written when every fault is INACTIVE at the event, and at no other time (R149). -/
def recordFirst (k : FaultKind) (loaf : Option Nat) (s : State) : State :=
  if noFaultStands s then s.setSup { s.sup with firstFault := some ⟨k, eventStamp s, loaf, s.sup.line⟩ } else s

/-- An occurrence: the entry takes the state, its count rises, its stamp and loaf are replaced, and #F is queued (R143, R152). -/
def faultOccurs (k : FaultKind) (st : FaultState) (loaf : Option Nat) (s : State) : State :=
  let e := faultEntry s k
  let n := min (e.count + 1) Config.occurrenceCap
  recordFirst k loaf s
    |> setFault k { e with state := st, count := n, lastStamp := some (eventStamp s), lastLoaf := loaf }
    |> report (.fault k st n)

/-- A change of state that is no occurrence: ACTIVE to LATCHED (R144), or LATCHED to INACTIVE (R148); #F is queued (R152). -/
def faultMoves (k : FaultKind) (st : FaultState) (s : State) : State :=
  let e := faultEntry s k
  setFault k { e with state := st } s |> report (.fault k st e.count)

/-- A warning's present flag follows its condition: at each change #W is queued, and becoming present sets the indication
(R150, R152). -/
def warn (w : WarnKind) (present : Bool) (s : State) : State :=
  let e := warnEntry s w
  if e.present = present then s
  else setWarning w { e with present := present, indication := e.indication || present } s |> report (.warning w present)

/-! ## The conditions that the warnings follow -/

/-- The record of a station. -/
def stationRec (s : State) (x : Station) : StationRec := s.stations.recs.get x

/-- The record of a station replaced. -/
def setStation (x : Station) (r : StationRec) (s : State) : State :=
  s.setStations { s.stations with recs := s.stations.recs.set x r }

/-- The tyer of a station. -/
def tyerOf (s : State) (x : Station) : Tyer := s.tyers.get x

/-- The tyer of a station replaced. -/
def setTyer (x : Station) (t : Tyer) (s : State) : State := s.setTyers (s.tyers.set x t)

/-- Whether a station's tyer is fitted (R98). -/
def tyerFitted (s : State) (x : Station) : Bool := stationFitted s.member x && s.options.tyers.get x

/-- A station has a fault hold while its STATION_x or its CLIPS_OUT_x is ACTIVE or LATCHED (R78). -/
def faultHold (s : State) (x : Station) : Bool := faultStands s (.station x) || faultStands s (.clipsOut x)

/-- A station is in service while its flag is set and it has no fault hold (R78). -/
def inService (s : State) (x : Station) : Bool :=
  stationFitted s.member x && (stationRec s x).inServiceFlag && !faultHold s x

/-- Sweeps are suspended while TRAY_FULL or VACUUM_FAIL is ACTIVE or LATCHED (R116). -/
def sweepsSuspended (s : State) : Bool := faultStands s .trayFull || faultStands s .vacuumFail

/-- The stations a policy permits (R86). -/
def policyPermits : Policy → Station → Bool
  | .alternate, _ => true
  | .fillA, _ => true
  | .aOnly, .a => true
  | .aOnly, .b => false
  | .bOnly, .a => false
  | .bOnly, .b => true

/-- A station that could take a loaf of a class, now or after its cycle (R86). -/
def couldTake (s : State) (cls : Nat) (x : Station) : Bool :=
  policyPermits s.stations.policy x && inService s x && (stationRec s x).bagClass = cls && (stationRec s x).state != .empty

/-- The bag class of a record: its snapshot's. -/
def Loaf.bagClass (r : Loaf) : Option Nat := r.snapshot.map fun sn => sn.figures.bagClass

/-- The condition of NO_STATION: an unmarked record waits in TRANSFER that no station could ever take (R86). -/
def noStationCondition (s : State) : Bool :=
  match oldestIn s .transfer with
  | none => false
  | some r =>
    match r.mark, r.bagClass with
    | none, some cls => !(couldTake s cls .a || couldTake s cls .b)
    | _, _ => false

/-- The clip length of a tyer for a bag class (R98). -/
def clipLength (t : TyerSettings) (cls : Nat) : Nat :=
  match cls with
  | 0 => t.s
  | 1 => t.m
  | 2 => t.l
  | _ => t.xl

/-- The condition of CRUMB_HIGH: at or above 2 T, or at the top of the range where 2 T is beyond it (R111). -/
def crumbHighCondition (c : Crumb) : Bool := min (2 * c.settings.trayThreshold) Config.loadCap ≤ c.trayLoad

/-- The condition of KEY_INVALID: both key functions assigned and both on (R34). -/
def keyInvalidCondition (s : State) : Bool :=
  keysAssigned s && inputHigh s (.key .a) && inputHigh s (.key .b)

/-- The condition of each warning that follows a level of the state (R150). The others go from one event to another and are
absent after a reset. -/
def warnCondition (s : State) : WarnKind → Bool
  | .trackFull => Config.trackFullFrom ≤ s.track.loaves.length
  | .keyInvalid => keyInvalidCondition s
  | .bagsLow x => stationFitted s.member x && decide ((stationRec s x).magazine ≤ Config.bagsLowAt)
  | .bagsEmpty x => stationFitted s.member x && decide ((stationRec s x).state = .empty)
  | .noStation => noStationCondition s
  | .clipsLow x => tyerFitted s x && decide ((tyerOf s x).spool ≤ Config.clipsLowAt * (tyerOf s x).settings.m)
  | .crumbHigh => crumbHighCondition s.crumb
  | _ => false

/-- A warning that follows a level of the state is evaluated again. -/
def evaluate (w : WarnKind) (s : State) : State := warn w (warnCondition s w) s

/-- The end of an event that may have changed what a waiting record can expect, or made something ready to send. NO_STATION is evaluated
last in the event (log entry 40). -/
def finish (s : State) : State := evaluate .noStation s |> transmit

/-! ## The alert lines (R151) -/

/-- FAULT is low: a fault whose mask is clear is ACTIVE or LATCHED. -/
def faultLineLow (s : State) : Bool := allFaults.any fun k => faultStands s k && !(faultEntry s k).mask

/-- WARN is low: a warning whose mask is clear has its indication set. -/
def warnLineLow (s : State) : Bool := allWarnings.any fun w => (warnEntry s w).indication && !(warnEntry s w).mask

end Sys2Proof.Machine
end

