-- ==== Sys2Proof/Machine/Converter.lean ====
section
/-! DEFINITION. The converter and its arbiter (R125, R126), the round robin (R127), the timing of a blade phase (R128 to R130), the
idle scan's start and stop (R131), and the blade clutch KNIFE_RUN with everything its release and engagement bring (R59 to R61). -/

namespace Sys2Proof.Machine

/-- The channel a requester asks for (R126). -/
def requestChannel : Requester → Channel
  | .station .a => 4
  | .station .b => 5
  | .crumb => 3

/-- The channel after `c` in a set: the next higher one, wrapping from the highest to the lowest (R127). -/
def channelAfter (set : List Channel) (c : Channel) : Option Channel := (set.find? fun d => decide (c < d)).or set.head?

/-- The channel that a set's pointer names; an empty set gives none (R127). -/
def pointedChannel (set : List Channel) (pointer : Option Channel) : Option Channel :=
  if set.isEmpty then none else pointer.or set.head?

/-- A conversion starts: the converter is busy, the stamp and phase are taken now (R125). -/
def startConversion (c : Channel) (ph : SamplePhase) (req : Option ConvRequest) (s : State) : State :=
  s.setMeas { s.meas with converter := some ⟨c, s.head.stamp, ph, req⟩ }

/-- A phase conversion is due: it takes its set's next channel and moves the pointer on; with an empty set it is not made
(R127, R128). -/
def startPhaseConversion (s : State) : State :=
  let m := s.meas
  match s.head.phase with
  | .idle => s
  | .cut =>
    match pointedChannel m.sampling.cutSet m.cutPointer with
    | none => s.setMeas { m with centreDue := false }
    | some c =>
      s.setMeas { m with centreDue := false, cutPointer := channelAfter m.sampling.cutSet c } |> startConversion c .cut none
  | .ret =>
    match pointedChannel m.sampling.retSet m.retPointer with
    | none => s.setMeas { m with centreDue := false }
    | some c =>
      s.setMeas { m with centreDue := false, retPointer := channelAfter m.sampling.retSet c } |> startConversion c .ret none

/-- The arbiter: a free converter starts the oldest request, else a phase conversion that is due, else the idle scan's next
channel, else stays free (R126). -/
def arbitrate (s : State) : State :=
  match s.meas.converter with
  | some _ => s
  | none =>
    match s.meas.requests with
    | r :: rest => s.setMeas { s.meas with requests := rest } |> startConversion (requestChannel r.who) .request (some r)
    | [] =>
      if s.meas.centreDue || s.meas.edgeRun then startPhaseConversion s
      else
        match s.meas.scan with
        | c :: rest => s.setMeas { s.meas with scan := rest } |> startConversion c .idle none
        | [] => s

/-- A station or crumb control asks for one conversion (R126). -/
def askConversion (who : Requester) (s : State) : State :=
  s.setMeas { s.meas with requests := s.meas.requests ++ [⟨who, true⟩] } |> arbitrate

/-- A request whose stage has been cut short: its sample is ignored when it comes (R103, R120). -/
def ConvRequest.drop (who : Requester) (r : ConvRequest) : ConvRequest := if r.who = who then { r with live := false } else r

/-- All requests of one requester, waiting or in the converter, lose their stage. -/
def dropRequests (who : Requester) (s : State) : State :=
  s.setMeas { s.meas with
    requests := s.meas.requests.map (ConvRequest.drop who)
    converter := s.meas.converter.map fun c => { c with request := c.request.map (ConvRequest.drop who) } }

/-- What a phase leaves behind at its end: nothing of it that has not started is made any more (R128, R129). -/
def Meas.endPhase (m : Meas) : Meas := { m with centreTimer := none, centreDue := false, edgeTimer := none, edgeRun := false }

/-- Half of the previous duration of the phase now begun, where the mode gives CENTRE timing (R128, R130). -/
def centreDelay (s : State) : Option Nat :=
  match s.head.previous with
  | none => none
  | some (cut, ret) =>
    let half := match s.head.phase with
      | .ret => ret / 2
      | _ => cut / 2
    match s.meas.sampling.mode with
    | .centre => some half
    | .edge => none
    | .hybrid => if cut + ret < s.meas.sampling.hybridPeriod * 1000 then some half else none

/-- A blade phase begins: what the last one left is dropped, and the timing of this one is fixed to its end (R130).
A delay of 0 falls due at the begin itself, before the context takes the begin (log entry 44). -/
def phaseBegins (s : State) : State :=
  let m := s.meas.endPhase
  match centreDelay s with
  | some 0 => s.setMeas { m with centreDue := true } |> arbitrate
  | some d => s.setMeas { m with centreTimer := some d }
  | none =>
    if m.sampling.edgeDelay = 0 then s.setMeas { m with edgeRun := true } |> arbitrate
    else s.setMeas { m with edgeTimer := some m.sampling.edgeDelay }

/-- The blade starts turning: the idle timer stops and channels of a scan not yet started are dropped (R131). -/
def Meas.bladeTurns (m : Meas) : Meas := { m with idleTimer := false, scan := [] }

/-- The blade stops turning: the phase ends and the idle timer is started (R131). -/
def Meas.bladeStops (m : Meas) : Meas := { m.endPhase with idleTimer := true, scan := [] }

/-- KNIFE_RUN is asserted or released (R59). An engagement starts the stall timer (R61). A release stops it, ends the blade phase,
makes the previous durations absent (R60) and ends an air-knife pulse (R112). -/
def knifeTo (on : Bool) (s : State) : State :=
  if s.head.knife = on then s
  else if on then s.setHead { s.head with knife := true, stallTimer := some Config.stallDeadline }
  else
    let t := s.setHead { s.head with knife := false, stallTimer := none, phase := .idle, cutTime := none, previous := none }
    let u := t.setCrumb { t.crumb with airKnife := false }
    if s.head.phase = .idle then u else u.setMeas u.meas.bladeStops

end Sys2Proof.Machine
end

