-- ==== Sys2Proof/Machine/Line.lean ====
section
/-! DEFINITION. The line state and what each change of it does to the blocks (R139): the slicing head (R73, R75), the stations
(R94), crumb control (R117, R120), the infeed hold (R8) with its belt watch (R144); and the action of a fault on the line (R146). -/

namespace Sys2Proof.Machine

/-! ## Crumb control -/

/-- A sweep is aborted: VACUUM and both timers stop, the loads, the last-admitted slot, the weak count and the pending sweep keep
their values, one aborted sweep is counted and #C queued (R120). -/
def abortSweep (s : State) : State :=
  match s.crumb.sweep with
  | none => s
  | some _ =>
    s.setCrumb { s.crumb with sweep := none }
      |> dropRequests .crumb
      |> countShift (fun r => { r with sweepsAborted := raiseCount r.sweepsAborted 1 })
      |> report (.sweep (s.crumb.pending.getD .command) .aborted s.crumb.trayLoad)

/-- The conditions for a sweep to start (R117). -/
def sweepMayStart (s : State) : Bool :=
  s.crumb.pending.isSome && s.crumb.sweep.isNone && !sweepsSuspended s && (oldestIn s .slicer).isNone &&
    decide (s.head.state = .empty) && pusherHome s.head && decide (s.sup.line ≠ .halted)

/-- The start test of R117: the sweep takes the sweep time and pressure in force, both timers start, VACUUM is asserted. -/
def trySweep (s : State) : State :=
  if sweepMayStart s then
    s.setCrumb { s.crumb with
      sweep := some ⟨s.crumb.settings.sweepTime, s.crumb.settings.pressure, false, true, true, none⟩ }
  else s

/-! ## The slicing head -/

/-- The context without a loaf (R57, R72). -/
def Head.emptied (h : Head) : Head :=
  { h with state := .empty, tag := none, nextCut := none, target := 0, pausedFrom := none }

/-- The line enters STOPPED from RUNNING or DRAINING: the pusher and the blade stop where they stand (R73). -/
def headStops (s : State) : State :=
  let t := knifeTo false s
  match t.head.state with
  | .entering => t.setHead { t.head with state := .paused, pausedFrom := some .entering }
  | .advancing => t.setHead { t.head with state := .paused, pausedFrom := some .advancing }
  | .cutting => t.setHead { t.head with state := .paused, pausedFrom := some .cutting }
  | .ejecting => t.setHead { t.head with state := .paused, pausedFrom := some .ejecting }
  | .passing => t.setHead { t.head with state := .paused, pausedFrom := some .passing }
  | .homing => t.setHead t.head.emptied
  | .empty => t
  | .paused => t
  | .interrupted => t

/-- The loaf in the slicer is interrupted: its record is marked unless it carries a mark (R75). -/
def interruptLoaf (s : State) : State :=
  let t := match s.head.tag with
    | none => s
    | some tag => modifyLoaf tag (Loaf.withMark .interrupted) s
  t.setHead { t.head with state := .interrupted, pausedFrom := none }

/-- The line enters HALTED (R75). -/
def headHalts (s : State) : State :=
  let t := knifeTo false s
  match t.head.state with
  | .entering => interruptLoaf t
  | .advancing => interruptLoaf t
  | .cutting => interruptLoaf t
  | .ejecting => interruptLoaf t
  | .passing => interruptLoaf t
  | .paused => interruptLoaf t
  | .homing => t.setHead t.head.emptied
  | .empty => t
  | .interrupted => t

/-! ## The stations -/

/-- A tying stage is cut short: TIE_x is released, the stage and the code held become absent, a sample still to come is ignored
(R103). -/
def cutStage (x : Station) (s : State) : State :=
  setTyer x { tyerOf s x with stage := none, codeHeld := none } s |> dropRequests (.station x)

/-- The line enters STOPPED from RUNNING or DRAINING: a station in FILLING or TYING is held (R94). -/
def stationStops (x : Station) (s : State) : State :=
  let r := stationRec s x
  match r.state with
  | .filling => setStation x { r with held := true, scoopTimer := none } s
  | .tying => setStation x { r with held := true } s |> cutStage x
  | .outOfService => s
  | .empty => s
  | .opening => s
  | .ready => s
  | .releasing => s

/-- The line enters HALTED: a station with a bag or a loaf is held and its outputs go off (R94). -/
def stationHalts (x : Station) (s : State) : State :=
  let r := stationRec s x
  let heldRec : StationRec := { r with held := true, bagTimer := none, scoopTimer := none, releaseTimer := none }
  match r.state with
  | .opening => setStation x heldRec s
  | .ready => setStation x heldRec s
  | .filling => setStation x heldRec s
  | .tying => setStation x heldRec s |> cutStage x
  | .releasing => setStation x heldRec s
  | .outOfService => s
  | .empty => s

/-! ## The infeed hold -/

/-- The condition of INFEED_HOLD (R8). -/
def holdCondition (s : State) : Bool :=
  decide (s.sup.line ≠ .running) || decide (s.track.limit ≤ zoneCount s .infeed) ||
    decide (Config.trackFullFrom ≤ s.track.loaves.length)

/-- INFEED_HOLD is asserted, which stops the belt watch timer (R144). -/
def assertHold (s : State) : State :=
  let t := s.setTrack { s.track with infeedHold := true }
  t.setSup { t.sup with beltWatch := false }

/-- INFEED_HOLD is released, which starts the belt watch timer (R144). -/
def releaseHold (s : State) : State :=
  let t := s.setTrack { s.track with infeedHold := false }
  t.setSup { t.sup with beltWatch := true }

/-! ## Changes of the line state -/

/-- Supervision takes the new line state and queues #L (R139, R152). -/
def setLine (l : LineState) (s : State) : State := s.setSup { s.sup with line := l } |> report (.line l)

/-- The line enters HALTED (R139). -/
def enterHalted (s : State) : State :=
  setLine .halted s
    |> countShift (fun r => { r with halts := raiseCount r.halts 1 })
    |> headHalts |> stationHalts .a |> stationHalts .b |> abortSweep |> assertHold

/-- The line enters STOPPED from RUNNING or DRAINING; STOP NOW aborts a running sweep, the end of DRAINING does not (R120). -/
def enterStopped (byStopNow : Bool) (s : State) : State :=
  let t := setLine .stopped s |> headStops |> stationStops .a |> stationStops .b
  (if byStopNow then abortSweep t else t) |> assertHold

/-- The track's signal "track empty" ends DRAINING, and changes nothing in another line state (R142). -/
def trackEmpty (s : State) : State :=
  if s.sup.line = .draining && s.track.loaves.isEmpty then enterStopped false s else s

/-- The line enters DRAINING, and passes on to STOPPED where the track is already empty (R142). A sweep may start (R117). -/
def enterDraining (s : State) : State := setLine .draining s |> assertHold |> trySweep |> trackEmpty

/-- A fault's action applied to the line state (R146). -/
def applyToLine (a : Action) (s : State) : State :=
  match a with
  | .halt => if s.sup.line = .halted then s else enterHalted s
  | .hold => if s.sup.line = .running then enterDraining s else s
  | .nothing => s

/-- BELT_STALL's condition goes away at the event at which INFEED_HOLD is asserted, and its entry becomes LATCHED (R144). -/
def settleBelt (s : State) : State :=
  if s.track.infeedHold && decide ((faultEntry s .beltStall).state = .active) then
    let t := faultMoves .beltStall .latched s
    applyToLine (faultEntry t .beltStall).action t
  else s

/-- A fault's action at its transition into ACTIVE or LATCHED: the one in force (R146). -/
def faultActs (k : FaultKind) (s : State) : State := applyToLine (faultEntry s k).action s |> settleBelt

/-- An event fault is raised: LATCHED at once, an occurrence, then its action (R145). -/
def raiseFault (k : FaultKind) (loaf : Option Nat) (s : State) : State := faultOccurs k .latched loaf s |> faultActs k

/-- A condition fault follows its condition (R144). -/
def setCondition (k : FaultKind) (present : Bool) (s : State) : State :=
  match present, (faultEntry s k).state with
  | true, .active => s
  | true, _ => faultOccurs k .active none s |> faultActs k
  | false, .active => faultMoves k .latched s |> faultActs k
  | false, _ => s

/-- INFEED_HOLD is evaluated again (R8). -/
def reviewHold (s : State) : State :=
  match holdCondition s, s.track.infeedHold with
  | true, false => assertHold s |> settleBelt
  | false, true => releaseHold s
  | _, _ => s

/-- The end of an event that took a record out of the track: TRACK_FULL, "track empty", the hold (R8, R15, R16). -/
def afterRemoval (s : State) : State := evaluate .trackFull s |> trackEmpty |> reviewHold

/-- The condition of GUARD_OPEN: the function is held and its input is low (R144). -/
def guardCondition (s : State) : Bool := isHeld s .guardDoor && !inputHigh s .guardDoor

end Sys2Proof.Machine
end

