-- ==== Sys2Proof/Machine/StationCycle.lean ====
section
/-! DEFINITION. The station cycle (R80 to R91), the gate decision (R84, R85), the eject stroke's end (R70, R71) and the tying stage
(R99 to R102). -/

namespace Sys2Proof.Machine

/-! ## The gate decision and the eject -/

/-- A candidate of the gate decision: fitted, in service, READY, loaded with the class (R85). -/
def isCandidate (s : State) (cls : Nat) (x : Station) : Bool :=
  inService s x && decide ((stationRec s x).state = .ready) && decide ((stationRec s x).bagClass = cls)

/-- The station the distribution policy chooses (R85). -/
def chooseStation (s : State) (cls : Nat) : Option Station :=
  let first (x y : Station) : Option Station :=
    if isCandidate s cls x then some x else if isCandidate s cls y then some y else none
  match s.stations.policy with
  | .alternate => first (otherStation s.stations.lastAssigned) s.stations.lastAssigned
  | .fillA => first .a .b
  | .aOnly => if isCandidate s cls .a then some .a else none
  | .bOnly => if isCandidate s cls .b then some .b else none

/-- A record goes to REJECT and its REJECT check is armed (R12, R13). -/
def divert (tag : Nat) (s : State) : State :=
  moveLoaf .transfer tag (fun r => { r with zone := .reject, check := some (armedCheck s .reject) }) s

/-- The belt counts from the transfer to the scoop position (R88). -/
def travelCount (g : Geometry) : Nat := g.dTransfer * g.k / 100

/-- The assignment event (R85): the record moves to the station, the station takes its tag and starts its travel count,
STATION_GATE and the last-assigned station follow. The travel count starts at this event, which is never before the eject: of the two belt
counts of R88 the later is read as the later in time, also where the belt has run net backward since the eject (log entry 48). -/
def assignLoaf (x : Station) (tag : Nat) (s : State) : State :=
  let t := moveLoaf .transfer tag (fun r => { r with zone := .station x, station := some x }) s
  let u := setStation x { stationRec t x with
    state := .filling, tag := some tag, attempt := none, travel := some (travelCount t.track.geometry) } t
  u.setStations { u.stations with
    lastAssigned := x
    stationGate := match u.member with
      | .bl340 => decide (x = .b)
      | .bl320 => u.stations.stationGate }

/-- The gate decision on the record in TRANSFER (R84): not while HALTED; a marked record to REJECT; an unmarked one to the station
the policy chooses, unless the REJECT zone holds a record; otherwise it waits. -/
def gateDecision (s : State) : State :=
  if s.sup.line = .halted then s
  else
    match oldestIn s .transfer with
    | none => s
    | some r =>
      match r.mark with
      | some _ => divert r.tag s
      | none =>
        if (oldestIn s .reject).isSome then s
        else
          match r.bagClass.bind (chooseStation s) with
          | none => s
          | some x => assignLoaf x r.tag s

/-- The pusher stands at the eject target of a loaf it is driving out, and the TRANSFER zone is empty (R58, R70, R71). -/
def ejectReached (s : State) : Bool :=
  (decide (s.head.state = .ejecting) || decide (s.head.state = .passing)) && inPosition s.head &&
    (oldestIn s .transfer).isNone

/-- The loaf leaves the slicer: its record moves to TRANSFER with its eject count, the context enters HOMING, the blade is engaged
again after a pass-through, and the gate decision is taken (R12, R70, R71). -/
def ejectLoaf (s : State) : State :=
  match s.head.tag with
  | none => s
  | some tag =>
    let t := moveLoaf .slicer tag (fun r => { r with zone := .transfer, ejectCount := some s.track.beltCount }) s
    let u := t.setHead { t.head with state := .homing, tag := none, nextCut := none, target := 0 }
    (if s.head.state = .passing && moving s then knifeTo true u else u) |> gateDecision

/-- An eject stroke that has nothing left to wait for ends (R70). -/
def endStroke (s : State) : State := if ejectReached s then ejectLoaf s else s

/-- The gate decision, and the eject of a loaf that was held in the slicer by the record now routed (R70, R86). -/
def route (s : State) : State := gateDecision s |> endStroke

/-! ## Opening a bag -/

/-- A bag counted wasted (R163). -/
def wasteBag (x : Station) (s : State) : State := countStation x (fun c => { c with wasted := raiseCount c.wasted 1 }) s

/-- The station enters EMPTY: no bag, no loaf, not held (R80, R94). -/
def stationEmpties (x : Station) (s : State) : State :=
  setStation x { stationRec s x with state := .empty, attempt := none, held := false, bagTimer := none } s
    |> evaluate (.bagsEmpty x)

/-- The bag stands open: the timer stops, the attempt becomes absent, the station enters READY and the gate decision is taken
again (R81, R86). -/
def stationReady (x : Station) (s : State) : State :=
  setStation x { stationRec s x with state := .ready, attempt := none, bagTimer := none } s |> route

/-- A bag is drawn, as the first or the second attempt; with magazine 0 the station enters EMPTY instead (R80, R81).
A bag eye found covered when the timer starts means the bag stands open (R81). -/
def drawBag (x : Station) (attempt : Nat) (s : State) : State :=
  let r := stationRec s x
  if r.magazine = 0 then stationEmpties x s
  else
    let t := setStation x { r with
        magazine := r.magazine - 1, attempt := some attempt, bagTimer := some s.stations.times.openTimeout } s
      |> countStation x (fun c => { c with drawn := raiseCount c.drawn 1 })
      |> evaluate (.bagsLow x)
    if inputHigh t (.bagEye x) then stationReady x t else t

/-- The conditions of a draw (R80). -/
def drawDue (s : State) (x : Station) : Bool :=
  decide ((stationRec s x).state = .opening) && (stationRec s x).attempt.isNone && decide (s.sup.line ≠ .halted) &&
    !(stationRec s x).held && isHeld s (.bagEye x) && isHeld s (.blower x)

/-- A station in OPENING draws at the first event at which it may (R80). -/
def tryDraw (x : Station) (s : State) : State := if drawDue s x then drawBag x 1 s else s

/-- The station enters OPENING with the attempt absent, held where the line is HALTED, and draws if it may (R80, R94). -/
def enterOpening (x : Station) (s : State) : State :=
  let r := stationRec s x
  setStation x { r with
      state := .opening, tag := none, attempt := none, held := r.held || decide (s.sup.line = .halted),
      bagTimer := none, travel := none, scoopTimer := none, releaseTimer := none } s
    |> evaluate (.bagsEmpty x) |> tryDraw x

/-! ## Service -/

/-- The station enters OUT_OF_SERVICE: no bag, no loaf, not held (R79, R94). -/
def stationOut (x : Station) (s : State) : State :=
  setStation x { stationRec s x with
      state := .outOfService, tag := none, attempt := none, held := false, bagTimer := none, travel := none,
      scoopTimer := none, releaseTimer := none } s
    |> evaluate (.bagsEmpty x)

/-- A station that has ceased to be in service stops its cycle as its state allows (R90). -/
def serviceLost (x : Station) (s : State) : State :=
  let r := stationRec s x
  match r.state with
  | .ready => wasteBag x s |> stationOut x
  | .opening => (if r.attempt.isSome then wasteBag x s else s) |> stationOut x
  | .empty => stationOut x s
  | .filling => s
  | .tying => s
  | .releasing => s
  | .outOfService => s

/-- A station that is in service again: its mistie count becomes 0 (R102), and from OUT_OF_SERVICE it enters OPENING, or EMPTY with
magazine 0 where the line is not HALTED (R91). -/
def serviceBack (x : Station) (s : State) : State :=
  let t := setStation x { stationRec s x with misties := 0 } s
  let r := stationRec t x
  match r.state with
  | .outOfService => if r.magazine = 0 && decide (s.sup.line ≠ .halted) then stationEmpties x t else enterOpening x t
  | _ => t

/-! ## Release -/

/-- The record leaves the station for OUTFEED with its EXIT check armed, and its tag leaves the station (R89, R14). -/
def loafToOutfeed (x : Station) (s : State) : State :=
  let r := stationRec s x
  let t := match r.tag with
    | none => s
    | some tag => moveLoaf (.station x) tag (fun l => { l with zone := .outfeed, check := some (armedCheck s .exit) }) s
  setStation x { r with tag := none, releaseTimer := none } t

/-- After a release the station opens its next bag, or goes out of service (R89, R90). -/
def afterRelease (x : Station) (s : State) : State := if inService s x then enterOpening x s else stationOut x s

/-- The release (R89). -/
def releaseLoaf (x : Station) (s : State) : State := loafToOutfeed x s |> afterRelease x

/-- In RELEASING: the release at once where the bag eye is clear, else the wait under the bag-open timeout in force (R89). A station
held by a halt waits for START (R94). -/
def awaitRelease (x : Station) (s : State) : State :=
  let r := stationRec s x
  if r.state = .releasing && !r.held then
    if inputHigh s (.bagEye x) then setStation x { r with releaseTimer := some s.stations.times.openTimeout } s
    else releaseLoaf x s
  else s

/-- The tie result and the clip code where there is one are written into the record, and the station enters RELEASING (R88). -/
def writeTie (x : Station) (result : TieResult) (code : Option ClipCode) (s : State) : State :=
  let r := stationRec s x
  let t := match r.tag with
    | none => s
    | some tag => modifyLoaf tag (fun l => { l with tie := some result, clipCode := code }) s
  setStation x { r with state := .releasing, scoopTimer := none } t

/-! ## The tying stage -/

/-- The record a station holds. -/
def stationLoaf (s : State) (x : Station) : Option Loaf := (stationRec s x).tag.bind (findLoaf s)

/-- The bag class of the loaf at a station: its snapshot's (R99). -/
def tieClass (s : State) (x : Station) : Nat := ((stationLoaf s x).bind Loaf.bagClass).getD (stationRec s x).bagClass

/-- The shelf days of the loaf at a station: its snapshot's (R108). -/
def tieShelfDays (s : State) (x : Station) : Nat :=
  (((stationLoaf s x).bind Loaf.snapshot).map fun sn => sn.figures.shelfDays).getD 0

/-- The start minute of the schedule's entry 1 (R107). -/
def firstStart (s : State) : Nat := (s.shift.schedule.head?.map ShiftEntry.startMinute).getD 0

/-- The clip code formed at a strike begin (R107 to R109). -/
def clipCodeNow (s : State) (shelfDays : Nat) : ClipCode :=
  let d := bestBefore (firstStart s) s.shift.clock shelfDays
  ⟨d.day, d.month, s.shift.openRecord.letter⟩

/-- A clip code as it is printed on the clip: day and month joined by a full stop, a space, the letter (R109). -/
def printedCode (c : ClipCode) : Text := padded 2 c.day ++ 0x2E :: padded 2 c.month ++ [0x20, c.letter]

/-- What the printer prints on the clip that a tyer is striking: the code it holds, where it holds one (R100, R109). -/
def clipPrinted (s : State) (x : Station) : Option Text := (tyerOf s x).codeHeld.map printedCode

/-- The strike begin (R100): the spool falls, the length is counted, the code is formed where the printer is fitted, CLIPS_LOW_x is
evaluated. -/
def beginStrike (x : Station) (length : Nat) (s : State) : State :=
  let t := tyerOf s x
  setTyer x { t with
      spool := t.spool - length
      stage := some ⟨t.settings.strike, true, none⟩
      codeHeld := if s.options.printer then some (clipCodeNow s (tieShelfDays s x)) else none } s
    |> countStation x (fun c => { c with clipMm := raiseCount c.clipMm length })
    |> evaluate (.clipsLow x)

/-- A tie skipped at a short spool: UNTIED, the clips-out condition present, the station in RELEASING (R99). -/
def skipTie (x : Station) (s : State) : State :=
  countStation x (fun c => { c with untied := raiseCount c.untied 1 }) s
    |> writeTie x .untied none
    |> (fun t => setTyer x { tyerOf t x with clipsOut := true } t)
    |> setCondition (.clipsOut x) true
    |> awaitRelease x

/-- The tying stage begins: the strike, or no strike at a spool below the clip length (R99). -/
def beginTying (x : Station) (s : State) : State :=
  let t := setStation x { stationRec s x with state := .tying, scoopTimer := none } s
  let length := clipLength (tyerOf t x).settings (tieClass t x)
  if length ≤ (tyerOf t x).spool then beginStrike x length t else skipTie x t

/-- The scoop is complete: the tying stage, or RELEASING with the result NONE where the tyer is not fitted (R88). -/
def scoopComplete (x : Station) (s : State) : State :=
  if tyerFitted s x then beginTying x s else writeTie x .notTied none s |> awaitRelease x

/-- The end of a stage that struck (R101, R102). The third consecutive mistie raises STATION_x with the loaf's tag. -/
def endTying (x : Station) (result : TieResult) (s : State) : State :=
  let code := (tyerOf s x).codeHeld
  let tag := (stationRec s x).tag
  let t := writeTie x result code s |> setTyer x { tyerOf s x with stage := none, codeHeld := none }
  let u := match result with
    | .mistie =>
      let n := (stationRec t x).misties + 1
      let v := setStation x { stationRec t x with misties := min n 3 } t
        |> warn .mistie true
        |> countStation x (fun c => { c with misties := raiseCount c.misties 1 })
      if 3 ≤ n then raiseFault (.station x) tag v else v
    | .tied => setStation x { stationRec t x with misties := 0 } t |> warn .mistie false
    | _ => t
  awaitRelease x u

/-! ## START and PURGE at a station -/

/-- START clears the held flag and the stage is repeated from its beginning (R94). A station whose turn comes when a fault of the same
event has halted the line stays held. -/
def stationRestarts (x : Station) (s : State) : State :=
  let r := stationRec s x
  if !r.held || !moving s then s
  else
    let t := setStation x { r with held := false } s
    match r.state with
    | .opening => (if r.attempt.isSome then wasteBag x t else t) |> enterOpening x
    | .ready => wasteBag x t |> enterOpening x
    | .filling =>
      if r.travel.isSome then t
      else setStation x { r with held := false, scoopTimer := some s.stations.times.scoopTime } t
    | .tying => beginTying x t
    | .releasing => awaitRelease x t
    | .outOfService => t
    | .empty => t

/-- A station that holds a loaf abandons it at a PURGE: the bag is counted wasted, and the station opens or goes out of service (R95). -/
def stationAbandons (x : Station) (s : State) : State :=
  let r := stationRec s x
  match r.tag with
  | none => s
  | some _ =>
    let t := wasteBag x s |> setStation x { r with tag := none, held := false } |> cutStage x
    if inService t x then enterOpening x t else stationOut x t

end Sys2Proof.Machine
end

