-- ==== Sys2Proof/Machine/Admission.lean ====
section
/-! DEFINITION. Admission to the slicer (R62, R63), crumb control's answer (R114, R115), abandonment (R67), the sweep's end (R119) and
the beginning of a suspension (R116); the head's resumption at START (R74); the exchange of a closed shift (R164, R165); and
the operations that remove a record. -/

namespace Sys2Proof.Machine

/-! ## Admission -/

/-- The changeover test (R114). -/
def changeoverTest (s : State) (r : Loaf) : Bool :=
  match r.snapshot, r.mark, s.crumb.lastAdmitted with
  | some sn, none, some last => decide (sn.figures.clearBefore = 1) && decide (last ≠ sn.slot)
  | _, _, _ => false

/-- Crumb control's answer to the admission question: the first row of R114's table that applies. -/
def crumbAnswer (s : State) (r : Loaf) : CrumbAnswer :=
  if s.crumb.sweep.isSome then .hold
  else if s.crumb.pending.isSome && !sweepsSuspended s then .hold
  else if changeoverTest s r then if sweepsSuspended s then .takeNoClean else .hold
  else .take

/-- A pending sweep is set where none is present, and the start test of R117 is made (R113). -/
def askSweep (reason : SweepReason) (s : State) : State :=
  match s.crumb.pending with
  | some _ => s
  | none => s.setCrumb { s.crumb with pending := some reason } |> trySweep

/-- The context enters PASSING, with the eject target of the record as its target, and the blade is released to park (R71). -/
def enterPassing (r : Loaf) (s : State) : State :=
  s.setHead { s.head with state := .passing, nextCut := none, target := ejectTargetOf s r, pausedFrom := none } |> knifeTo false

/-- The last-admitted slot after an admission: that of a record to be cut (R115). -/
def lastAfter (last : Option Slot) (r : Loaf) : Option Slot :=
  match r.mark, r.snapshot with
  | none, some sn => some sn.slot
  | _, _ => last

/-- The admission event (R63). -/
def takeLoaf (r : Loaf) (s : State) : State :=
  let t := moveLoaf .infeed r.tag (fun l => { l with
      zone := .slicer, mark := r.mark, cutsDone := if r.mark.isSome then l.cutsDone else some 0 }) s
  let u := t.setHead { t.head with pusher := 0, tag := some r.tag, target := 0 }
  let v := u.setCrumb { u.crumb with lastAdmitted := lastAfter u.crumb.lastAdmitted r }
  (if r.mark.isSome then enterPassing r v
    else v.setHead { v.head with state := .entering, nextCut := some 1, pausedFrom := none }) |> reviewHold

/-- The conditions the head tests before it asks crumb control (R62). -/
def admissionOpen (s : State) : Bool :=
  moving s && decide (s.head.state = .empty) && pusherHome s.head && inputHigh s .stopEye

/-- The admission test (R62): the loaf at the stop is the oldest INFEED record; without a length it waits and crumb control is not asked. -/
def testAdmission (s : State) : State :=
  if admissionOpen s then
    match oldestIn s .infeed with
    | none => s
    | some r =>
      match r.measured with
      | none => s
      | some _ =>
        match crumbAnswer s r with
        | .take => takeLoaf r s
        | .takeNoClean => takeLoaf (r.withMark .noClean) s
        | .hold => if s.crumb.sweep.isNone && changeoverTest s r then askSweep .changeover s else s
  else s

/-- What follows when the slicer has become empty or the pusher has come home in EMPTY: a pending sweep may start, and the admission
test is made (R62, R72, R117). -/
def slicerFree (s : State) : State := trySweep s |> testAdmission

/-! ## Abandonment and resumption -/

/-- Whether a record has had at least one cut (R67). -/
def hasCuts (r : Loaf) : Bool := 1 ≤ r.cutsDone.getD 0

/-- A loaf in the slicer is to leave without further cuts (R67): uncut from ENTERING or ADVANCING through PASSING, otherwise through
EJECTING; in PAUSED the state to resume is replaced, and the next cut index is kept (R57).
A pusher that already stands at the eject target is looked at from its next step on (log entry 25). -/
def abandonLoaf (r : Loaf) (s : State) : State :=
  let h := s.head
  let target : Int := ejectTargetOf s r
  match h.state, h.pausedFrom with
  | .entering, _ => if hasCuts r then s.setHead { h with state := .ejecting, target := target } else enterPassing r s
  | .advancing, _ => if hasCuts r then s.setHead { h with state := .ejecting, target := target } else enterPassing r s
  | .cutting, _ => s.setHead { h with state := .ejecting, target := target }
  | .paused, some .cutting => s.setHead { h with pausedFrom := some .ejecting, target := target }
  | .paused, some .entering =>
    s.setHead (if hasCuts r then { h with pausedFrom := some .ejecting, target := target }
      else { h with pausedFrom := some .passing, target := target })
  | .paused, some .advancing =>
    s.setHead (if hasCuts r then { h with pausedFrom := some .ejecting, target := target }
      else { h with pausedFrom := some .passing, target := target })
  | _, _ => s

/-- The context as it goes on from PAUSED or INTERRUPTED (R74). -/
def resumedHead (s : State) : Head :=
  let h := s.head
  match h.state with
  | .paused =>
    match h.pausedFrom with
    | some .ejecting => { h with state := .ejecting, pausedFrom := none }
    | some .passing => { h with state := .passing, nextCut := none, pausedFrom := none }
    | _ => { h with state := .entering, pausedFrom := none }
  | .interrupted =>
    match headLoaf s with
    | none => h
    | some r =>
      if hasCuts r then { h with state := .ejecting, target := ejectTargetOf s r }
      else { h with state := .passing, nextCut := none, target := ejectTargetOf s r }
  | _ => h

/-- The line enters RUNNING from STOPPED: the context resumes and the blade is engaged unless it resumes in PASSING (R74). -/
def headResumes (s : State) : State :=
  let t := s.setHead (resumedHead s)
  if t.head.state = .passing then t else knifeTo true t

/-! ## Sweeps -/

/-- The suspension has begun at this event: with no sweep running a CHANGEOVER pending is cleared, and crumb control ends its hold
(R116). -/
def suspensionBegins (s : State) : State :=
  if s.crumb.sweep.isSome then s
  else
    (if s.crumb.pending = some .changeover then s.setCrumb { s.crumb with pending := none } else s) |> testAdmission

/-- The tray load after a weak sweep: the lesser of the load and T div 2 (R119). -/
def weakTrayLoad (c : Crumb) : Nat := min c.trayLoad (c.settings.trayThreshold / 2)

/-- A successful sweep's result (R119). -/
def sweepSucceeds (s : State) : State :=
  s.setCrumb { s.crumb with
      sweep := none, trayLoad := 0, lastAdmitted := none, weakCount := 0, pending := none }
    |> warn .sweepWeak false
    |> countShift (fun r => { r with sweepsSuccess := raiseCount r.sweepsSuccess 1 })

/-- A weak sweep's result: the second in a row raises VACUUM_FAIL, after which the suspension test of a CHANGEOVER pending is made
(R119). The #W of SWEEP_WEAK goes before the #F of VACUUM_FAIL (log entry 41). -/
def sweepIsWeak (s : State) : State :=
  let t := s.setCrumb { s.crumb with sweep := none, trayLoad := weakTrayLoad s.crumb, weakCount := s.crumb.weakCount + 1 }
    |> warn .sweepWeak true
    |> countShift (fun r => { r with sweepsWeak := raiseCount r.sweepsWeak 1 })
  let u := if 2 ≤ t.crumb.weakCount then raiseFault .vacuumFail none (t.setCrumb { t.crumb with weakCount := 0 }) else t
  if u.crumb.pending = some .changeover && !sweepsSuspended u then u else u.setCrumb { u.crumb with pending := none }

/-- The end of a sweep (R119): the result, #C with the reason and the load now held, CRUMB_HIGH, a kept CHANGEOVER's retry, the end of
the hold, in this order (log entry 41). -/
def endSweep (result : SweepResult) (s : State) : State :=
  let reason := s.crumb.pending.getD .command
  let t := match result with
    | .success => sweepSucceeds s
    | _ => sweepIsWeak s
  report (.sweep reason result t.crumb.trayLoad) t |> evaluate .crumbHigh |> slicerFree

/-- Bursting is tested: on at or above BT, off below BT div 2 (R112). -/
def testBursting (c : Crumb) : Crumb :=
  if c.settings.bladeThreshold ≤ c.bladeLoad then { c with bursting := true }
  else if c.bladeLoad < c.settings.bladeThreshold / 2 then { c with bursting := false } else c

/-! ## Shift closing -/

/-- The shift entry of a minute of the day (R158): the last entry whose start, counted from entry 1, is not after it. Entries are
numbered from 1. -/
def entryAt (schedule : List ShiftEntry) (minute : Nat) : Nat :=
  let s1 := (schedule.head?.map ShiftEntry.startMinute).getD 0
  let after (m : Nat) : Nat := (m + 1440 - s1) % 1440
  (schedule.filter fun e => decide (after e.startMinute ≤ after minute)).length

/-- The letter of an entry. -/
def entryLetter (schedule : List ShiftEntry) (entry : Nat) : Byte := (schedule[entry - 1]?.map ShiftEntry.letter).getD 0x41

/-- The bakery date of the clock's moment, as the shift records carry it (R158). -/
def bakeryNow (s : State) : Nat := clampDay (bakeryDay (firstStart s) s.shift.clock)

/-- The shift entry of the clock's moment (R158). -/
def entryNow (s : State) : Nat := entryAt s.shift.schedule (minuteOfDay s.shift.clock)

/-- A close (R165): the record goes to the front of the history, a new one begins, #S is queued. -/
def closeShiftNow (cause : CloseCause) (entry : Nat) (letter : Byte) (day : Option Nat) (s : State) : State :=
  let out := s.track.loaves.length
  let closed : ClosedRecord := ⟨s.shift.openRecord, out, s.shift.clock, s.shift.clockSet, cause⟩
  s.setShift { s.shift with
      history := (closed :: s.shift.history).take Config.historyCapacity
      openRecord := freshRecord entry letter day s.shift.clock s.shift.clockSet out }
    |> report (.shift closed.record.letter closed.record.bakeryDay cause closed.closeTime out)

/-! ## The conditions held by inputs -/

/-- GUARD_OPEN's condition is evaluated (R144). -/
def reviewGuard (s : State) : State := setCondition .guardOpen (guardCondition s) s

/-- TRAY_FULL's condition is evaluated; a suspension that begins at this event has its effect (R116). A sweep that runs when it begins keeps
the pending sweep, also where the fault's HALT aborts the sweep at the same event (log entry 53). The fault's action is applied before the
hold ends, so under HALT the waiting record finds the line HALTED and is not admitted at this event (log entry 47). -/
def reviewTray (s : State) : State :=
  let t := setCondition .trayFull (inputHigh s .trayFull) s
  if !sweepsSuspended s && sweepsSuspended t && s.crumb.sweep.isNone then suspensionBegins t else t

/-- A leading edge on STOP_EYE disarms the check of the oldest INFEED record (R11). -/
def disarmStop (s : State) : State :=
  match oldestIn s .infeed with
  | none => s
  | some r =>
    modifyLoaf r.tag (fun l => match l.check with
      | some c => if c.kind = .stop then { l with check := none } else l
      | none => l) s

end Sys2Proof.Machine
end

