-- ==== Sys2Proof/Machine/Outputs.lean ====
section
/-! DEFINITION. The levels of the output functions, as the owning blocks' states give them (R58, R59, R71, R79, R84, R85, R100, R112,
R117, R136, R171), and the level at a terminal (R170, R176). -/

namespace Sys2Proof.Machine

/-- What the pusher drive does (R58, R70, R71). -/
def pusherDrive (s : State) : PusherDrive :=
  let clear := (oldestIn s .transfer).isNone
  if moving s then
    match s.head.state with
    | .empty => .movesTo 0
    | .homing => .movesTo 0
    | .entering => .holds
    | .advancing => .movesTo s.head.target
    | .cutting => .movesTo s.head.target
    | .ejecting => if clear then .movesTo s.head.target else .holds
    | .passing => if clear && s.head.park then .movesTo s.head.target else .holds
    | .paused => .released
    | .interrupted => .released
  else .released

/-- BLOWER_x (R79). -/
def blowerOn (s : State) (x : Station) : Bool :=
  let r := stationRec s x
  decide (s.sup.line ≠ .halted) &&
    match r.state with
    | .outOfService => false
    | .empty => false
    | .opening => r.attempt.isSome
    | .ready => true
    | .filling => true
    | .tying => true
    | .releasing => false

/-- SCOOP_x: on while its pulse runs (R79, R88). -/
def scoopOn (s : State) (x : Station) : Bool := decide (s.sup.line ≠ .halted) && (stationRec s x).scoopTimer.isSome

/-- TIE_x: asserted while the tying stage is STRIKING (R100, R101). -/
def tieOn (s : State) (x : Station) : Bool := (tyerOf s x).stage.isSome

/-- REJECT_GATE (R84). -/
def rejectGate (s : State) : Bool := (oldestIn s .reject).isSome && decide (s.sup.line ≠ .halted)

/-- VACUUM: asserted while the sweep timer of a running sweep runs (R117, R118). -/
def vacuumOn (s : State) : Bool := s.crumb.sweep.any Sweep.timerRunning

/-- The TREND signal: low throughout a period of duty 0, high throughout one of duty 1023 (R136); inside any other period the moment
decides, and the level is a free value (log entry 9). -/
def trendLevel (s : State) : Bool :=
  if s.meas.trend.duty = 0 then false else if s.meas.trend.duty = 1023 then true else Config.trendMoment s.fresh

/-- The level of an output function: high while its owner asserts it (R171). Input functions have no level here. -/
def outputLevel (s : State) : Func → Bool
  | .infeedHold => s.track.infeedHold
  | .knifeRun => s.head.knife
  | .pusherEnable => moving s
  | .rejectGate => rejectGate s
  | .stationGate => s.stations.stationGate
  | .blower x => blowerOn s x
  | .scoop x => scoopOn s x
  | .tie x => tieOn s x
  | .airKnife => s.crumb.airKnife
  | .vacuum => vacuumOn s
  | .trend => trendLevel s
  | _ => false

/-- The level at the terminal of a point (R170): what stands there for an input, what the point drives for an output. -/
def pointLevel (s : State) (p : PointNo) : Bool :=
  match s.points[p].mode, pointFunction s p with
  | .output, _ => s.points[p].written
  | _, some f => if isInput f then terminalLevel s.points[p] else outputLevel s f
  | _, none => terminalLevel s.points[p]

/-- What the part itself puts on the terminal of a point (R170): nothing for an input; for an output its level under its drive. Push-pull drives
both levels, open-drain pulls the low level low and lets the terminal go for the high one. -/
def terminalDrive (s : State) (p : PointNo) : TerminalDrive :=
  let drives := decide (s.points[p].mode = .output) || (pointFunction s p).any fun f => !isInput f
  if !drives then .letGo
  else
    match s.points[p].drive, pointLevel s p with
    | .pushPull, true => .drivenHigh
    | .pushPull, false => .drivenLow
    | .openDrain, true => .letGo
    | .openDrain, false => .pulledLow

/-- The pull-up of a point is connected: in IN and while it holds an input function (R170). -/
def pullUpOn (s : State) (p : PointNo) : Bool :=
  s.points[p].pullUp && (decide (s.points[p].mode = .input) || (pointFunction s p).any isInput)

end Sys2Proof.Machine
end

