-- ==== Sys2Proof/Machine/Planning.lean ====
section
/-! DEFINITION. The slice planner (R44 to R51): the held belt-count length, its conversion, the band test, and the plan. -/

namespace Sys2Proof.Machine

/-- The belt-count length held within 1 to 65535 (R45). -/
def heldLength (difference : Nat) : Nat := if difference = 0 then 1 else min difference 65535

/-- The length in units, rounded half up (R46). -/
def unitsOf (counts k : Nat) : Nat := (counts * 1000 + k / 2) / k

/-- The mark the band test gives: SHORT below min length, DOUBLE above max length, none at either bound (R5). -/
def bandMark (f : Figures) (lmm : Nat) : Option Mark :=
  if lmm < f.minLength then some .short else if f.maxLength < lmm then some .double else none

/-- The body slice count (R47). -/
def bodyCount (f : Figures) (lmm : Nat) : Nat :=
  let n := (lmm - 2 * f.heel) / f.thickness
  if f.maxSlices < n + 2 then f.maxSlices - 2 else n

/-- What the body slices leave over of the body (R48). -/
def bodyRest (f : Figures) (lmm : Nat) : Nat := lmm - 2 * f.heel - bodyCount f lmm * f.thickness

/-- The length of the lead heel (R48). -/
def leadHeelOf (f : Figures) (lmm : Nat) : Nat := f.heel + bodyRest f lmm / 2

/-- The length of the trail heel, which takes an odd unit (R48). -/
def trailHeelOf (f : Figures) (lmm : Nat) : Nat := f.heel + (bodyRest f lmm - bodyRest f lmm / 2)

/-- The position of cut `i`, counted from 1 (R49). -/
def cutPosition (f : Figures) (lmm i : Nat) : Nat := leadHeelOf f lmm + (i - 1) * f.thickness

/-- The pusher target of a position, rounded half up (R50). -/
def pusherTarget (pos kp : Nat) : Nat := (pos * kp + 500) / 1000

/-- The plan of a loaf (R47 to R52). -/
def planOf (f : Figures) (lmm kp : Nat) : Plan where
  n := bodyCount f lmm
  leadHeel := leadHeelOf f lmm
  trailHeel := trailHeelOf f lmm
  cutCount := bodyCount f lmm + 1
  targets := (List.range (bodyCount f lmm + 1)).map fun i => pusherTarget (cutPosition f lmm (i + 1)) kp
  ejectTarget := ejectPosition lmm kp

/-- Steps 1 to 4 of R5 on a record: the length, Lmm, the band test, the plan. -/
def Loaf.measure (r : Loaf) (trailCount : Belt) (g : Geometry) : Loaf :=
  let counts := heldLength (trailCount - r.leadCount).toNat
  let lmm := unitsOf counts g.k
  let t := { r with measured := some ⟨counts, lmm⟩ }
  match r.snapshot, r.mark with
  | some sn, none =>
    match bandMark sn.figures lmm with
    | some m => { t with mark := some m }
    | none => { t with plan := some (planOf sn.figures lmm g.kp) }
  | _, _ => t

end Sys2Proof.Machine
end

