-- ==== Sys2Proof/Machine/TrackRequests.lean ====
section
/-! DEFINITION. The requests on the loaf track: SET INFEED, SET GEOMETRY, REJECT, PURGE and READ TRACK (R9, R18, R19, R21, R22). -/

namespace Sys2Proof.Machine

/-- A value brought to the nearest end of its range (`00_scope.md`, Wrong input). -/
def clampTo (low high n : Nat) : Nat := max low (min high n)

/-- Whether a number lies in a range. -/
def within (low high n : Nat) : Bool := low ≤ n && n ≤ high

/-- SET INFEED: the limit is clamped to 1 to 4, and the hold is evaluated at once (R9). -/
def svcSetInfeed (f : Form Nat) : Service :=
  withForm f fun n => needTier .setter fun s =>
    let limit := clampTo 1 4 n
    (s.setTrack { s.track with limit := limit } |> reviewHold, accepted "SET INFEED" [decimal limit])

/-- The ranges of SET GEOMETRY (R18). -/
def geometryInRange (g : Geometry) : Bool :=
  within 50 3000 g.dStop && within 50 3000 g.dTransfer && within 50 3000 g.dReject && within 50 3000 g.dExit &&
    within 200 2000 g.k && within 500 4000 g.kp

/-- SET GEOMETRY: refused outside STOPPED, and for a change of pitch while the track holds a record (R18). -/
def svcSetGeometry (f : Form Geometry) : Service :=
  withForm f fun g => require (fun _ => geometryInRange g) .range <| needTier .engineer <|
    require (fun s => decide (s.sup.line = .stopped)) .state <|
    require (fun s => s.track.loaves.isEmpty ||
      (decide (g.k = s.track.geometry.k) && decide (g.kp = s.track.geometry.kp))) .state fun s =>
      (s.setTrack { s.track with geometry := g },
        accepted "SET GEOMETRY" ([g.dStop, g.dTransfer, g.dReject, g.dExit, g.k, g.kp].map decimal))

/-- The reply of an accepted REJECT: the tag, its zone after the request, the mark it now carries (R19). -/
def rejectReply (tag : Nat) (s : State) : State × Owed :=
  (s, accepted "REJECT" [decimal tag, optText (fun r => codes (zoneText r.zone)) (findLoaf s tag),
    optText (codes ∘ markText) ((findLoaf s tag).bind Loaf.mark)])

/-- REJECT by the zone of the record (R19). -/
def svcReject (f : Form Nat) : Service :=
  withForm f fun tag => require (fun _ => within 1 65535 tag) .range <| needTier .operator fun s =>
    match findLoaf s tag with
    | none => refuse .noSuch s
    | some r =>
      let t := modifyLoaf tag (Loaf.withMark .operator) s
      match r.zone with
      | .infeed => rejectReply tag t
      | .slicer => rejectReply tag (if r.mark.isNone then abandonLoaf r t else t)
      | .transfer => rejectReply tag (divert tag t |> endStroke |> evaluate .noStation)
      | .station _ => refuse .tooLate s
      | .outfeed => refuse .tooLate s
      | .reject => refuse .tooLate s

/-- PURGE's effect (R21, R95): every record is counted lost, the context is cleared, stations abandon their loaves; a context that
becomes EMPTY makes the start test of a sweep (R117). The order of the parts is log entry 39. -/
def purgeTrack (s : State) : State :=
  let n := s.track.loaves.length
  let t := setLoaves [] s
    |> countShift (fun r => { r with lost := raiseCount r.lost n })
    |> (fun u => u.setHead u.head.emptied)
    |> stationAbandons .a |> stationAbandons .b
    |> evaluate .trackFull |> trackEmpty |> reviewHold
  (if s.head.state = .empty then t else trySweep t) |> evaluate .noStation

/-- PURGE: taken in STOPPED and HALTED; the reply gives the number of records removed (R21). -/
def svcPurge (f : Form Unit) : Service :=
  withForm f fun _ => needTier .setter <|
    require (fun s => decide (s.sup.line = .stopped) || decide (s.sup.line = .halted)) .state fun s =>
      (purgeTrack s, accepted "PURGE" [decimal s.track.loaves.length])

/-- A clip code as it is sent: day and month joined by a full stop, the letter after "/" (R186). -/
def clipCodeText (c : ClipCode) : Text := padded 2 c.day ++ 0x2E :: padded 2 c.month ++ [0x2F, c.letter]

/-- A check as it is sent: kind:remaining (R186). -/
def distanceText (c : DistanceCheck) : Text := codes (checkText c.kind) ++ 0x3A :: decimal c.remaining

/-- A snapshot's ten fields after the slot (R186); all absent when the slot is none (R22). -/
def snapshotFields (sn : Option Snapshot) : List Text :=
  let field (g : Figures → Nat) : Text := optText (fun v => decimal (g v.figures)) sn
  [field Figures.thickness, field Figures.heel, field Figures.maxSlices, field Figures.minLength, field Figures.maxLength,
    field Figures.crumb, field Figures.bagClass, field Figures.shelfDays, field Figures.clearBefore,
    optText (fun v => flagText v.locked) sn]

/-- The line of a record in READ TRACK (R22, R186); a slot of none is sent as "-" (log entry 43). -/
def loafFields (r : Loaf) : List Text :=
  [decimal r.tag, codes (zoneText r.zone), optText (fun v => decimal v.slot.val) r.snapshot] ++ snapshotFields r.snapshot ++
    [decimal r.leadCount.toNat,
      optText (fun m => decimal m.counts) r.measured, optText (fun m => decimal m.lmm) r.measured,
      optText (fun p => decimal p.n) r.plan, optText (fun p => decimal p.leadHeel) r.plan,
      optText (fun p => decimal p.trailHeel) r.plan, optText (fun p => decimal p.cutCount) r.plan,
      optText (fun p => listText (p.targets.map decimal)) r.plan, optText (fun p => decimal p.ejectTarget) r.plan,
      optText decimal r.cutsDone, optText (codes ∘ markText) r.mark, optText (codes ∘ stationText) r.station,
      optText (codes ∘ tieText) r.tie, optText clipCodeText r.clipCode,
      optText (fun b => decimal b.toNat) r.ejectCount, optText distanceText r.check]

/-- READ TRACK (R22). -/
def svcReadTrack (f : Form Unit) : Service :=
  withForm f fun _ => needTier .operator fun s => (s, multiLine "READ TRACK" [] (s.track.loaves.map loafFields))

/-! ## The meanings -/

/-- SET_INFEED (R9). -/
def execSetInfeed (f : Form Nat) (s : State) : Result := .next (serve (svcSetInfeed f) s)
/-- SET_GEOMETRY (R18). -/
def execSetGeometry (f : Form Geometry) (s : State) : Result := .next (serve (svcSetGeometry f) s)
/-- REJECT (R19). -/
def execReject (f : Form Nat) (s : State) : Result := .next (serve (svcReject f) s)
/-- PURGE (R21). -/
def execPurge (f : Form Unit) (s : State) : Result := .next (serve (svcPurge f) s)
/-- READ_TRACK (R22). -/
def execReadTrack (f : Form Unit) (s : State) : Result := .next (serve (svcReadTrack f) s)

end Sys2Proof.Machine
end

