-- ==== Sys2Proof/Machine/BaggingRequests.lean ====
section
/-! DEFINITION. The requests on the stations and the tyers: LOAD BAGS, SET DISTRIBUTION, SET STATION, SET BAGGING, READ STATIONS
(R83, R87, R92, R96), LOAD CLIPS, SET TYER and READ TYERS (R105, R106). -/

namespace Sys2Proof.Machine

/-- The station named is fitted on this part. -/
def needStation (x : Station) (k : Service) : Service := require (fun s => stationFitted s.member x) .notFitted k

/-- LOAD BAGS's effect (R83). -/
def loadBags (x : Station) (n : Nat) (s : State) : State :=
  let t := setStation x { stationRec s x with magazine := n } s |> evaluate (.bagsLow x)
  (if (stationRec t x).state = .empty && 1 ≤ n then enterOpening x t else t) |> route |> evaluate .noStation

/-- LOAD BAGS (R83). -/
def svcLoadBags (f : Form StationLoad) : Service :=
  withForm f fun w => needStation w.station <| needTier .operator fun s =>
    let n := clampTo 0 9999 w.amount
    let t := loadBags w.station n s
    (t, accepted "LOAD BAGS" [codes (stationText w.station), decimal n,
      codes (stationStateText (stationRec t w.station).state)])

/-- SET DISTRIBUTION: absent on the BL-320, whatever the operand (R87). -/
def svcSetDistribution (f : Form (Option Policy)) : Service :=
  withForm f fun w => require (fun s => decide (s.member = .bl340)) .notFitted <|
    match w with
    | none => refuse .range
    | some p => needTier .setter fun s =>
      (s.setStations { s.stations with policy := p } |> route |> evaluate .noStation,
        accepted "SET DISTRIBUTION" [codes (policyText p)])

/-- SET STATION's effect (R92). -/
def setStationService (x : Station) (cls : Nat) (flag : Bool) (s : State) : State :=
  let r := stationRec s x
  let t := setStation x { r with bagClass := cls, inServiceFlag := flag } s
  let u :=
    if r.inServiceFlag && !flag then serviceLost x t
    else if !r.inServiceFlag && flag && !faultHold t x then serviceBack x t
    else t
  u |> route |> evaluate .noStation

/-- SET STATION (R92). -/
def svcSetStation (f : Form StationSetting) : Service :=
  withForm f fun w => needStation w.station <|
    require (fun _ => within 0 3 w.bagClass && within 0 1 w.inService) .range <| needTier .setter fun s =>
      let t := setStationService w.station w.bagClass (decide (w.inService = 1)) s
      (t, accepted "SET STATION" [codes (stationText w.station), decimal w.bagClass, decimal w.inService,
        codes (stationStateText (stationRec t w.station).state)])

/-- SET BAGGING: both times are clamped (R96). -/
def svcSetBagging (f : Form BaggingTimes) : Service :=
  withForm f fun w => needTier .setter fun s =>
    let times : BaggingTimes := ⟨clampTo 100 1000 w.openTimeout, clampTo 50 500 w.scoopTime⟩
    (s.setStations { s.stations with times := times },
      accepted "SET BAGGING" [decimal times.openTimeout, decimal times.scoopTime])

/-- The line of a station in READ STATIONS (R96, R186). -/
def stationFields (s : State) (x : Station) : List Text :=
  let r := stationRec s x
  [codes (stationText x), codes (stationStateText r.state), decimal r.bagClass, flagText r.inServiceFlag, flagText (faultHold s x),
    flagText r.held, decimal r.magazine, optText decimal r.attempt, optText decimal r.tag, decimal r.misties]

/-- READ STATIONS (R96). -/
def svcReadStations (f : Form Unit) : Service :=
  withForm f fun _ => needTier .operator fun s =>
    (s, multiLine "READ STATIONS" [codes (policyText s.stations.policy), codes (stationText s.stations.lastAssigned),
      decimal s.stations.times.openTimeout, decimal s.stations.times.scoopTime, flagText s.stations.stationGate,
      flagText (rejectGate s)] ((fittedStations s.member).map (stationFields s)))

/-- LOAD CLIPS's effect (R105): the spool, the clips-out condition, CLIPS_LOW_x. -/
def loadClips (x : Station) (mm : Nat) (s : State) : State :=
  setTyer x { tyerOf s x with spool := mm, clipsOut := false } s
    |> setCondition (.clipsOut x) false |> evaluate (.clipsLow x) |> evaluate .noStation

/-- LOAD CLIPS (R105). -/
def svcLoadClips (f : Form StationLoad) : Service :=
  withForm f fun w => needStation w.station <| require (fun s => tyerFitted s w.station) .notFitted <|
    needTier .operator fun s =>
      let mm := clampTo 0 999999 w.amount
      (loadClips w.station mm s, accepted "LOAD CLIPS" [codes (stationText w.station), decimal mm])

/-- The settings SET TYER takes, each clamped (R106). -/
def clampTyer (v : TyerSettings) : TyerSettings :=
  ⟨clampTo 40 120 v.s, clampTo 40 120 v.m, clampTo 40 120 v.l, clampTo 40 120 v.xl, clampTo 20 200 v.strike⟩

/-- A tyer's settings as reply fields. -/
def tyerFields (v : TyerSettings) : List Text := [v.s, v.m, v.l, v.xl, v.strike].map decimal

/-- SET TYER: accepted for an unfitted tyer, whose stored values stay (R98, R106). -/
def svcSetTyer (f : Form TyerWrite) : Service :=
  withForm f fun w => needStation w.station <| needTier .setter fun s =>
    if tyerFitted s w.station then
      let v := clampTyer w.settings
      (setTyer w.station { tyerOf s w.station with settings := v } s |> evaluate (.clipsLow w.station),
        accepted "SET TYER" (tyerFields v))
    else (s, accepted "SET TYER" (tyerFields ⟨0, 0, 0, 0, 0⟩))

/-- The line of a tyer in READ TYERS: an unfitted one reads 0 (R98, R106, R186). -/
def tyerLine (s : State) (x : Station) : List Text :=
  let t := tyerOf s x
  let fitted := tyerFitted s x
  [codes (stationText x), flagText fitted, decimal (if fitted then t.spool else 0)] ++
    tyerFields (if fitted then t.settings else ⟨0, 0, 0, 0, 0⟩) ++
    [optText (fun _ => codes "STRIKING") t.stage, flagText t.clipsOut]

/-- READ TYERS (R106). -/
def svcReadTyers (f : Form Unit) : Service :=
  withForm f fun _ => needTier .operator fun s =>
    (s, multiLine "READ TYERS" [flagText s.options.printer] ((fittedStations s.member).map (tyerLine s)))

/-! ## The meanings -/

/-- LOAD_BAGS (R83). -/
def execLoadBags (f : Form StationLoad) (s : State) : Result := .next (serve (svcLoadBags f) s)
/-- SET_DISTRIBUTION (R87). -/
def execSetDistribution (f : Form (Option Policy)) (s : State) : Result := .next (serve (svcSetDistribution f) s)
/-- SET_STATION (R92). -/
def execSetStation (f : Form StationSetting) (s : State) : Result := .next (serve (svcSetStation f) s)
/-- SET_BAGGING (R96). -/
def execSetBagging (f : Form BaggingTimes) (s : State) : Result := .next (serve (svcSetBagging f) s)
/-- READ_STATIONS (R96). -/
def execReadStations (f : Form Unit) (s : State) : Result := .next (serve (svcReadStations f) s)
/-- LOAD_CLIPS (R105). -/
def execLoadClips (f : Form StationLoad) (s : State) : Result := .next (serve (svcLoadClips f) s)
/-- SET_TYER (R106). -/
def execSetTyer (f : Form TyerWrite) (s : State) : Result := .next (serve (svcSetTyer f) s)
/-- READ_TYERS (R106). -/
def execReadTyers (f : Form Unit) (s : State) : Result := .next (serve (svcReadTyers f) s)

end Sys2Proof.Machine
end

