-- ==== Sys2Proof/Machine/MeasurementRequests.lean ====
section
/-! DEFINITION. The requests on measurement: SET LIMITS, SET SAMPLING, SET TREND and READ CHANNELS (R134 to R137). -/

namespace Sys2Proof.Machine

/-- A channel number as a channel, for one that the range check has passed. -/
def channelOf (n : Nat) : Channel := Fin.ofNat 8 n

/-- Channel 5 is not converted on the BL-320 (R124). -/
def channelFitted (s : State) (n : Nat) : Bool := n != 5 || stationFitted s.member .b

/-- The limits SET LIMITS takes, clamped (R134). -/
def clampLimits (l : Limits) : Limits :=
  ⟨min l.faultLow 1023, min l.warnLow 1023, min l.warnHigh 1023, min l.faultHigh 1023, clampTo 1 15 l.deglitch⟩

/-- The order that four limits must stand in (R132). -/
def limitsOrdered (l : Limits) : Bool := l.faultLow ≤ l.warnLow && l.warnLow ≤ l.warnHigh && l.warnHigh ≤ l.faultHigh

/-- The run counters of a channel's bound limits become 0; their conditions stay (R134). -/
def clearRuns (c : Channel) (bounds : Vector Bound 8) : Vector Bound 8 :=
  Vector.ofFn fun i =>
    if boundChannel (allBounds.getD i.val .knifeWarn) = c then { bounds[i] with runCount := 0 } else bounds[i]

/-- Limits as reply fields. -/
def limitFields (l : Limits) : List Text := [l.faultLow, l.warnLow, l.warnHigh, l.faultHigh, l.deglitch].map decimal

/-- SET LIMITS (R134). -/
def svcSetLimits (f : Form LimitsWrite) : Service :=
  withForm f fun w => require (fun _ => w.channel ≤ 7) .range <|
    require (fun s => channelFitted s w.channel) .notFitted <|
    require (fun _ => limitsOrdered (clampLimits w.limits)) .range <| needTier .setter fun s =>
      let c := channelOf w.channel
      let l := clampLimits w.limits
      (s.setMeas { s.meas with limits := s.meas.limits.set c l, bounds := clearRuns c s.meas.bounds },
        accepted "SET LIMITS" (decimal w.channel :: limitFields l))

/-- The channels of a set word, in ascending order (R127). -/
def channelSet (ds : List Nat) : List Channel := (List.finRange 8).filter fun c => ds.contains c.val

/-- A set as it is sent: its digits in ascending order, or NONE. -/
def setText (set : List Channel) : Text := if set.isEmpty then codes "NONE" else (set.map fun c => decimal c.val).flatten

/-- The edge delay taken: rounded down to a multiple of 50, then clamped (R135). -/
def edgeDelayTaken (n : Nat) : Nat := clampTo 0 2000 (n / 50 * 50)

/-- SET SAMPLING's effect: the settings, both pointers at the lowest channel, and the arbiter's next choice (R127, R130, R135). -/
def setSampling (v : Sampling) (s : State) : State :=
  s.setMeas { s.meas with sampling := v, cutPointer := v.cutSet.head?, retPointer := v.retSet.head? } |> arbitrate

/-- SET SAMPLING (R135): a digit given twice is refused with SYNTAX. -/
def svcSetSampling (f : Form SamplingWrite) : Service :=
  withForm f fun w =>
    require (fun _ => decide w.cutSet.Nodup && decide w.retSet.Nodup) .malformed <|
    require (fun s => !((w.cutSet ++ w.retSet).contains 5) || channelFitted s 5) .notFitted <|
    require (fun _ => (w.cutSet ++ w.retSet).all (· ≤ 7)) .range <|
    match w.mode with
    | none => refuse .range
    | some m => needTier .engineer fun s =>
      let v : Sampling :=
        ⟨channelSet w.cutSet, channelSet w.retSet, m, edgeDelayTaken w.edgeDelay, clampTo 50 500 w.hybridPeriod⟩
      (setSampling v s, accepted "SET SAMPLING" [setText v.cutSet, setText v.retSet, codes (modeText m), decimal v.edgeDelay,
        decimal v.hybridPeriod])

/-- The output takes a channel's last sample, unless the line is HALTED (R136). -/
def trendTakes (c : Channel) (s : State) : State :=
  if s.sup.line = .halted then s
  else s.setMeas { s.meas with trend := { s.meas.trend with value := s.meas.samples[c].value } }

/-- The TREND frequencies (R136). -/
def trendFrequencies : List Nat := [100, 200, 500, 1000]

/-- SET TREND (R136). -/
def svcSetTrend (f : Form TrendWrite) : Service :=
  withForm f fun w => require (fun _ => decide (w.channel ≤ 7) && trendFrequencies.contains w.frequency) .range <|
    require (fun s => channelFitted s w.channel) .notFitted <| needTier .setter fun s =>
      let c := channelOf w.channel
      (s.setMeas { s.meas with trend := { s.meas.trend with channel := c, frequency := w.frequency } } |> trendTakes c,
        accepted "SET TREND" [decimal w.channel, decimal w.frequency])

/-- The bound conditions of a channel that are present, by the name of what each drives (R133, R137). -/
def boundNames (s : State) (c : Channel) : List Text :=
  (allBounds.filter fun b => decide (boundChannel b = c) && s.meas.bounds[boundIndex b].present).map fun b =>
    codes (alertText (boundDrives b))

/-- The line of a channel in READ CHANNELS; channel 5 of a BL-320 shows zero limits (R124, R137, R186), and its deglitch count as stored
(log entry 43). -/
def channelFields (s : State) (c : Channel) : List Text :=
  let v := s.meas.samples[c]
  let l := s.meas.limits[c]
  let shown := if channelFitted s c.val then l else { l with faultLow := 0, warnLow := 0, warnHigh := 0, faultHigh := 0 }
  [decimal c.val, decimal v.value, decimal v.stamp.toNat, codes (samplePhaseText v.phase)] ++ limitFields shown ++
    [listText (boundNames s c)]

/-- READ CHANNELS (R137). -/
def svcReadChannels (f : Form Unit) : Service :=
  withForm f fun _ => needTier .operator fun s =>
    let v := s.meas.sampling
    (s, multiLine "READ CHANNELS" [setText v.cutSet, setText v.retSet, codes (modeText v.mode), decimal v.edgeDelay,
      decimal v.hybridPeriod, decimal s.meas.trend.channel.val, decimal s.meas.trend.frequency,
      flagText (decide (s.head.phase ≠ .idle))] ((List.finRange 8).map (channelFields s)))

/-! ## The meanings -/

/-- SET_LIMITS (R134). -/
def execSetLimits (f : Form LimitsWrite) (s : State) : Result := .next (serve (svcSetLimits f) s)
/-- SET_SAMPLING (R135). -/
def execSetSampling (f : Form SamplingWrite) (s : State) : Result := .next (serve (svcSetSampling f) s)
/-- SET_TREND (R136). -/
def execSetTrend (f : Form TrendWrite) (s : State) : Result := .next (serve (svcSetTrend f) s)
/-- READ_CHANNELS (R137). -/
def execReadChannels (f : Form Unit) (s : State) : Result := .next (serve (svcReadChannels f) s)

end Sys2Proof.Machine
end

