-- ==== Sys2Proof/Machine/ConverterEvents.lean ====
section
/-! DEFINITION. The events of the sweep (R118, R119) and of measurement: a completed conversion with the bound limits (R124 to R126, R132,
R133), the due times of the phase conversions (R128, R129), the idle scan (R131), the TREND period (R136). -/

namespace Sys2Proof.Machine

/-! ## Bound limits -/

/-- A sample's test against a bound limit: the condition and run counter afterwards (R132). -/
def Bound.take (b : Bound) (beyond : Bool) (deglitch : Nat) : Bound :=
  if b.present = beyond then { b with runCount := 0 }
  else if deglitch ≤ b.runCount + 1 then ⟨!b.present, 0⟩ else { b with runCount := b.runCount + 1 }

/-- A bound condition that has come or gone is handed to supervision (R133). -/
def boundMoves (n : AlertName) (present : Bool) (s : State) : State :=
  match n with
  | .fault k => setCondition k present s
  | .warning w => warn w present s

/-- One bound limit takes a sample of its channel. -/
def takeBound (value : Nat) (s : State) (b : BoundLimit) : State :=
  let old := s.meas.bounds[boundIndex b]
  let l := s.meas.limits[boundChannel b]
  let new := old.take (beyondBound b l value) l.deglitch
  let t := s.setMeas { s.meas with bounds := s.meas.bounds.set (boundIndex b) new }
  if new.present = old.present then t else boundMoves (boundDrives b) new.present t

/-- The bound limits of a channel take its sample (R125, R132), in the row order of R133's table, the warning's before the fault's: no rule
orders them, a DESIGN CHOICE (log entry 51). -/
def takeBounds (c : Channel) (value : Nat) (s : State) : State :=
  (allBounds.filter fun b => decide (boundChannel b = c)).foldl (takeBound value) s

/-! ## What a sample is handed to -/

/-- The tension sample is judged against warn-low as it stands when the sample comes (R101). -/
def judgeStrike (x : Station) (c : Channel) (value : Nat) (s : State) : State :=
  match (tyerOf s x).stage with
  | none => s
  | some k =>
    let result : TieResult := if value < s.meas.limits[c].warnLow then .mistie else .tied
    setTyer x { tyerOf s x with stage := some { k with judged := some result } } s

/-- A running sweep's pressure is compared with a sample of channel 3, until the judgement is made (R118). While no point holds VACUUM the
pressure is not reached, whatever the sample (R117). -/
def watchPressure (value : Nat) (s : State) : State :=
  match s.crumb.sweep with
  | none => s
  | some w =>
    if w.judged.isNone && isHeld s .vacuum && decide (w.pressure ≤ value) then
      s.setCrumb { s.crumb with sweep := some { w with reached := true } }
    else s

/-- The requested sample judges the sweep, and ends it where the sweep timer has expired (R118). -/
def judgeSweep (s : State) : State :=
  match s.crumb.sweep with
  | none => s
  | some w =>
    let result : SweepResult := if w.reached then .success else .weak
    if w.timerRunning then s.setCrumb { s.crumb with sweep := some { w with judged := some result } } else endSweep result s

/-- The requester takes its sample, unless its stage has been cut short (R101, R103, R118, R120). -/
def handToRequester (c : Channel) (value : Nat) (req : Option ConvRequest) (s : State) : State :=
  match req with
  | some ⟨.station x, true⟩ => judgeStrike x c value s
  | some ⟨.crumb, true⟩ => judgeSweep s
  | _ => s

/-- A conversion completes (R125); the arbiter then starts the next (R126). A sample of channel 3 that a sweep since aborted asked for is still
compared with the pressure of the sweep now running, and judges nothing (log entry 50). The bound limits and the requester go before TREND,
so a sample whose fault or sweep halts the line at this event is not taken by TREND (log entry 51). -/
def conversionDone (value : Raw) (s : State) : State :=
  match s.meas.converter with
  | none => s
  | some v =>
    let n := value.toNat
    let t := s.setMeas { s.meas with converter := none, samples := s.meas.samples.set v.channel ⟨n, v.stamp, v.phase⟩ }
      |> takeBounds v.channel n
    let u := (if v.channel = 3 then watchPressure n t else t) |> handToRequester v.channel n v.request
    (if u.meas.trend.channel = v.channel then trendTakes v.channel u else u) |> arbitrate |> finish

/-! ## Due times -/

/-- The half-phase delay expires (R128). -/
def centreFallsDue (s : State) : State :=
  match s.meas.centreTimer with
  | none => s
  | some _ => s.setMeas { s.meas with centreTimer := none, centreDue := true } |> arbitrate

/-- The edge delay expires (R129). -/
def edgeRunBegins (s : State) : State :=
  match s.meas.edgeTimer with
  | none => s
  | some _ => s.setMeas { s.meas with edgeTimer := none, edgeRun := true } |> arbitrate

/-- The union of the two sets in ascending number (R131). -/
def scanChannels (v : Sampling) : List Channel := (List.finRange 8).filter fun c => v.cutSet.contains c || v.retSet.contains c

/-- The idle timer expires, a scan begins, and the timer starts again (R131). -/
def idleScanBegins (s : State) : State :=
  if s.meas.idleTimer then s.setMeas { s.meas with scan := scanChannels s.meas.sampling } |> arbitrate else s

/-! ## The sweep's timers -/

/-- The rise timer expires: crumb control asks for one conversion (R118). -/
def riseExpires (s : State) : State :=
  match s.crumb.sweep with
  | none => s
  | some w =>
    if w.riseRunning then
      s.setCrumb { s.crumb with sweep := some { w with riseRunning := false } } |> askConversion .crumb
    else s

/-- The sweep timer expires: VACUUM is released, and a judged sweep ends (R118). -/
def sweepExpires (s : State) : State :=
  match s.crumb.sweep with
  | none => s
  | some w =>
    if w.timerRunning then
      let t := s.setCrumb { s.crumb with sweep := some { w with timerRunning := false } }
      (match w.judged with
        | some result => endSweep result t
        | none => t) |> finish
    else s

/-- A TREND period begins: the waiting duty takes effect outside HALTED, the frequency always (R136). -/
def trendPeriod (s : State) : State :=
  let v := s.meas.trend
  s.setMeas { s.meas with trend := { v with
    duty := if s.sup.line = .halted then v.duty else v.value, periodFrequency := v.frequency } }

/-! ## The meanings -/

/-- RISE_TIMER_EXPIRY (R118). -/
def execRiseTimerExpiry (s : State) : Result := .next (riseExpires s)
/-- SWEEP_TIMER_EXPIRY (R118). -/
def execSweepTimerExpiry (s : State) : Result := .next (sweepExpires s)
/-- CONVERSION_COMPLETE (R125). -/
def execConversionComplete (value : Raw) (s : State) : Result := .next (conversionDone value s)
/-- CENTRE_CONVERSION_DUE (R128). -/
def execCentreConversionDue (s : State) : Result := .next (centreFallsDue s)
/-- EDGE_DELAY_EXPIRY (R129). -/
def execEdgeDelayExpiry (s : State) : Result := .next (edgeRunBegins s)
/-- IDLE_TIMER_EXPIRY (R131). -/
def execIdleTimerExpiry (s : State) : Result := .next (idleScanBegins s)
/-- TREND_PERIOD_START (R136). -/
def execTrendPeriodStart (s : State) : Result := .next (trendPeriod s)

end Sys2Proof.Machine
end

