-- ==== Sys2Proof/Machine/CrumbRequests.lean ====
section
/-! DEFINITION. The requests on crumb control: CLEAN NOW, SET CRUMB and READ CRUMB (R121, R122). -/

namespace Sys2Proof.Machine

/-- CLEAN NOW's effect: COMMAND where no sweep is pending, then the start test (R113, R117, R121). -/
def cleanNow (s : State) : State :=
  s.setCrumb { s.crumb with pending := s.crumb.pending.or (some .command) } |> trySweep

/-- CLEAN NOW: refused with STATE in HALTED (R121). -/
def svcCleanNow (f : Form Unit) : Service :=
  withForm f fun _ => needTier .operator <| require (fun s => decide (s.sup.line ≠ .halted)) .state fun s =>
    let t := cleanNow s
    (t, accepted "CLEAN NOW" [optText (codes ∘ reasonText) t.crumb.pending, flagText t.crumb.sweep.isSome,
      flagText (sweepsSuspended t)])

/-- The settings SET CRUMB takes, each clamped (R122). -/
def clampCrumb (v : CrumbSettings) : CrumbSettings :=
  ⟨clampTo 100 65535 v.bladeThreshold, clampTo 50 5000 v.step, clampTo 100 65535 v.trayThreshold, clampTo 1 10 v.sweepTime,
    clampTo 0 1023 v.pressure⟩

/-- The crumb settings as reply fields. -/
def crumbFields (v : CrumbSettings) : List Text :=
  [v.bladeThreshold, v.step, v.trayThreshold, v.sweepTime, v.pressure].map decimal

/-- SET CRUMB's effect: bursting against the new BT, a THRESHOLD pending at or above the new T, CRUMB_HIGH (R122). -/
def setCrumbSettings (v : CrumbSettings) (s : State) : State :=
  let t := s.setCrumb (testBursting { s.crumb with settings := v })
  (if v.trayThreshold ≤ t.crumb.trayLoad then askSweep .threshold t else t) |> evaluate .crumbHigh

/-- SET CRUMB (R122). -/
def svcSetCrumb (f : Form CrumbSettings) : Service :=
  withForm f fun w => needTier .setter fun s =>
    (setCrumbSettings (clampCrumb w) s, accepted "SET CRUMB" (crumbFields (clampCrumb w)))

/-- READ CRUMB (R122); a pending reason of none is sent as "-", a DESIGN CHOICE (log entry 43). -/
def svcReadCrumb (f : Form Unit) : Service :=
  withForm f fun _ => needTier .operator fun s =>
    let c := s.crumb
    (s, accepted "READ CRUMB" ([decimal c.bladeLoad, decimal c.trayLoad, flagText c.bursting,
      optText (codes ∘ reasonText) c.pending, flagText c.sweep.isSome,
      optText (fun w : Sweep => flagText w.judged.isSome) c.sweep, flagText (sweepsSuspended s),
      optText (fun i => decimal i.val) c.lastAdmitted, decimal c.weakCount] ++ crumbFields c.settings))

/-! ## The meanings -/

/-- CLEAN_NOW (R121). -/
def execCleanNow (f : Form Unit) (s : State) : Result := .next (serve (svcCleanNow f) s)
/-- SET_CRUMB (R122). -/
def execSetCrumb (f : Form CrumbSettings) (s : State) : Result := .next (serve (svcSetCrumb f) s)
/-- READ_CRUMB (R122). -/
def execReadCrumb (f : Form Unit) (s : State) : Result := .next (serve (svcReadCrumb f) s)

end Sys2Proof.Machine
end

