-- ==== Sys2Proof/Machine/Operands.lean ====
section
/-! DEFINITION. Every operand form of the requests (R178, R179): the words of a line, numbers, keywords, sets, dates and times, and the
operands of each command as its syntax line gives them.
`none` is a form that the syntax line does not admit; the command refuses it with SYNTAX. -/

namespace Sys2Proof.Machine

/-! ## Words and numbers (R178) -/

/-- A letter in capitals; any other character as it stands. -/
def capital (c : Byte) : Byte := if 97 ≤ c.toNat ∧ c.toNat ≤ 122 then c - 32 else c

/-- A word in capitals: command words and keywords are taken without regard to case (R178). -/
def capitals (t : Text) : Text := t.map capital

/-- A text cut at each separator; two separators together leave an empty part. -/
def splitAt (sep : Byte) : Text → List Text
  | [] => [[]]
  | c :: cs =>
    if c = sep then [] :: splitAt sep cs
    else
      match splitAt sep cs with
      | [] => [[c]]
      | w :: ws => (c :: w) :: ws

/-- A decimal digit. -/
def isDigit (c : Byte) : Bool := 48 ≤ c.toNat && c.toNat ≤ 57

/-- The value of a run of digits. -/
def digitsValue (t : Text) : Nat := t.foldl (fun n c => n * 10 + (c.toNat - 48)) 0

/-- A number: a run of 1 to 10 digits with no sign (R178). -/
def number (t : Text) : Option Nat := if !t.isEmpty && t.length ≤ 10 && t.all isDigit then some (digitsValue t) else none

/-- A number of exactly `width` digits, as dates and times need. -/
def fixedNumber (width : Nat) (t : Text) : Option Nat :=
  if t.length = width && t.all isDigit then some (digitsValue t) else none

/-- Every word is a number. -/
def numbers (ts : List Text) : Option (List Nat) := ts.mapM number

/-- The member of a list of named values that a keyword names. -/
def keyword {α : Type} (name : α → String) (values : List α) (t : Text) : Option α :=
  values.find? fun v => codes (name v) == capitals t

/-- A station operand: A or B; any other word is refused with SYNTAX (R83, R92, R105, R106). -/
def stationWord (t : Text) : Option Station := keyword stationText [.a, .b] t

/-! ## Operand lists -/

/-- No operand (a trailing space leaves an empty word, which is an operand). -/
def noOperand : List Text → Form Unit
  | [] => some ()
  | _ => none

/-- One number. -/
def oneNumber : List Text → Form Nat
  | [a] => number a
  | _ => none

/-- SET GEOMETRY (R18). -/
def geometryOperands (ws : List Text) : Form Geometry :=
  match numbers ws with
  | some [a, b, c, d, e, f] => some ⟨a, b, c, d, e, f⟩
  | _ => none

/-- The nine figures of a recipe. -/
def figureOperands (ws : List Text) : Option Figures :=
  match numbers ws with
  | some [a, b, c, d, e, f, g, h, i] => some ⟨a, b, c, d, e, f, g, h, i⟩
  | _ => none

/-- WRITE RECIPE (R27): the name is any word. -/
def recipeOperands : List Text → Form RecipeWrite
  | slot :: name :: rest =>
    match number slot, figureOperands rest with
    | some n, some f => if name.isEmpty then none else some ⟨n, name, f⟩
    | _, _ => none
  | _ => none

/-- TRY PLAN (R55): a slot, a length, and the word COUNTS or nothing. -/
def planOperands : List Text → Form PlanTrial
  | [slot, length] =>
    match number slot, number length with
    | some n, some l => some ⟨n, l, false⟩
    | _, _ => none
  | [slot, length, word] =>
    match number slot, number length with
    | some n, some l => if capitals word == codes "COUNTS" then some ⟨n, l, true⟩ else none
    | _, _ => none
  | _ => none

/-- LOAD BAGS and LOAD CLIPS (R83, R105). -/
def loadOperands : List Text → Form StationLoad
  | [station, amount] =>
    match stationWord station, number amount with
    | some x, some n => some ⟨x, n⟩
    | _, _ => none
  | _ => none

/-- All policies. -/
def allPolicies : List Policy := [.alternate, .fillA, .aOnly, .bOnly]

/-- SET DISTRIBUTION (R87): any other word is refused with RANGE. -/
def policyOperand : List Text → Form (Option Policy)
  | [w] => if w.isEmpty then none else some (keyword policyText allPolicies w)
  | _ => none

/-- SET STATION (R92). -/
def stationOperands : List Text → Form StationSetting
  | [station, cls, flag] =>
    match stationWord station, number cls, number flag with
    | some x, some c, some f => some ⟨x, c, f⟩
    | _, _, _ => none
  | _ => none

/-- SET BAGGING (R96). -/
def baggingOperands (ws : List Text) : Form BaggingTimes :=
  match numbers ws with
  | some [a, b] => some ⟨a, b⟩
  | _ => none

/-- SET TYER (R106). -/
def tyerOperands : List Text → Form TyerWrite
  | [] => none
  | station :: rest =>
    match stationWord station, numbers rest with
    | some x, some [a, b, c, d, e] => some ⟨x, ⟨a, b, c, d, e⟩⟩
    | _, _ => none

/-- SET CRUMB (R122). -/
def crumbOperands (ws : List Text) : Form CrumbSettings :=
  match numbers ws with
  | some [a, b, c, d, e] => some ⟨a, b, c, d, e⟩
  | _ => none

/-- SET LIMITS (R134). -/
def limitOperands (ws : List Text) : Form LimitsWrite :=
  match numbers ws with
  | some [a, b, c, d, e, f] => some ⟨a, ⟨b, c, d, e, f⟩⟩
  | _ => none

/-- A set word of SET SAMPLING: digits, none twice, or NONE (R135). -/
def setWord (t : Text) : Option (List Nat) :=
  if capitals t == codes "NONE" then some []
  else if !t.isEmpty && t.all isDigit then
    let ds := t.map fun c => c.toNat - 48
    if ds.Nodup then some ds else none
  else none

/-- All sampling modes. -/
def allModes : List SampleMode := [.centre, .edge, .hybrid]

/-- SET SAMPLING (R135): any other mode word is refused with RANGE. -/
def samplingOperands : List Text → Form SamplingWrite
  | [cut, ret, mode, delay, period] =>
    match setWord cut, setWord ret, number delay, number period with
    | some c, some r, some d, some p => if mode.isEmpty then none else some ⟨c, r, keyword modeText allModes mode, d, p⟩
    | _, _, _, _ => none
  | _ => none

/-- SET TREND (R136). -/
def trendOperands (ws : List Text) : Form TrendWrite :=
  match numbers ws with
  | some [a, b] => some ⟨a, b⟩
  | _ => none

/-- The modes of STOP (R141). -/
inductive StopMode where
  | drain | now
deriving DecidableEq, Repr

def stopText : StopMode → String
  | .drain => "DRAIN"
  | .now => "NOW"

/-- STOP (R141): any other word is refused with RANGE. -/
def stopOperand : List Text → Form (Option StopMode)
  | [w] => if w.isEmpty then none else some (keyword stopText [.drain, .now] w)
  | _ => none

/-- SET ACTION (R147): unknown words are refused with RANGE. -/
def actionOperands : List Text → Form ActionWrite
  | [fault, action] =>
    if fault.isEmpty || action.isEmpty then none
    else some ⟨keyword faultText allFaults fault, keyword actionText [.nothing, .hold, .halt] action⟩
  | _ => none

/-- All names SET MASK takes: the faults, then the warnings (R151). -/
def allAlerts : List AlertName := allFaults.map .fault ++ allWarnings.map .warning

/-- SET MASK (R151). -/
def maskOperands : List Text → Form MaskWrite
  | [name, masked] =>
    match number masked with
    | some m => if name.isEmpty then none else some ⟨keyword alertText allAlerts name, m⟩
    | none => none
  | _ => none

/-- A date: four, two and two digits joined by "-" (R157). -/
def dateWord (t : Text) : Option (Nat × Nat × Nat) :=
  match splitAt 0x2D t with
  | [y, m, d] =>
    match fixedNumber 4 y, fixedNumber 2 m, fixedNumber 2 d with
    | some yn, some mn, some dn => some (yn, mn, dn)
    | _, _, _ => none
  | _ => none

/-- A time of two, two and two digits joined by ":" (R157). -/
def secondsWord (t : Text) : Option (Nat × Nat × Nat) :=
  match splitAt 0x3A t with
  | [h, m, s] =>
    match fixedNumber 2 h, fixedNumber 2 m, fixedNumber 2 s with
    | some hn, some mn, some sn => some (hn, mn, sn)
    | _, _, _ => none
  | _ => none

/-- A time of two digits, ":" and two digits (R159). -/
def minutesWord (t : Text) : Option (Nat × Nat) :=
  match splitAt 0x3A t with
  | [h, m] =>
    match fixedNumber 2 h, fixedNumber 2 m with
    | some hn, some mn => some (hn, mn)
    | _, _ => none
  | _ => none

/-- SET CLOCK (R157). -/
def momentOperands : List Text → Form Moment
  | [date, time] =>
    match dateWord date, secondsWord time with
    | some (y, mo, d), some (h, mi, s) => some ⟨y, mo, d, h, mi, s⟩
    | _, _ => none
  | _ => none

/-- The pairs of SET SHIFTS: a word of one character and a time (R159). -/
def shiftPairs : List Text → Option (List ShiftPair)
  | [] => some []
  | [_] => none
  | letter :: time :: rest =>
    match letter, minutesWord time, shiftPairs rest with
    | [c], some (h, m), some ps => some (⟨c, h, m⟩ :: ps)
    | _, _, _ => none

/-- SET SHIFTS: one to four pairs (R159). -/
def shiftOperands (ws : List Text) : Form (List ShiftPair) :=
  match shiftPairs ws with
  | some ps => if 1 ≤ ps.length && ps.length ≤ 4 then some ps else none
  | none => none

/-- All point modes. -/
def allPointModes : List PointMode := [.input, .output, .func1, .func2]

/-- All edge selects. -/
def allEdges : List EdgeSelect := [.never, .rise, .fall, .both]

/-- SET POINT (R172): a word outside its set is refused with RANGE. -/
def pointOperands : List Text → Form PointWrite
  | [p, mode, drive, pull, edge, rep] =>
    match number p, number pull, number rep with
    | some n, some u, some r =>
      if mode.isEmpty || drive.isEmpty || edge.isEmpty then none
      else some ⟨n, keyword pointModeText allPointModes mode, keyword driveText [.pushPull, .openDrain] drive, u,
        keyword edgeText allEdges edge, r⟩
    | _, _, _ => none
  | _ => none

/-- WRITE OUT (R176). -/
def outOperands (ws : List Text) : Form OutWrite :=
  match numbers ws with
  | some [a, b] => some ⟨a, b⟩
  | _ => none

/-- The letter of a report kind (R183). -/
def kindLetter : ReportKind → Byte
  | .f => 0x46
  | .l => 0x4C
  | .w => 0x57
  | .d => 0x44
  | .x => 0x58
  | .c => 0x43
  | .s => 0x53
  | .e => 0x45

/-- The report kind a letter names. -/
def kindOf (c : Byte) : Option ReportKind := [.w, .d, .x, .c, .s, .e, .f, .l].find? fun k => kindLetter k == capital c

/-- SET REPORTS: a word of kind letters, none twice, or NONE (R183). -/
def kindOperand : List Text → Form (List ReportKind)
  | [w] =>
    if capitals w == codes "NONE" then some []
    else if w.isEmpty then none
    else
      match w.mapM kindOf with
      | some ks => if ks.Nodup then some ks else none
      | none => none
  | _ => none

/-! ## The frame of a line (R178, R179) -/

/-- The value of a hexadecimal digit, in either case. -/
def hexValue (c : Byte) : Option Nat :=
  if isDigit c then some (c.toNat - 48)
  else if 65 ≤ (capital c).toNat ∧ (capital c).toNat ≤ 70 then some ((capital c).toNat - 55) else none

/-- The text of a line whose frame is right: ";" and the two digits of the text's sum stand at the end, the text has at most 120
characters, every character is printable. -/
def frameText (line : Text) : Option Text :=
  match line.reverse with
  | lo :: hi :: semi :: rest =>
    match hexValue hi, hexValue lo with
    | some h, some l =>
      if semi = 0x3B && decide (checkSum rest.reverse = BitVec.ofNat 8 (16 * h + l)) && decide (rest.length ≤ Config.lineCapacity) &&
          line.all printable then some rest.reverse
      else none
    | _, _ => none
  | _ => none

end Sys2Proof.Machine
end

