-- ==== Sys2Proof/Machine/RecipeRequests.lean ====
section
/-! DEFINITION. The requests on the recipe table, the locks and the planner's trial: WRITE RECIPE, ERASE, READ RECIPE, RUN, LOCK, UNLOCK,
BYPASS ON, BYPASS OFF, LOCKDOWN, READ ACCESS (R27 to R42) and TRY PLAN (R55). -/

namespace Sys2Proof.Machine

/-- A slot number as a slot, for one that the range check has passed. -/
def slotOf (n : Nat) : Slot := Fin.ofNat 16 n

/-- A slot number inside 0 to 15. -/
def slotInRange (n : Nat) : Bool := n ≤ 15

/-- What a slot holds: `none` is EMPTY (R24). -/
def recipeAt (s : State) (i : Slot) : Option Recipe := s.recipes.slots[i]

/-- A slot is locked (R24). -/
def slotLocked (s : State) (i : Slot) : Bool := (recipeAt s i).any Recipe.locked

/-- A slot's contents replaced. -/
def setSlot (i : Slot) (r : Option Recipe) (s : State) : State :=
  s.setRecipes { s.recipes with slots := s.recipes.slots.set i r }

/-- Lockdown is in force and the bypass is clear: locked slots may not change (R39). -/
def locksEnforced (s : State) : Bool := s.recipes.lockdown && !s.recipes.bypass

/-- The slot is a VALID one; any other is refused with NO_SUCH. -/
def needValid (i : Slot) (k : Service) : Service := require (fun s => (recipeAt s i).isSome) .noSuch k

/-- For a locked slot: TIER below ENGINEER, then LOCKED where the locks are enforced (R27, R28). -/
def needUnlockedOr (i : Slot) (k : Service) : Service :=
  require (fun s => !slotLocked s i || tierOk s .engineer) .tier <|
    require (fun s => !slotLocked s i || !locksEnforced s) .locked k

/-- Shelf days as they read: 0 while the printer is not fitted (R26). -/
def shelfDaysRead (s : State) (f : Figures) : Nat := if s.options.printer then f.shelfDays else 0

/-- The figures as they read and as a snapshot copies them (R26). -/
def figuresRead (s : State) (f : Figures) : Figures := { f with shelfDays := shelfDaysRead s f }

/-- The field ranges of R24 and the cross-checks of R25. Shelf days are not checked while the printer is not fitted (R26). -/
def figuresInRange (printer : Bool) (f : Figures) : Bool :=
  within 60 250 f.thickness && within 30 150 f.heel && within 4 40 f.maxSlices && within 1000 6000 f.minLength &&
    within f.minLength 7000 f.maxLength && within 0 255 f.crumb && within 0 3 f.bagClass &&
    (!printer || within 0 30 f.shelfDays) && within 0 1 f.clearBefore && decide (2 * f.heel + f.thickness ≤ f.minLength)

/-- The figures an accepted WRITE RECIPE stores: while the printer is not fitted the slot keeps the shelf days it held, 0 at first (R26). -/
def figuresTaken (s : State) (i : Slot) (f : Figures) : Figures :=
  if s.options.printer then f else { f with shelfDays := ((recipeAt s i).map fun r => r.figures.shelfDays).getD 0 }

/-- The figures of a recipe as reply fields (R186). -/
def figureFields (f : Figures) : List Text :=
  [f.thickness, f.heel, f.maxSlices, f.minLength, f.maxLength, f.crumb, f.bagClass, f.shelfDays, f.clearBefore].map decimal

/-- WRITE RECIPE, in the order of R27's checks. -/
def svcWriteRecipe (f : Form RecipeWrite) : Service :=
  withForm f fun w =>
    let i := slotOf w.slot
    require (fun _ => slotInRange w.slot) .range <| needTier .setter <| needUnlockedOr i <|
      require (fun s => figuresInRange s.options.printer w.figures && within 1 8 w.name.length) .range fun s =>
        let taken := figuresTaken s i w.figures
        (setSlot i (some ⟨w.name, taken, slotLocked s i⟩) s,
          accepted "WRITE RECIPE" (decimal w.slot :: w.name :: figureFields (figuresRead s taken)))

/-- ERASE, in the order of R28's checks. -/
def svcErase (f : Form Nat) : Service :=
  withForm f fun n =>
    let i := slotOf n
    require (fun _ => slotInRange n) .range <| needTier .setter <| needValid i <| needUnlockedOr i <|
      require (fun s => decide (s.recipes.runRecipe ≠ some i)) .inUse fun s => (setSlot i none s, accepted "ERASE" [])

/-- READ RECIPE (R29). -/
def svcReadRecipe (f : Form Nat) : Service :=
  withForm f fun n => require (fun _ => slotInRange n) .range <| needTier .operator fun s =>
    match recipeAt s (slotOf n) with
    | none => refuse .noSuch s
    | some r => (s, accepted "READ RECIPE" (decimal n :: r.name :: figureFields (figuresRead s r.figures) ++
        [flagText r.locked, flagText (decide (s.recipes.runRecipe = some (slotOf n)))]))

/-- RUN (R30). -/
def svcRun (f : Form Nat) : Service :=
  withForm f fun n =>
    let i := slotOf n
    require (fun _ => slotInRange n) .range <| needTier .operator <| needValid i <|
      require (fun s => !s.recipes.lockdown || slotLocked s i) .locked fun s =>
        (s.setRecipes { s.recipes with runRecipe := some i }, accepted "RUN" [])

/-- A slot's lock flag set or cleared. -/
def setLock (i : Slot) (locked : Bool) (s : State) : State :=
  setSlot i ((recipeAt s i).map fun r => { r with locked := locked }) s

/-- LOCK: taken with the bypass clear it sets bypass-frozen at the same event (R35, R38). -/
def svcLock (f : Form Nat) : Service :=
  withForm f fun n =>
    let i := slotOf n
    require (fun _ => slotInRange n) .range <| needTier .engineer <| needValid i fun s =>
      let t := setLock i true s
      (t.setRecipes { t.recipes with frozen := t.recipes.frozen || !t.recipes.bypass }, accepted "LOCK" [])

/-- UNLOCK (R36). -/
def svcUnlock (f : Form Nat) : Service :=
  withForm f fun n =>
    let i := slotOf n
    require (fun _ => slotInRange n) .range <| needTier .engineer <| needValid i <|
      require (fun s => !locksEnforced s) .locked fun s => (setLock i false s, accepted "UNLOCK" [])

/-- The locked slots in ascending order (R42). -/
def lockedSlots (s : State) : List Slot := (List.finRange 16).filter (slotLocked s)

/-- BYPASS ON: refused with LOCKED while bypass-frozen is set (R37). -/
def svcBypassOn (f : Form Unit) : Service :=
  withForm f fun _ => needTier .engineer <| require (fun s => !s.recipes.frozen) .locked fun s =>
    (s.setRecipes { s.recipes with bypass := true }, accepted "BYPASS ON" [])

/-- BYPASS OFF: taken while a slot is locked it sets bypass-frozen (R37, R38). -/
def svcBypassOff (f : Form Unit) : Service :=
  withForm f fun _ => needTier .engineer fun s =>
    (s.setRecipes { s.recipes with bypass := false, frozen := s.recipes.frozen || !(lockedSlots s).isEmpty },
      accepted "BYPASS OFF" [])

/-- LOCKDOWN (R39). -/
def svcLockdown (f : Form Unit) : Service :=
  withForm f fun _ => needTier .engineer fun s =>
    (s.setRecipes { s.recipes with lockdown := true }, accepted "LOCKDOWN" [])

/-- READ ACCESS (R42); a run recipe of none is sent as "-", a DESIGN CHOICE (log entry 43). -/
def svcReadAccess (f : Form Unit) : Service :=
  withForm f fun _ => needTier .operator fun s =>
    (s, accepted "READ ACCESS" [codes (tierText (tier s)), flagText (isHeld s (.key .a)), flagText (isHeld s (.key .b)),
      flagText (warnEntry s .keyInvalid).present, optText (fun i => decimal i.val) s.recipes.runRecipe,
      flagText s.recipes.lockdown, flagText s.recipes.bypass, flagText s.recipes.frozen,
      listText ((lockedSlots s).map fun i => decimal i.val)])

/-- Whether START and a record opening find a usable run recipe: not none, and locked where lockdown is in force (R40). -/
def recipeUsable (s : State) : Bool :=
  match s.recipes.runRecipe with
  | none => false
  | some i => (recipeAt s i).isSome && (!s.recipes.lockdown || slotLocked s i)

/-- The snapshot handed to the track at a leading edge: default-deny in lockdown (R4, R31, R40). -/
def snapshotNow (s : State) : Option Snapshot :=
  if recipeUsable s then
    s.recipes.runRecipe.bind fun i => (recipeAt s i).map fun r => ⟨i, figuresRead s r.figures, r.locked⟩
  else none

/-- The reply of TRY PLAN: the mark of the band test, or the plan with a line for each cut and one for the eject target (R55, R186). -/
def trialReply (f : Figures) (lmm kp : Nat) : Owed :=
  match bandMark f lmm with
  | some m => multiLine "TRY PLAN" [decimal lmm, codes (markText m), absentText, absentText, absentText, absentText] []
  | none =>
    let p := planOf f lmm kp
    multiLine "TRY PLAN" [decimal lmm, absentText, decimal p.n, decimal p.leadHeel, decimal p.trailHeel, decimal p.cutCount]
      (((List.range p.cutCount).map fun j =>
          [decimal (j + 1), decimal (cutPosition f lmm (j + 1)), decimal (pusherTarget (cutPosition f lmm (j + 1)) kp)]) ++
        [[codes "EJECT", decimal p.ejectTarget]])

/-- TRY PLAN (R55). -/
def svcTryPlan (f : Form PlanTrial) : Service :=
  withForm f fun w => require (fun _ => slotInRange w.slot) .range <| require (fun _ => within 1 65535 w.length) .range <|
    needTier .operator fun s =>
      match recipeAt s (slotOf w.slot) with
      | none => refuse .noSuch s
      | some r =>
        let g := s.track.geometry
        (s, trialReply r.figures (if w.inCounts then unitsOf w.length g.k else w.length) g.kp)

/-! ## The meanings -/

/-- WRITE_RECIPE (R27). -/
def execWriteRecipe (f : Form RecipeWrite) (s : State) : Result := .next (serve (svcWriteRecipe f) s)
/-- ERASE (R28). -/
def execErase (f : Form Nat) (s : State) : Result := .next (serve (svcErase f) s)
/-- READ_RECIPE (R29). -/
def execReadRecipe (f : Form Nat) (s : State) : Result := .next (serve (svcReadRecipe f) s)
/-- RUN (R30). -/
def execRun (f : Form Nat) (s : State) : Result := .next (serve (svcRun f) s)
/-- LOCK (R35). -/
def execLock (f : Form Nat) (s : State) : Result := .next (serve (svcLock f) s)
/-- UNLOCK (R36). -/
def execUnlock (f : Form Nat) (s : State) : Result := .next (serve (svcUnlock f) s)
/-- BYPASS_ON (R37). -/
def execBypassOn (f : Form Unit) (s : State) : Result := .next (serve (svcBypassOn f) s)
/-- BYPASS_OFF (R37). -/
def execBypassOff (f : Form Unit) (s : State) : Result := .next (serve (svcBypassOff f) s)
/-- LOCKDOWN (R39). -/
def execLockdown (f : Form Unit) (s : State) : Result := .next (serve (svcLockdown f) s)
/-- READ_ACCESS (R42). -/
def execReadAccess (f : Form Unit) (s : State) : Result := .next (serve (svcReadAccess f) s)
/-- TRY_PLAN (R55). -/
def execTryPlan (f : Form PlanTrial) (s : State) : Result := .next (serve (svcTryPlan f) s)

end Sys2Proof.Machine
end

