-- ==== Sys2Proof/Machine/TrackEvents.lean ====
section
/-! DEFINITION. The events of the loaf track: the edges of its eyes (R4 to R7, R11, R15 to R17), the belt encoder (R10, R88, R144), the
expiry of the distance checks (R6, R10, R13, R14), the belt watch (R144); and the handlers of the eyes' edges, which a level change at a
held point reaches too (R171). -/

namespace Sys2Proof.Machine

/-! ## INFEED_EYE -/

/-- The tag after a tag: 1 after 65535 (R3). -/
def tagAfter (n : Nat) : Nat := if n = 65535 then 1 else n + 1

/-- The record a leading edge opens (R4). -/
def newLoaf (s : State) : Loaf where
  tag := s.track.nextTag
  zone := .infeed
  snapshot := snapshotNow s
  leadCount := s.track.beltCount
  measured := none
  plan := none
  cutsDone := none
  mark := if (snapshotNow s).isSome then none else some .noRecipe
  station := none
  tie := none
  clipCode := none
  ejectCount := none
  check := some (armedCheck s .length)

/-- A record opens at the tail of the list (R1, R4, R161). -/
def openRecord (s : State) : State :=
  let r := newLoaf s
  s.setTrack { s.track with loaves := s.track.loaves ++ [r], nextTag := tagAfter s.track.nextTag }
    |> countShift (fun v => { v with
        loavesIn := raiseCount v.loavesIn 1
        lines := countLine r.key (fun l => { l with loavesIn := raiseCount l.loavesIn 1 }) v.lines })
    |> reviewHold |> evaluate .trackFull

/-- A leading edge at a full track (R7). -/
def trackOverrun (s : State) : State :=
  countShift (fun v => { v with unrecorded := raiseCount v.unrecorded 1 }) s |> raiseFault .trackOverrun none

/-- A leading edge on INFEED_EYE (R4, R7). -/
def infeedLeading (s : State) : State :=
  if moving s then if s.track.loaves.length < Config.trackCapacity then openRecord s else trackOverrun s else s

/-- Whether a record is the oldest in INFEED, the one that the track presents at the stop (R11). -/
def foremost (s : State) (r : Loaf) : Bool := (oldestIn s .infeed).any fun o => o.tag = r.tag

/-- The check a record carries after its trailing edge: STOP for the oldest INFEED record, unless STOP_EYE is covered (R5, R11). -/
def arrivalCheck (s : State) (r : Loaf) : Option DistanceCheck :=
  if foremost s r && !inputHigh s .stopEye then some (armedCheck s .stop) else none

/-- The trailing edge fixes the length of a record (R5); where it is the presented one, the admission test is made (R62). -/
def fixLength (r : Loaf) (s : State) : State :=
  let t := modifyLoaf r.tag (fun l => { l.measure s.track.beltCount s.track.geometry with check := arrivalCheck s r }) s
  if foremost s r then testAdmission t else t

/-- A trailing edge on INFEED_EYE: the last record in the list, where its length is absent (R5). -/
def infeedTrailing (s : State) : State :=
  match s.track.loaves.getLast? with
  | none => s
  | some r => if r.measured.isNone then fixLength r s else s

/-! ## STOP_EYE, EXIT_EYE, REJECT_EYE -/

/-- A leading edge on STOP_EYE (R11, R62). -/
def stopLeading (s : State) : State := disarmStop s |> testAdmission

/-- The zone whose records an end eye looks for (R17). -/
def eyeZone : EndEye → Zone
  | .exit => .outfeed
  | .reject => .reject

/-- A leading edge on EXIT_EYE or REJECT_EYE (R17). -/
def endEyeLeading (eye : EndEye) (s : State) : State := warn .strayEdge (oldestIn s (eyeZone eye)).isNone s

/-- A loaf is done at the exit eye (R15, R161). -/
def loafBagged (r : Loaf) (s : State) : State :=
  removeLoaf r.tag s
    |> countShift (fun v => { v with
        bagged := raiseCount v.bagged 1
        lines := countLine r.key (fun l => { l with bagged := raiseCount l.bagged 1 }) v.lines })
    |> warn .strayEdge false |> report (.done r.tag r.tie) |> afterRemoval

/-- A trailing edge on EXIT_EYE (R15, R17). -/
def exitTrailing (s : State) : State :=
  match oldestIn s .outfeed with
  | none => warn .strayEdge true s
  | some r => loafBagged r s

/-- A loaf is rejected at the reject eye (R16, R161). -/
def loafRejected (r : Loaf) (s : State) : State :=
  removeLoaf r.tag s
    |> countShift (fun v => { v with
        rejected := match r.mark with
          | some m => v.rejected.add m
          | none => v.rejected
        lines := countLine r.key (fun l => { l with rejected := raiseCount l.rejected 1 }) v.lines })
    |> warn .strayEdge false |> report (.rejected r.tag r.mark) |> afterRemoval

/-- A trailing edge on REJECT_EYE; the gate decision is taken again where it leaves the REJECT zone empty (R16, R17, R86). -/
def rejectTrailing (s : State) : State :=
  match oldestIn s .reject with
  | none => warn .strayEdge true s
  | some r =>
    let t := loafRejected r s
    if (oldestIn t .reject).isNone then route t else t

/-! ## The belt -/

/-- A count that follows net forward travel; at 0 it has run out and waits for its expiry event (R10, R88). -/
def travelled (forward : Bool) (n : Nat) : Nat := if n = 0 then 0 else if forward then n - 1 else n + 1

/-- A belt step on a record's check. -/
def Loaf.step (forward : Bool) (r : Loaf) : Loaf :=
  { r with check := r.check.map fun c => { c with remaining := travelled forward c.remaining } }

/-- A belt step on a station's travel count. -/
def StationRec.step (forward : Bool) (r : StationRec) : StationRec := { r with travel := r.travel.map (travelled forward) }

/-- The belt count after a step (R2, R10). -/
def beltAfter (forward : Bool) (b : Belt) : Belt := if forward then b + 1 else b - 1

/-- While INFEED_HOLD is released, a step starts the belt watch again and ends the condition of BELT_STALL (R144). -/
def beltMoves (s : State) : State :=
  if s.track.infeedHold then s else s.setSup { s.sup with beltWatch := true } |> setCondition .beltStall false

/-- A step of the belt encoder (R10, R88, R144). -/
def beltStep (forward : Bool) (s : State) : State :=
  let t := s.setTrack { s.track with
    beltCount := beltAfter forward s.track.beltCount, loaves := s.track.loaves.map (Loaf.step forward) }
  t.setStations { t.stations with
    recs := ⟨t.stations.recs.a.step forward, t.stations.recs.b.step forward⟩ } |> beltMoves

/-- The fault a check raises (R10). -/
def checkFault : CheckKind → FaultKind
  | .length => .jamInfeed
  | .stop => .jamInfeed
  | .reject => .rejectMissed
  | .exit => .jamOutfeed

/-- A check of this kind has run out on the record with this tag. -/
def checkDue (s : State) (kind : CheckKind) (tag : Nat) : Bool :=
  (findLoaf s tag).any fun r => decide (r.check = some ⟨kind, 0⟩)

/-- A check expires: the record carries no check, and the fault is raised once with its tag (R10). -/
def checkExpires (kind : CheckKind) (tag : Nat) (s : State) : State :=
  if checkDue s kind tag then
    modifyLoaf tag (fun r => { r with check := none }) s |> raiseFault (checkFault kind) (some tag) |> finish
  else s

/-- The belt watch timer expires (R144). -/
def watchExpires (s : State) : State :=
  if s.sup.beltWatch then s.setSup { s.sup with beltWatch := false } |> setCondition .beltStall true |> finish else s

/-! ## The meanings -/

/-- An edge of an input function: nothing where no point holds it, else the new level stands and the owner acts (R171). -/
def inputEdge (f : Func) (high : Bool) (owner : State → State) (s : State) : State :=
  if isHeld s f then driveInput f high s |> owner |> finish else s

/-- INFEED_EYE_LEADING_EDGE (R4, R7). -/
def execInfeedEyeLeadingEdge (s : State) : Result := .next (inputEdge .infeedEye true infeedLeading s)
/-- INFEED_EYE_TRAILING_EDGE (R5). -/
def execInfeedEyeTrailingEdge (s : State) : Result := .next (inputEdge .infeedEye false infeedTrailing s)
/-- STOP_EYE_LEADING_EDGE (R11, R62). -/
def execStopEyeLeadingEdge (s : State) : Result := .next (inputEdge .stopEye true stopLeading s)
/-- EXIT_EYE_TRAILING_EDGE (R15). -/
def execExitEyeTrailingEdge (s : State) : Result := .next (inputEdge .exitEye false exitTrailing s)
/-- REJECT_EYE_TRAILING_EDGE (R16). -/
def execRejectEyeTrailingEdge (s : State) : Result := .next (inputEdge .rejectEye false rejectTrailing s)

/-- The function of an end eye. -/
def eyeFunction : EndEye → Func
  | .exit => .exitEye
  | .reject => .rejectEye

/-- EXIT_REJECT_LEADING_EDGE (R17). -/
def execExitRejectLeadingEdge (eye : EndEye) (s : State) : Result :=
  .next (inputEdge (eyeFunction eye) true (endEyeLeading eye) s)
/-- BELT_ENCODER_STEP (R10). -/
def execBeltEncoderStep (forward : Bool) (s : State) : Result := .next (beltStep forward s |> finish)
/-- LENGTH_CHECK_EXPIRY (R6). -/
def execLengthCheckExpiry (tag : Nat) (s : State) : Result := .next (checkExpires .length tag s)
/-- STOP_CHECK_EXPIRY (R10). -/
def execStopCheckExpiry (tag : Nat) (s : State) : Result := .next (checkExpires .stop tag s)
/-- REJECT_CHECK_EXPIRY (R13). -/
def execRejectCheckExpiry (tag : Nat) (s : State) : Result := .next (checkExpires .reject tag s)
/-- EXIT_CHECK_EXPIRY (R14). -/
def execExitCheckExpiry (tag : Nat) (s : State) : Result := .next (checkExpires .exit tag s)
/-- BELT_WATCH_EXPIRY (R144). -/
def execBeltWatchExpiry (s : State) : Result := .next (watchExpires s)

end Sys2Proof.Machine
end

