-- ==== Sys2Proof/Machine/StationEvents.lean ====
section
/-! DEFINITION. The events of the stations and the tyers: the bag eyes (R81, R89), the station timers and counts (R81, R88, R89), the
strike (R101); and which owner takes a change of level at a held input function (R171). -/

namespace Sys2Proof.Machine

/-- A bag eye covered: the drawn bag of an OPENING station stands open (R81). While the line is HALTED no station takes it (R94). -/
def bagCovered (x : Station) (s : State) : State :=
  if decide ((stationRec s x).state = .opening) && (stationRec s x).attempt.isSome && decide (s.sup.line ≠ .halted) then
    stationReady x s
  else s

/-- A bag eye clear: the release in RELEASING (R89), a lost bag in READY (R81). While the line is HALTED no station takes it (R94). -/
def bagCleared (x : Station) (s : State) : State :=
  if s.sup.line = .halted then s
  else
    match (stationRec s x).state with
    | .releasing => releaseLoaf x s
    | .ready => wasteBag x s |> enterOpening x
    | _ => s

/-- The bag-open timer expires (R81): the second attempt, or STATION_x with no loaf given. -/
def openTimeout (x : Station) (s : State) : State :=
  match (stationRec s x).bagTimer with
  | none => s
  | some _ =>
    let t := wasteBag x s
    (if (stationRec s x).attempt = some 1 then setStation x { stationRec t x with bagTimer := none } t |> drawBag x 2
      else raiseFault (.station x) none t |> stationOut x) |> finish

/-- The release wait expires (R89): the release is taken all the same, and STATION_x is raised with the loaf's tag. -/
def releaseTimeout (x : Station) (s : State) : State :=
  match (stationRec s x).releaseTimer with
  | none => s
  | some _ => loafToOutfeed x s |> raiseFault (.station x) (stationRec s x).tag |> afterRelease x |> finish

/-- The travel count is used up (R88): the scoop pulse starts, unless the station is held, which pulses at START (R94). -/
def travelExpires (x : Station) (s : State) : State :=
  let r := stationRec s x
  if r.travel = some 0 then
    setStation x { r with travel := none, scoopTimer := if r.held then none else some s.stations.times.scoopTime } s
  else s

/-- The scoop pulse ends (R88). -/
def scoopEnds (x : Station) (s : State) : State :=
  match (stationRec s x).scoopTimer with
  | none => s
  | some _ => scoopComplete x s |> finish

/-- Half the strike time has passed: the station asks for its tension sample (R101). -/
def strikeMiddle (x : Station) (s : State) : State :=
  match (tyerOf s x).stage with
  | none => s
  | some k =>
    if k.midpointDue then
      setTyer x { tyerOf s x with stage := some { k with midpointDue := false } } s |> askConversion (.station x)
    else s

/-- The strike time has elapsed: the stage ends with the judgement of its sample, which has come by then (R101). -/
def strikeEnds (x : Station) (s : State) : State :=
  match (tyerOf s x).stage.bind Strike.judged with
  | none => s
  | some result => endTying x result s |> finish

/-! ## Changes of level at a held function -/

/-- The owner of an input function takes a change of its level (R171). -/
def inputChanged (f : Func) (high : Bool) (s : State) : State :=
  match f, high with
  | .infeedEye, true => infeedLeading s
  | .infeedEye, false => infeedTrailing s
  | .stopEye, true => stopLeading s
  | .stopEye, false => s
  | .exitEye, true => endEyeLeading .exit s
  | .exitEye, false => exitTrailing s
  | .rejectEye, true => endEyeLeading .reject s
  | .rejectEye, false => rejectTrailing s
  | .bagEye x, true => bagCovered x s
  | .bagEye x, false => bagCleared x s
  | .key _, _ => evaluate .keyInvalid s
  | .guardDoor, _ => reviewGuard s
  | .trayFull, _ => reviewTray s
  | _, _ => s

/-! ## The meanings -/

/-- BAG_EYE_LEADING_EDGE (R81). -/
def execBagEyeLeadingEdge (x : Station) (s : State) : Result := .next (inputEdge (.bagEye x) true (bagCovered x) s)
/-- BAG_EYE_TRAILING_EDGE (R81, R89). -/
def execBagEyeTrailingEdge (x : Station) (s : State) : Result := .next (inputEdge (.bagEye x) false (bagCleared x) s)
/-- BAG_OPEN_TIMEOUT (R81). -/
def execBagOpenTimeout (x : Station) (s : State) : Result := .next (openTimeout x s)
/-- RELEASE_TIMEOUT (R89). -/
def execReleaseTimeout (x : Station) (s : State) : Result := .next (releaseTimeout x s)
/-- TRAVEL_COUNT_EXPIRY (R88). -/
def execTravelCountExpiry (x : Station) (s : State) : Result := .next (travelExpires x s)
/-- SCOOP_END (R88). -/
def execScoopEnd (x : Station) (s : State) : Result := .next (scoopEnds x s)
/-- STRIKE_MIDPOINT (R101). -/
def execStrikeMidpoint (x : Station) (s : State) : Result := .next (strikeMiddle x s)
/-- STRIKE_END (R101). -/
def execStrikeEnd (x : Station) (s : State) : Result := .next (strikeEnds x s)

end Sys2Proof.Machine
end

