-- ==== Sys2Proof/Machine/PointRequests.lean ====
section
/-! DEFINITION. The requests on the points and the link: SET POINT, TAKE EDGES, WRITE OUT, READ POINTS (R172 to R176), SET REPORTS (R183)
and IDENT (R184). -/

namespace Sys2Proof.Machine

/-- A point number as a point, for one that the range check has passed. -/
def pointOf (n : Nat) : PointNo := Fin.ofNat 24 n

/-! ## SET POINT -/

/-- A SET POINT whose operands are all inside their sets. -/
structure PointConfig where
  point : PointNo
  mode : PointMode
  drive : DriveKind
  pullUp : Bool
  edge : EdgeSelect
  report : Bool
deriving DecidableEq, Repr

/-- The range check of SET POINT (R172). -/
def pointConfig (w : PointWrite) : Option PointConfig :=
  match w.mode, w.drive, w.edge with
  | some m, some d, some e =>
    if w.point ≤ 23 && within 0 1 w.pullUp && within 0 1 w.report then
      some ⟨pointOf w.point, m, d, decide (w.pullUp = 1), e, decide (w.report = 1)⟩
    else none
  | _, _, _ => none

/-- The values as R170 gives them: no pull-up on an output, no edge select or report outside IN. -/
def PointConfig.taken (c : PointConfig) : PointConfig :=
  let drives := decide (c.mode = .output) || (functionOf c.point c.mode).any fun f => !isInput f
  { c with
    pullUp := c.pullUp && !drives
    edge := if c.mode = .input then c.edge else .never
    report := c.report && decide (c.mode = .input) }

/-- The point holds KEY_A, KEY_B or GUARD_DOOR (R41). -/
def guardedPoint (s : State) (p : PointNo) : Bool :=
  match pointFunction s p with
  | some (.key _) => true
  | some .guardDoor => true
  | _ => false

/-- The function a mode would give is held by another point (R172). -/
def heldElsewhere (s : State) (c : PointConfig) : Bool :=
  match functionOf c.point c.mode with
  | none => false
  | some f => (holder s f).any (· != c.point)

/-- The function a mode would give exists on this part (R172). -/
def functionFitted (s : State) (c : PointConfig) : Bool :=
  match functionOf c.point c.mode with
  | none => true
  | some f => !isStationB f || stationFitted s.member .b

/-- The point takes its configuration; its latch is clear and its written level low (R172, R173, R176). A level that the request moves at a
point it leaves in IN is taken with no edge (log entry 42). -/
def configurePoint (c : PointConfig) (s : State) : State :=
  let v := c.taken
  s.setPoints (s.points.set c.point { s.points[c.point] with
    mode := v.mode, drive := v.drive, pullUp := v.pullUp, edge := v.edge, report := v.report, latch := false, written := false })

/-- A request that leaves an input function on its point and moves the level there, by the pull-up of a terminal that nothing drives, hands the
owner that change (R171); a function that joins or leaves brings no edge (R173). -/
def handChange (p : PointNo) (before s : State) : State :=
  match pointFunction s p with
  | none => s
  | some f =>
    if isInput f && decide (pointFunction before p = some f) && decide (terminalLevel s.points[p] ≠ terminalLevel before.points[p]) then
      inputChanged f (terminalLevel s.points[p]) s
    else s

/-- Each owner takes the level of its function as it now stands, with no edge: KEY_INVALID, the guard, the tray, the arrival at the stop
eye, a draw that waited for its functions (R80, R173), in this order (log entry 45). -/
def functionsMoved (before s : State) : State :=
  evaluate .keyInvalid s |> reviewGuard |> reviewTray
    |> (fun t => if !inputHigh before .stopEye && inputHigh t .stopEye then disarmStop t else t)
    |> tryDraw .a |> tryDraw .b |> evaluate .noStation

/-- SET POINT's effect. -/
def setPoint (c : PointConfig) (s : State) : State := configurePoint c s |> handChange c.point s |> functionsMoved s

/-- SET POINT, in the order of R172's checks. The reply gives the point and the five values taken, six fields (log entry 43). -/
def svcSetPoint (f : Form PointWrite) : Service :=
  withForm f fun w =>
    match pointConfig w with
    | none => refuse .range
    | some c => needTier .engineer <| require (fun s => !moving s) .state <|
      require (fun s => !(s.recipes.lockdown && guardedPoint s c.point)) .locked <|
      require (fun _ => decide (c.mode ≠ .func2) || (func2Of c.point.val).isSome) .notAvailable <|
      require (fun s => functionFitted s c) .notFitted <| require (fun s => !heldElsewhere s c) .inUse fun s =>
        let v := c.taken
        (setPoint c s, accepted "SET POINT" [decimal v.point.val, codes (pointModeText v.mode), codes (driveText v.drive),
          flagText v.pullUp, codes (edgeText v.edge), flagText v.report])

/-! ## Edges, levels, reading -/

/-- The points whose latch is set, in ascending order (R175). -/
def latchedPoints (s : State) : List PointNo := (List.finRange 24).filter fun p => s.points[p].latch

/-- TAKE EDGES: the latches are listed and cleared at the same event (R175). -/
def svcTakeEdges (f : Form Unit) : Service :=
  withForm f fun _ => needTier .operator fun s =>
    (s.setPoints (s.points.map fun p => { p with latch := false }),
      accepted "TAKE EDGES" [listText ((latchedPoints s).map fun p => decimal p.val)])

/-- WRITE OUT: refused with STATE unless the point is in OUT mode (R176). -/
def svcWriteOut (f : Form OutWrite) : Service :=
  withForm f fun w => require (fun _ => w.point ≤ 23 && within 0 1 w.level) .range <| needTier .setter <|
    require (fun s => decide (s.points[pointOf w.point].mode = .output)) .state fun s =>
      let p := pointOf w.point
      (s.setPoints (s.points.set p { s.points[p] with written := decide (w.level = 1) }),
        accepted "WRITE OUT" [decimal w.point, decimal w.level])

/-- The line of a point in READ POINTS (R176, R186). -/
def pointFields (s : State) (p : PointNo) : List Text :=
  let v := s.points[p]
  [decimal p.val, codes (pointModeText v.mode), optText (codes ∘ funcText) (pointFunction s p), codes (driveText v.drive),
    flagText v.pullUp, codes (edgeText v.edge), flagText v.report, flagText (pointLevel s p)]

/-- The level of TREND inside its period has been read: one free value is used up (log entry 9). -/
def trendRead (s : State) : State :=
  if isHeld s .trend && decide (s.meas.trend.duty ≠ 0) && decide (s.meas.trend.duty ≠ 1023) then s.setFresh (s.fresh + 1) else s

/-- READ POINTS (R176). -/
def svcReadPoints (f : Form Unit) : Service :=
  withForm f fun _ => needTier .operator fun s =>
    (trendRead s, multiLine "READ POINTS" [] ((List.finRange 24).map (pointFields s)))

/-! ## The link's own requests -/

/-- The enables that a set of kinds turns on (R183). -/
def enablesOf (ks : List ReportKind) : Enables :=
  ⟨ks.contains .w, ks.contains .d, ks.contains .x, ks.contains .c, ks.contains .s, ks.contains .e⟩

/-- The enabled letters in the order W D X C S E, or NONE (R183). -/
def enablesText (e : Enables) : Text :=
  let letter (on : Bool) (k : ReportKind) : Text := if on then [kindLetter k] else []
  let all := letter e.w .w ++ letter e.d .d ++ letter e.x .x ++ letter e.c .c ++ letter e.s .s ++ letter e.e .e
  if all.isEmpty then codes "NONE" else all

/-- SET REPORTS: a letter given twice is refused with SYNTAX, an F or an L with RANGE (R183). -/
def svcSetReports (f : Form (List ReportKind)) : Service :=
  withForm f fun ks => require (fun _ => decide ks.Nodup) .malformed <|
    require (fun _ => !(ks.contains .f || ks.contains .l)) .range <| needTier .setter fun s =>
    (s.setLink { s.link with enables := enablesOf ks }, accepted "SET REPORTS" [enablesText (enablesOf ks)])

/-- IDENT (R184). -/
def svcIdent (f : Form Unit) : Service :=
  withForm f fun _ => needTier .operator fun s =>
    (s, accepted "IDENT" [codes (memberText s.member), [Config.revision], flagText s.options.printer,
      flagText s.options.tyers.a, flagText s.options.tyers.b, codes (resetText s.sup.resetCause)])

/-! ## The meanings -/

/-- SET_POINT (R172). -/
def execSetPoint (f : Form PointWrite) (s : State) : Result := .next (serve (svcSetPoint f) s)
/-- TAKE_EDGES (R175). -/
def execTakeEdges (f : Form Unit) (s : State) : Result := .next (serve (svcTakeEdges f) s)
/-- WRITE_OUT (R176). -/
def execWriteOut (f : Form OutWrite) (s : State) : Result := .next (serve (svcWriteOut f) s)
/-- READ_POINTS (R176). -/
def execReadPoints (f : Form Unit) (s : State) : Result := .next (serve (svcReadPoints f) s)
/-- SET_REPORTS (R183). -/
def execSetReports (f : Form (List ReportKind)) (s : State) : Result := .next (serve (svcSetReports f) s)
/-- IDENT (R184). -/
def execIdent (f : Form Unit) (s : State) : Result := .next (serve (svcIdent f) s)

end Sys2Proof.Machine
end

