-- ==== Sys2Proof/Machine/InputEvents.lean ====
section
/-! DEFINITION. The events of the remaining inputs: the guard door (R144), the tray switch (R116), the key switch (R32, R34), any change at
the terminal of a point (R171, R174); and the tick of the calendar clock (R156, R163, R164). -/

namespace Sys2Proof.Machine

/-! ## Changes of level -/

/-- The edge select takes a change to this level (R174). -/
def edgeTaken : EdgeSelect → Bool → Bool
  | .never, _ => false
  | .rise, high => high
  | .fall, high => !high
  | .both, _ => true

/-- A change of level at a point in IN mode: the latch, and #E where the report enable is on (R174). -/
def plainEdge (p : PointNo) (high : Bool) (s : State) : State :=
  let v := s.points[p]
  if edgeTaken v.edge high then
    let t := s.setPoints (s.points.set p { v with latch := true })
    if v.report then report (.edge p high high) t else t
  else s

/-- A change of level at a terminal reaches the point's plain input, or the owner of its input function (R171, R174). -/
def levelChanged (p : PointNo) (high : Bool) (s : State) : State :=
  match s.points[p].mode, pointFunction s p with
  | .input, _ => plainEdge p high s
  | _, some f => if isInput f then inputChanged f high s else s
  | _, none => s

/-- What stands at a terminal from outside changes; where its level changes with it, the change is taken. -/
def terminalChanges (p : PointNo) (sig : Signal) (s : State) : State :=
  let t := setTerminal p sig s
  if terminalLevel t.points[p] = terminalLevel s.points[p] then t
  else levelChanged p (terminalLevel t.points[p]) t |> finish

/-! ## The calendar clock -/

/-- The clock after a tick; the last second of 2099 is followed by the first of 2000 (R156). -/
def clockAfter (n : Nat) : Nat := (n + 1) % Config.clockSpan

/-- One second to the count of the line state (R163). -/
def countSecond (l : LineState) (r : ShiftRecord) : ShiftRecord :=
  match l with
  | .running => { r with runSeconds := raiseCount r.runSeconds 1 }
  | .draining => { r with drainSeconds := raiseCount r.drainSeconds 1 }
  | .stopped => { r with stopSeconds := raiseCount r.stopSeconds 1 }
  | .halted => { r with haltSeconds := raiseCount r.haltSeconds 1 }

/-- The clock stands at second 00 of an entry's start minute (R164). -/
def atStartMinute (s : State) : Bool := s.shift.schedule.any fun e => decide (secondOfDay s.shift.clock = e.startMinute * 60)

/-- A tick: the second is counted into the record open before it, then a start minute closes the shift, while the clock is set
(R156, R163, R164). -/
def clockTicks (s : State) : State :=
  let t := countShift (countSecond s.sup.line) s
  let u := t.setShift { t.shift with clock := clockAfter t.shift.clock }
  if u.shift.clockSet && atStartMinute u then
    closeShiftNow .schedule (entryNow u) (entryLetter u.shift.schedule (entryNow u)) (some (bakeryNow u)) u |> transmit
  else u

/-! ## The meanings -/

/-- GUARD_DOOR_CHANGE (R144). -/
def execGuardDoorChange (high : Bool) (s : State) : Result := .next (inputEdge .guardDoor high reviewGuard s)
/-- TRAY_FULL_CHANGE (R116). -/
def execTrayFullChange (high : Bool) (s : State) : Result := .next (inputEdge .trayFull high reviewTray s)
/-- KEY_INPUT_CHANGE (R32, R34). -/
def execKeyInputChange (k : Key) (on : Bool) (s : State) : Result := .next (inputEdge (.key k) on (evaluate .keyInvalid) s)
/-- PLAIN_INPUT_EDGE (R174). -/
def execPlainInputEdge (p : PointNo) (sig : Signal) (s : State) : Result := .next (terminalChanges p sig s)
/-- CLOCK_TICK (R156). -/
def execClockTick (s : State) : Result := .next (clockTicks s)

end Sys2Proof.Machine
end

