-- ==== Sys2Proof/Machine/Resets.lean ====
section
/-! DEFINITION. The three resets (R154), block by block (R23, R43, R77, R97, R110, R123, R138, R155, R168, R177, R185), and what the owners
present once the blocks have their values. -/

namespace Sys2Proof.Machine

/-! ## The blocks at a warm reset -/

/-- The track keeps its sequence, belt count, limit and geometry (R23). -/
def Track.warm (t : Track) : Track := { t with loaves := [], infeedHold := true }

/-- The head keeps the pusher count and the stamp (R77). -/
def Head.warm (h : Head) : Head :=
  { Head.powerOn h.park h.phaseInput with pusher := h.pusher, stamp := h.stamp }

/-- A station keeps its class, flag and magazine; it restarts afterwards (R97). -/
def StationRec.warm (r : StationRec) : StationRec :=
  { StationRec.powerOn with bagClass := r.bagClass, inServiceFlag := r.inServiceFlag, magazine := r.magazine }

/-- The stations keep their policy, last-assigned station and times (R97). -/
def Stations.warm (v : Stations) : Stations :=
  { v with recs := ⟨v.recs.a.warm, v.recs.b.warm⟩, stationGate := false }

/-- A tyer keeps its spool and settings (R110). -/
def Tyer.warm (t : Tyer) : Tyer := { t with stage := none, codeHeld := none, clipsOut := false }

/-- Crumb control keeps its loads, settings and last-admitted slot; bursting follows the blade load (R123). -/
def Crumb.warm (c : Crumb) : Crumb :=
  { c with bursting := decide (c.settings.bladeThreshold ≤ c.bladeLoad), airKnife := false, pending := none, sweep := none, weakCount := 0 }

/-- Measurement at a reset: nothing in progress, no condition, the pointers at the lowest channels, the idle timer started (R138). -/
def Meas.restarted (v : Sampling) (m : Meas) : Meas :=
  { Meas.powerOn with
    samples := m.samples, limits := m.limits, sampling := v, trend := m.trend, cutPointer := v.cutSet.head?, retPointer := v.retSet.head? }

/-- TREND shows the last sample of the channel now selected; the period in progress runs to its end (log entry 23). -/
def Trend.reselected (c : Channel) (frequency : Nat) (m : Meas) : Trend :=
  { m.trend with channel := c, frequency := frequency, value := m.samples[c].value }

/-- Measurement at a reset by the reset line: the settings are the defaults, the last samples are kept (R138). -/
def Meas.lineReset (m : Meas) : Meas :=
  { m.restarted Sampling.powerOn with limits := defaultLimits, trend := Trend.reselected 0 200 m }

/-- Measurement at a RESET message: the settings are kept (R138). -/
def Meas.messageReset (m : Meas) : Meas :=
  { m.restarted m.sampling with trend := Trend.reselected m.trend.channel m.trend.frequency m }

/-- A fault entry at a warm reset: INACTIVE; counts, stamps and loaves are kept (R155). -/
def FaultEntry.warm (e : FaultEntry) : FaultEntry := { e with state := .inactive }

/-- The fault table at a reset by the reset line: default actions, masks clear (R155). -/
def faultsLineReset (m : Member) (v : Vector FaultEntry 19) : Vector FaultEntry 19 :=
  Vector.ofFn fun i => { v[i].warm with action := defaultAction m (allFaults.getD i.val .guardOpen), mask := false }

/-- Supervision at a warm reset, before the owners present their conditions (R155). -/
def Supervision.warm (cause : ResetCause) (v : Supervision) : Supervision :=
  { v with
    line := .stopped
    faults := v.faults.map FaultEntry.warm
    warnings := v.warnings.map fun e => { e with present := false, indication := false }
    resetCause := cause
    beltWatch := false }

/-- Supervision at a reset by the reset line: default actions and no masks (R155). -/
def Supervision.lineReset (m : Member) (v : Supervision) : Supervision :=
  { v.warm .resetLine with
    faults := faultsLineReset m v.faults
    warnings := Vector.replicate 17 ⟨false, false, false⟩ }

/-- A point at a reset by the reset line; what stands at its terminal stays (R177). -/
def Point.lineReset (p : Point) : Point := { Point.powerOn with driven := p.driven, signal := p.signal }

/-- A point at a RESET message: its configuration is kept, its latch is cleared (R177). -/
def Point.messageReset (p : Point) : Point := { p with latch := false }

/-- The link at a RESET message: the enables are kept (R185). -/
def Link.warm (l : Link) : Link := { Link.powerOn with enables := l.enables }

/-! ## Counts and restarts -/

/-- A station holds a bag from the draw until the bag leaves or is counted wasted (R78). -/
def holdsBag (r : StationRec) : Bool :=
  match r.state with
  | .outOfService => false
  | .empty => false
  | .opening => r.attempt.isSome
  | .ready => true
  | .filling => true
  | .tying => true
  | .releasing => true

/-- A bag held by a fitted station is counted wasted at a warm reset (R97). -/
def wasteHeld (x : Station) (s : State) : State :=
  if stationFitted s.member x && holdsBag (stationRec s x) then wasteBag x s else s

/-- What a warm reset counts into the open shift record (R23, R97, R123, R168). -/
def warmCounts (s : State) : State :=
  countShift (fun r => { r with
      lost := raiseCount r.lost s.track.loaves.length
      sweepsAborted := if s.crumb.sweep.isSome then raiseCount r.sweepsAborted 1 else r.sweepsAborted }) s
    |> wasteHeld .a |> wasteHeld .b

/-- A fitted station after a warm reset: OUT_OF_SERVICE with its flag clear, EMPTY with magazine 0, else OPENING, drawing if it may
(R97). -/
def restartStation (x : Station) (s : State) : State :=
  if stationFitted s.member x then
    if (stationRec s x).inServiceFlag then
      if (stationRec s x).magazine = 0 then stationEmpties x s else enterOpening x s
    else stationOut x s
  else s

/-- The reports and warning flags that a reset itself forces are none (R152, R154). -/
def forget (l : Link) (s : State) : State :=
  s.setSup { s.sup with warnings := s.sup.warnings.map fun e => { e with present := false, indication := false } } |> fun t => t.setLink l

/-- Each owner presents its warnings, then the conditions it holds (R154); the transmitter starts on what they queued. -/
def present (s : State) : State :=
  (memberWarnings s.member).foldl (fun t w => evaluate w t) s |> reviewGuard |> reviewTray |> transmit

/-! ## The resets -/

/-- Power-on: the straps are read, every block takes its power-on values (R154). Input levels, the member and the queue stay. -/
def powerOnReset (p : Straps) (s : State) : State :=
  present { s with
    options := Options.ofStraps s.member p
    track := Track.powerOn
    recipes := Recipes.powerOn
    head := Head.powerOn s.head.park s.head.phaseInput
    stations := Stations.powerOn
    tyers := ⟨Tyer.powerOn, Tyer.powerOn⟩
    crumb := Crumb.powerOn
    meas := Meas.powerOn
    sup := Supervision.powerOn s.member
    shift := Shift.powerOn
    points := s.points.map Point.lineReset
    link := Link.powerOn }

/-- What both warm resets do alike, on a state whose counts have been taken. -/
def warmBlocks (s : State) : State :=
  { s with
    track := s.track.warm
    head := s.head.warm
    stations := s.stations.warm
    tyers := ⟨s.tyers.a.warm, s.tyers.b.warm⟩
    crumb := s.crumb.warm }

/-- The reset by the reset line (R154). -/
def lineReset (p : Straps) (s : State) : State :=
  let t := warmBlocks (warmCounts s)
  let u := { t with
    options := Options.ofStraps t.member p
    meas := t.meas.lineReset
    sup := t.sup.lineReset t.member
    points := t.points.map Point.lineReset }
  restartStation .a u |> restartStation .b |> forget Link.powerOn |> present

/-- The reset of the RESET message (R154). -/
def messageReset (s : State) : State :=
  let t := warmBlocks (warmCounts s)
  let u := { t with
    meas := t.meas.messageReset
    sup := t.sup.warm .message
    points := t.points.map Point.messageReset }
  restartStation .a u |> restartStation .b |> forget s.link.warm |> present

/-! ## The meanings -/

/-- POWER_ON (R154). -/
def execPowerOn (p : Straps) (s : State) : Result := .next (powerOnReset p s)
/-- RESET_LINE (R154). -/
def execResetLine (p : Straps) (s : State) : Result := .next (lineReset p s)

end Sys2Proof.Machine
end

