-- ==== Sys2Proof/Machine/ShiftRequests.lean ====
section
/-! DEFINITION. The requests on the shift clock and totals: SET CLOCK, READ CLOCK, SET SHIFTS, CLOSE SHIFT, READ TOTALS and READ HISTORY
(R157, R159, R164 to R167). -/

namespace Sys2Proof.Machine

/-! ## The clock -/

/-- A time of day as hh:mm. -/
def minuteText (m : Nat) : Text := padded 2 (m / 60) ++ 0x3A :: padded 2 (m % 60)

/-- The date and the time of the clock as a reply sends them: the date as yyyy-mm-dd, the time as the clock reading in seconds (R186). -/
def momentFields (s : State) : List Text := [dayText (dayOfReading s.shift.clock), decimal s.shift.clock]

/-- The open record takes the identity of the moment, keeping its counts and its open time (R164). -/
def relabelShift (s : State) : State :=
  let e := entryNow s
  countShift (fun r => { r with
    entry := e, letter := entryLetter s.shift.schedule e, bakeryDay := some (bakeryNow s) }) s

/-- The moment's shift identity is the open record's (R158, R164). -/
def sameIdentity (s : State) : Bool :=
  decide (entryNow s = s.shift.openRecord.entry) && decide (some (bakeryNow s) = s.shift.openRecord.bakeryDay)

/-- SET CLOCK's effect: a clock that was set closes the shift where the identity differs, one that was not relabels it (R157, R164). -/
def setClock (reading : Nat) (s : State) : State :=
  let t := s.setShift { s.shift with clock := reading, clockSet := true }
  if s.shift.clockSet then
    if sameIdentity t then t
    else closeShiftNow .clockSet (entryNow t) (entryLetter t.shift.schedule (entryNow t)) (some (bakeryNow t)) t
  else relabelShift t

/-- SET CLOCK (R157); its reply's fields are those of R186. -/
def svcSetClock (f : Form Moment) : Service :=
  withForm f fun m => require (fun _ => momentInRange m) .range <| needTier .setter fun s =>
    let t := setClock (readingOf m) s
    (t, accepted "SET CLOCK" (momentFields t ++ [[t.shift.openRecord.letter], optText dayText t.shift.openRecord.bakeryDay]))

/-- A schedule entry as it is sent: letter:hh:mm (R186). -/
def entryText (e : ShiftEntry) : Text := e.letter :: 0x3A :: minuteText e.startMinute

/-- The schedule as a list. -/
def scheduleText (es : List ShiftEntry) : Text := listText (es.map entryText)

/-- READ CLOCK (R157, R186): the time field and the clock reading are the same number, since R186 sends a time as a clock reading. -/
def svcReadClock (f : Form Unit) : Service :=
  withForm f fun _ => needTier .operator fun s =>
    (s, accepted "READ CLOCK" (momentFields s ++ [decimal s.shift.clock, flagText s.shift.clockSet, scheduleText s.shift.schedule,
      decimal (entryNow s), dayText (bakeryNow s)]))

/-! ## The schedule -/

/-- The characters and times of SET SHIFTS are in range (R159). -/
def pairInRange (p : ShiftPair) : Bool :=
  within 65 90 (capital p.letter).toNat && p.hour ≤ 23 && p.minute ≤ 59

/-- A pair as a schedule entry, its letter in capitals. -/
def entryOf (p : ShiftPair) : ShiftEntry := ⟨capital p.letter, p.hour * 60 + p.minute⟩

/-- A list of numbers rises strictly. -/
def rises : List Nat → Bool
  | a :: b :: rest => a < b && rises (b :: rest)
  | _ => true

/-- Start minutes rise strictly, counted modulo 1440 from entry 1 (R158). -/
def scheduleRises (es : List ShiftEntry) : Bool :=
  match es with
  | [] => false
  | e :: _ => rises (es.map fun d => (d.startMinute + 1440 - e.startMinute) % 1440)

/-- SET SHIFTS's effect: the schedule, then the close with cause SCHEDULE_CHANGED (R159, R164). -/
def setShifts (es : List ShiftEntry) (s : State) : State :=
  let t := s.setShift { s.shift with schedule := es }
  closeShiftNow .scheduleChanged (entryNow t) (entryLetter es (entryNow t))
    (if t.shift.clockSet then some (bakeryNow t) else none) t

/-- SET SHIFTS (R159): no pair, or more than four, is refused with SYNTAX. -/
def svcSetShifts (f : Form (List ShiftPair)) : Service :=
  withForm f fun ps =>
    let es := ps.map entryOf
    require (fun _ => within 1 4 ps.length) .malformed <|
    require (fun _ => ps.all pairInRange && scheduleRises es) .range <| needTier .setter fun s =>
      (setShifts es s, accepted "SET SHIFTS" [scheduleText es])

/-! ## Closing and reading -/

/-- CLOSE SHIFT's effect: a close with the same entry, letter and bakery date (R164, R166). -/
def closeByCommand (s : State) : State :=
  let r := s.shift.openRecord
  closeShiftNow .command r.entry r.letter r.bakeryDay s

/-- CLOSE SHIFT (R166). -/
def svcCloseShift (f : Form Unit) : Service :=
  withForm f fun _ => needTier .setter fun s =>
    let t := closeByCommand s
    (t, accepted "CLOSE SHIFT" [decimal s.track.loaves.length, [t.shift.openRecord.letter]])

/-- The header fields that every shift record has (R186). -/
def recordHeader (r : ShiftRecord) : List Text :=
  [decimal r.entry, [r.letter], optText dayText r.bakeryDay, decimal r.openTime, flagText r.openClockSet, decimal r.carriedIn]

/-- One station's line of a shift record. -/
def countsLine (r : ShiftRecord) (x : Station) : List Text :=
  let c := r.stations.get x
  codes (stationText x) :: [c.drawn, c.wasted, c.clipMm, c.misties, c.untied].map decimal

/-- One per-recipe line of a shift record. -/
def recipeLineFields (l : RecipeLine) : List Text :=
  (match l.key with
    | some i => decimal i.val
    | none => codes "NONE") :: [l.loavesIn, l.bagged, l.rejected, l.slices].map decimal

/-- The lines that follow the first in READ TOTALS and READ HISTORY (R160, R186). -/
def recordLines (m : Member) (r : ShiftRecord) : List (List Text) :=
  let c := r.rejected
  [[r.loavesIn, r.bagged, r.lost, r.unrecorded].map decimal,
    [c.short, c.double, c.operator, c.miscut, c.interrupted, c.noRecipe, c.noClean].map decimal,
    [r.sweepsSuccess, r.sweepsWeak, r.sweepsAborted, r.bursts, r.halts].map decimal,
    [r.runSeconds, r.drainSeconds, r.stopSeconds, r.haltSeconds].map decimal] ++
    (fittedStations m).map (countsLine r) ++ r.lines.map recipeLineFields

/-- READ TOTALS (R167). -/
def svcReadTotals (f : Form Unit) : Service :=
  withForm f fun _ => needTier .operator fun s =>
    let r := s.shift.openRecord
    (s, multiLine "READ TOTALS" (recordHeader r ++ [decimal s.track.loaves.length]) (recordLines s.member r))

/-- READ HISTORY: place 0 is the newest closed record (R167). -/
def svcReadHistory (f : Form Nat) : Service :=
  withForm f fun i => require (fun _ => i ≤ 7) .range fun s =>
    match s.shift.history[i]? with
    | none => refuse .noSuch s
    | some c => needTier .operator (fun s => (s, multiLine "READ HISTORY"
        (recordHeader c.record ++ [decimal c.carriedOut, decimal c.closeTime, flagText c.closeClockSet, codes (causeText c.cause)])
        (recordLines s.member c.record))) s

/-! ## The meanings -/

/-- SET_CLOCK (R157). -/
def execSetClock (f : Form Moment) (s : State) : Result := .next (serve (svcSetClock f) s)
/-- READ_CLOCK (R157). -/
def execReadClock (f : Form Unit) (s : State) : Result := .next (serve (svcReadClock f) s)
/-- SET_SHIFTS (R159). -/
def execSetShifts (f : Form (List ShiftPair)) (s : State) : Result := .next (serve (svcSetShifts f) s)
/-- CLOSE_SHIFT (R166). -/
def execCloseShift (f : Form Unit) (s : State) : Result := .next (serve (svcCloseShift f) s)
/-- READ_TOTALS (R167). -/
def execReadTotals (f : Form Unit) (s : State) : Result := .next (serve (svcReadTotals f) s)
/-- READ_HISTORY (R167). -/
def execReadHistory (f : Form Nat) (s : State) : Result := .next (serve (svcReadHistory f) s)

end Sys2Proof.Machine
end

