-- ==== Sys2Proof/Machine/SlicerEvents.lean ====
section
/-! DEFINITION. The slicing head's events: PHASE edges (R60, R61, R64 to R69, R112), the pusher encoder (R58, R70 to R72), PARK (R71), the
stall timer (R61); and READ SLICER (R76). -/

namespace Sys2Proof.Machine

/-! ## A cut -/

/-- A load after one cut's crumb (R111). -/
def loadAfter (load c : Nat) : Nat := min (load + c) Config.loadCap

/-- Crumb control takes a counted cut: both loads, bursting, a THRESHOLD crossing, CRUMB_HIGH (R111 to R113). -/
def crumbTakesCut (c : Nat) (s : State) : State :=
  let v := testBursting { s.crumb with bladeLoad := loadAfter s.crumb.bladeLoad c, trayLoad := loadAfter s.crumb.trayLoad c }
  let t := s.setCrumb v
  (if s.crumb.trayLoad < v.settings.trayThreshold && v.settings.trayThreshold ≤ v.trayLoad then askSweep .threshold t else t)
    |> evaluate .crumbHigh

/-- A cut is counted (R65): cuts done, the next cut index, CUTTING, crumb, totals; the last cut of the plan makes the loaf fully cut, and
MISCUT goes away. The effects are taken in R65's order, so a CRUMB_HIGH that comes is reported before a MISCUT that goes (log entry 46). -/
def countCut (r : Loaf) (i : Nat) (s : State) : State :=
  let t := modifyLoaf r.tag (fun l => { l with cutsDone := some i }) s
  let u := t.setHead { t.head with state := .cutting, nextCut := some (i + 1) }
    |> crumbTakesCut ((r.snapshot.map fun sn => sn.figures.crumb).getD 0)
    |> countShift (fun v => { v with
        lines := countLine r.key (fun l => { l with slices := raiseCount l.slices 1 }) v.lines })
  if r.plan.any (fun p => p.cutCount = i) then u.setHead { u.head with miscuts := 0 } |> warn .miscut false else u

/-- A miscut (R68, R69): the mark, the abandonment, the count, the warning; the third in a row raises PUSHER_FAULT. -/
def missCut (r : Loaf) (s : State) : State :=
  let t := modifyLoaf r.tag (Loaf.withMark .miscut) s |> abandonLoaf r
  let u := t.setHead { t.head with miscuts := t.head.miscuts + 1 } |> warn .miscut true
  if 3 ≤ u.head.miscuts then u.setHead { u.head with miscuts := 0 } |> raiseFault .pusherFault (some r.tag) else u

/-- The context at a CUT begin: only ADVANCING takes it (R64, R65, R68). -/
def contextAtCut (s : State) : State :=
  match s.head.state, headLoaf s, s.head.nextCut with
  | .advancing, some r, some i => if inPosition s.head then countCut r i s else missCut r s
  | _, _, _ => s

/-! ## The blade -/

/-- The previous durations after a CUT begin: those of the revolution it ends, where that was whole (R60). -/
def previousAfterCut (h : Head) (elapsed : Nat) : Option (Nat × Nat) :=
  match h.phase, h.cutTime with
  | .ret, some c => some (c, elapsed)
  | _, _ => h.previous

/-- The deadline a CUT begin starts the stall timer with, in microseconds (R61). -/
def stallAfter (previous : Option (Nat × Nat)) : Nat :=
  match previous with
  | some (c, r) => 2 * (c + r)
  | none => Config.stallDeadline

/-- The blade at a CUT begin while KNIFE_RUN is asserted (R60, R61, R112, R130, R131). -/
def bladeCuts (elapsed : Nat) (s : State) : State :=
  let h := s.head
  let previous := previousAfterCut h elapsed
  let t := s.setHead { h with
    phase := .cut, stamp := h.stamp + 1, cutTime := none, previous := previous, stallTimer := some (stallAfter previous) }
  let u := t.setCrumb { t.crumb with airKnife := false }
  (if h.phase = .idle then u.setMeas u.meas.bladeTurns else u) |> phaseBegins

/-- A rising PHASE edge; with KNIFE_RUN released it changes nothing of the head (R60). The blade takes the begin before the context does
(log entry 44). -/
def cutBegins (elapsed : Nat) (s : State) : State :=
  let t := s.setHead { s.head with phaseInput := true }
  if t.head.knife then bladeCuts elapsed t |> contextAtCut |> finish else t

/-- An air-knife pulse (R112). -/
def airKnifePulse (s : State) : State :=
  if s.crumb.bursting then
    s.setCrumb (testBursting { s.crumb with airKnife := true, bladeLoad := s.crumb.bladeLoad - s.crumb.settings.step })
      |> countShift (fun r => { r with bursts := raiseCount r.bursts 1 })
  else s

/-- The blade at a RETURN begin: nothing before the first CUT begin of the engagement (R60, R112). -/
def bladeReturns (elapsed : Nat) (s : State) : State :=
  match s.head.phase with
  | .idle => s
  | .cut => s.setHead { s.head with phase := .ret, cutTime := some elapsed } |> airKnifePulse |> phaseBegins
  | .ret => airKnifePulse s |> phaseBegins

/-- The context goes on to a cut's target, or to the eject target when the plan's cuts are done (R64, R66). -/
def advanceTo (p : Plan) (i : Nat) (s : State) : State :=
  match p.targets[i - 1]? with
  | some target => s.setHead { s.head with state := .advancing, target := target }
  | none => s.setHead { s.head with state := .ejecting, target := p.ejectTarget } |> endStroke

/-- The context at a RETURN begin: ENTERING and CUTTING take it (R64, R66). -/
def contextAtReturn (s : State) : State :=
  match s.head.state, (headLoaf s).bind Loaf.plan, s.head.nextCut with
  | .entering, some p, some i => advanceTo p i s
  | .cutting, some p, some i => advanceTo p i s
  | _, _, _ => s

/-- A falling PHASE edge (R60, R64). -/
def returnBegins (elapsed : Nat) (s : State) : State :=
  let t := s.setHead { s.head with phaseInput := false }
  if t.head.knife then bladeReturns elapsed t |> contextAtReturn |> finish else t

/-! ## The pusher -/

/-- The context after a pusher step: the end of an eject stroke, or the arrival home (R58, R70 to R72). -/
def pusherMoved (wasHome : Bool) (s : State) : State :=
  match s.head.state with
  | .ejecting => endStroke s
  | .passing => endStroke s
  | .homing => if pusherHome s.head then s.setHead s.head.emptied |> slicerFree else s
  | .empty => if pusherHome s.head && !wasHome then slicerFree s else s
  | _ => s

/-- A step of the pusher encoder (R58). -/
def pusherStep (forward : Bool) (s : State) : State :=
  s.setHead { s.head with pusher := if forward then s.head.pusher + 1 else s.head.pusher - 1 }
    |> pusherMoved (pusherHome s.head)

/-- The stall timer expires (R61). -/
def stallExpires (s : State) : State :=
  match s.head.stallTimer with
  | none => s
  | some _ => s.setHead { s.head with stallTimer := none } |> raiseFault .bladeStall s.head.tag |> finish

/-! ## READ SLICER -/

/-- READ SLICER (R76, R186). -/
def svcReadSlicer (f : Form Unit) : Service :=
  withForm f fun _ => needTier .operator fun s =>
    let h := s.head
    (s, accepted "READ SLICER" [codes (headText h.state), optText (codes ∘ headText) h.pausedFrom, optText decimal h.tag,
      optText decimal h.nextCut, optText decimal ((headLoaf s).bind Loaf.cutsDone), signedText h.target, signedText h.pusher,
      flagText (pusherHome h), flagText h.knife, flagText h.park, codes (bladeText h.phase), decimal h.stamp.toNat,
      optText (fun v : Nat × Nat => decimal v.1) h.previous, optText (fun v : Nat × Nat => decimal v.2) h.previous,
      decimal h.miscuts])

/-! ## The meanings -/

/-- READ_SLICER (R76). -/
def execReadSlicer (f : Form Unit) (s : State) : Result := .next (serve (svcReadSlicer f) s)
/-- PUSHER_ENCODER_STEP (R58). -/
def execPusherEncoderStep (forward : Bool) (s : State) : Result := .next (pusherStep forward s |> finish)
/-- CUT_BEGIN (R65). -/
def execCutBegin (elapsed : Nat) (s : State) : Result := .next (cutBegins elapsed s)
/-- RETURN_BEGIN (R64). -/
def execReturnBegin (elapsed : Nat) (s : State) : Result := .next (returnBegins elapsed s)
/-- PARK_CHANGE: the drive follows the new level (R58, R71). -/
def execParkChange (high : Bool) (s : State) : Result := .next (s.setHead { s.head with park := high })
/-- STALL_TIMER_EXPIRY (R61). -/
def execStallTimerExpiry (s : State) : Result := .next (stallExpires s)

end Sys2Proof.Machine
end

