-- ==== Sys2Proof/Machine/SupervisionRequests.lean ====
section
/-! DEFINITION. The requests on supervision: START, STOP DRAIN, STOP NOW (R140 to R142), SET ACTION, CLEAR FAULTS, SET MASK (R147, R148,
R151), READ STATUS, READ FAULTS (R153) and RESET (R154). -/

namespace Sys2Proof.Machine

/-! ## START and STOP -/

/-- The functions START requires of every part (R140). -/
def lineFunctions : List Func :=
  [.infeedEye, .stopEye, .rejectEye, .exitEye, .infeedHold, .knifeRun, .pusherEnable, .rejectGate]

/-- The functions START requires of a station: none while its in-service flag is clear (R140). -/
def stationFunctions (s : State) (x : Station) : List Func :=
  if stationFitted s.member x && (stationRec s x).inServiceFlag then
    [.bagEye x, .blower x, .scoop x] ++ (if tyerFitted s x then [.tie x] else [])
  else []

/-- STATION_GATE is required on the BL-340 (R140). -/
def gateFunctions : Member → List Func
  | .bl340 => [.stationGate]
  | .bl320 => []

/-- Every function START requires is held by a point (R140). -/
def configured (s : State) : Bool :=
  (lineFunctions ++ stationFunctions s .a ++ stationFunctions s .b ++ gateFunctions s.member).all (isHeld s)

/-- A fault whose action in force is HALT or HOLD is ACTIVE or LATCHED (R140). -/
def startBlocked (s : State) : Bool := allFaults.any fun k => faultStands s k && (faultEntry s k).action != .nothing

/-- The line enters RUNNING from STOPPED (R139): the head resumes, the hold is reviewed, the stations restart, a pending sweep may
start, the admission test is made. -/
def enterRunning (s : State) : State :=
  setLine .running s |> headResumes |> reviewHold |> stationRestarts .a |> stationRestarts .b |> slicerFree |> endStroke
    |> evaluate .noStation

/-- The reply that gives the line state after the request. -/
def lineReply (words : String) (s : State) : State × Owed := (s, accepted words [codes (lineText s.sup.line)])

/-- START, in the order of R140's checks. -/
def svcStart (f : Form Unit) : Service :=
  withForm f fun _ => needTier .operator <| require (fun s => decide (s.sup.line = .stopped)) .state <|
    require configured .notConfigured <| require (fun s => !startBlocked s) .blocked <|
    require recipeUsable .noRecipe <| require (fun s => !s.options.printer || s.shift.clockSet) .noClock <|
    require (fun s => inService s .a || inService s .b) .noStation fun s => lineReply "START" (enterRunning s)

/-- STOP DRAIN is taken in RUNNING (R141). -/
def svcStopDrain (f : Form Unit) : Service :=
  withForm f fun _ => needTier .operator <| require (fun s => decide (s.sup.line = .running)) .state fun s =>
    lineReply "STOP" (enterDraining s |> settleBelt |> evaluate .noStation)

/-- STOP NOW is taken in RUNNING and DRAINING (R141). -/
def svcStopNow (f : Form Unit) : Service :=
  withForm f fun _ => needTier .operator <| require moving .state fun s =>
    lineReply "STOP" (enterStopped true s |> settleBelt |> evaluate .noStation)

/-! ## The fault table -/

/-- SET ACTION: the line does not move (R147). -/
def svcSetAction (f : Form ActionWrite) : Service :=
  withForm f fun w =>
    match w.fault with
    | none => refuse .range
    | some k => require (fun s => faultExists s.member k) .notFitted <|
      match w.action with
      | none => refuse .range
      | some a => require (fun _ => (allowedActions k).contains a) .range <| needTier .engineer fun s =>
        (setFault k { faultEntry s k with action := a } s,
          accepted "SET ACTION" [codes (faultText k), codes (actionText a)])

/-- The LATCHED faults, in the order of the fault table. -/
def latchedFaults (s : State) : List FaultKind := allFaults.filter fun k => decide ((faultEntry s k).state = .latched)

/-- Every LATCHED entry becomes INACTIVE, with its #F (R148). -/
def clearLatched (s : State) : State := (latchedFaults s).foldl (fun t k => faultMoves k .inactive t) s

/-- A station whose fault hold has ended returns to service where its flag is set (R91). -/
def holdEnded (before : State) (x : Station) (s : State) : State :=
  if faultHold before x && !faultHold s x && (stationRec s x).inServiceFlag && stationFitted s.member x then serviceBack x s else s

/-- A HALT fault is ACTIVE or LATCHED (R148). -/
def haltStands (s : State) : Bool := allFaults.any fun k => faultStands s k && decide ((faultEntry s k).action = .halt)

/-- The line leaves HALTED for STOPPED: TREND takes the last sample, a waiting draw is made, the gate decision is taken again
(R80, R86, R136, R148). -/
def leaveHalted (s : State) : State :=
  let t := setLine .stopped s
  trendTakes t.meas.trend.channel t |> tryDraw .a |> tryDraw .b |> route

/-- CLEAR FAULTS's effect (R148): the entries, the stations, a suspension that ends (R116), then the line. -/
def clearFaults (s : State) : State :=
  let t := clearLatched s |> holdEnded s .a |> holdEnded s .b
  let u := if sweepsSuspended s && !sweepsSuspended t then trySweep t else t
  (if u.sup.line = .halted && !haltStands u then leaveHalted u else u) |> evaluate .noStation

/-- CLEAR FAULTS (R148). -/
def svcClearFaults (f : Form Unit) : Service :=
  withForm f fun _ => needTier .operator fun s =>
    let t := clearFaults s
    (t, accepted "CLEAR FAULTS" [decimal (latchedFaults s).length, codes (lineText t.sup.line)])

/-- The name exists on this part (R143, R150). -/
def alertExists (m : Member) : AlertName → Bool
  | .fault k => faultExists m k
  | .warning w => warnExists m w

/-- A mask set or cleared (R151). -/
def setMask (n : AlertName) (masked : Bool) (s : State) : State :=
  match n with
  | .fault k => setFault k { faultEntry s k with mask := masked } s
  | .warning w => setWarning w { warnEntry s w with mask := masked } s

/-- SET MASK (R151). -/
def svcSetMask (f : Form MaskWrite) : Service :=
  withForm f fun w =>
    match w.name with
    | none => refuse .range
    | some n => require (fun _ => within 0 1 w.masked) .range <| require (fun s => alertExists s.member n) .notFitted <|
      needTier .setter fun s =>
        (setMask n (decide (w.masked = 1)) s, accepted "SET MASK" [codes (alertText n), decimal w.masked])

/-! ## Reading -/

/-- The first-fault line of READ STATUS (R149, R186). -/
def firstFaultFields (s : State) : List Text :=
  match s.sup.firstFault with
  | none => [absentText]
  | some r => [codes (faultText r.kind), decimal r.stamp.clock, decimal r.stamp.rev.toNat, optText decimal r.loaf,
      codes (lineText r.line)]

/-- The reply of READ STATUS, with the indications as they stand before the clearing (R153, R186). The faults stand in the row
order of R146's table and the warnings in that of R150's (log entry 52). -/
def statusReply (s : State) : Owed :=
  multiLine "READ STATUS" [codes (lineText s.sup.line), codes (resetText s.sup.resetCause)]
    (firstFaultFields s ::
      (memberFaults s.member).map (fun k => [codes (faultText k), codes (faultStateText (faultEntry s k).state)]) ++
      (memberWarnings s.member).map fun w =>
        [codes (warnText w), flagText (warnEntry s w).present, flagText (warnEntry s w).indication])

/-- Every warning's indication is cleared (R150, R153). -/
def clearIndications (s : State) : State :=
  s.setSup { s.sup with warnings := s.sup.warnings.map fun e => { e with indication := false } }

/-- READ STATUS (R153). -/
def svcReadStatus (f : Form Unit) : Service :=
  withForm f fun _ => needTier .operator fun s => (clearIndications s, statusReply s)

/-- The line of a fault in READ FAULTS (R153, R186). -/
def faultFields (s : State) (k : FaultKind) : List Text :=
  let e := faultEntry s k
  [codes (faultText k), codes (faultStateText e.state), codes (actionText e.action),
    listText ((allowedActions k).map (codes ∘ actionText)), decimal e.count,
    optText (fun v : FaultStamp => decimal v.clock) e.lastStamp, optText (fun v : FaultStamp => decimal v.rev.toNat) e.lastStamp,
    optText decimal e.lastLoaf, flagText e.mask]

/-- READ FAULTS (R153), the faults and the warnings in the order of READ STATUS (log entry 52). -/
def svcReadFaults (f : Form Unit) : Service :=
  withForm f fun _ => needTier .operator fun s =>
    (s, multiLine "READ FAULTS" []
      ((memberFaults s.member).map (faultFields s) ++
        (memberWarnings s.member).map fun w => [codes (warnText w), flagText (warnEntry s w).mask]))

/-- RESET: the reply is owed, and the reset takes place once it has been sent in full (R154). -/
def svcReset (f : Form Unit) : Service :=
  withForm f fun _ => needTier .engineer fun s => (s, { accepted "RESET" [] with isReset := true })

/-! ## The meanings -/

/-- START (R140). -/
def execStart (f : Form Unit) (s : State) : Result := .next (serve (svcStart f) s)
/-- STOP_DRAIN (R141). -/
def execStopDrain (f : Form Unit) (s : State) : Result := .next (serve (svcStopDrain f) s)
/-- STOP_NOW (R141). -/
def execStopNow (f : Form Unit) (s : State) : Result := .next (serve (svcStopNow f) s)
/-- SET_ACTION (R147). -/
def execSetAction (f : Form ActionWrite) (s : State) : Result := .next (serve (svcSetAction f) s)
/-- CLEAR_FAULTS (R148). -/
def execClearFaults (f : Form Unit) (s : State) : Result := .next (serve (svcClearFaults f) s)
/-- SET_MASK (R151). -/
def execSetMask (f : Form MaskWrite) (s : State) : Result := .next (serve (svcSetMask f) s)
/-- READ_STATUS (R153). -/
def execReadStatus (f : Form Unit) (s : State) : Result := .next (serve (svcReadStatus f) s)
/-- READ_FAULTS (R153). -/
def execReadFaults (f : Form Unit) (s : State) : Result := .next (serve (svcReadFaults f) s)
/-- RESET (R154). -/
def execReset (f : Form Unit) (s : State) : Result := .next (serve (svcReset f) s)

end Sys2Proof.Machine
end

