-- ==== Sys2Proof/Machine/LinkEvents.lean ====
section
/-! DEFINITION. The events of the link (R178 to R181): a character, a completed line, the silence timer, a line sent; and the index of the
commands (12.6), by which a line's first words choose its service. -/

namespace Sys2Proof.Machine

/-! ## The command index -/

/-- A command of the index: its words, and the service that its operand words choose. -/
abbrev Entry := List Text × (List Text → Service)

/-- STOP: DRAIN or NOW, any other word refused with RANGE (R141). -/
def svcStop (f : Form (Option StopMode)) : Service :=
  withForm f fun w =>
    match w with
    | none => refuse .range
    | some .drain => svcStopDrain (some ())
    | some .now => svcStopNow (some ())

/-- The track, the recipes and the planner. -/
def trackCommands : List Entry :=
  [([codes "SET", codes "INFEED"], fun ws => svcSetInfeed (oneNumber ws)),
    ([codes "SET", codes "GEOMETRY"], fun ws => svcSetGeometry (geometryOperands ws)),
    ([codes "REJECT"], fun ws => svcReject (oneNumber ws)),
    ([codes "PURGE"], fun ws => svcPurge (noOperand ws)),
    ([codes "READ", codes "TRACK"], fun ws => svcReadTrack (noOperand ws)),
    ([codes "WRITE", codes "RECIPE"], fun ws => svcWriteRecipe (recipeOperands ws)),
    ([codes "ERASE"], fun ws => svcErase (oneNumber ws)),
    ([codes "READ", codes "RECIPE"], fun ws => svcReadRecipe (oneNumber ws)),
    ([codes "RUN"], fun ws => svcRun (oneNumber ws)),
    ([codes "LOCK"], fun ws => svcLock (oneNumber ws)),
    ([codes "UNLOCK"], fun ws => svcUnlock (oneNumber ws)),
    ([codes "BYPASS", codes "ON"], fun ws => svcBypassOn (noOperand ws)),
    ([codes "BYPASS", codes "OFF"], fun ws => svcBypassOff (noOperand ws)),
    ([codes "LOCKDOWN"], fun ws => svcLockdown (noOperand ws)),
    ([codes "READ", codes "ACCESS"], fun ws => svcReadAccess (noOperand ws)),
    ([codes "TRY", codes "PLAN"], fun ws => svcTryPlan (planOperands ws))]

/-- The slicer, the stations, the tyers, crumb control and measurement. -/
def machineCommands : List Entry :=
  [([codes "READ", codes "SLICER"], fun ws => svcReadSlicer (noOperand ws)),
    ([codes "LOAD", codes "BAGS"], fun ws => svcLoadBags (loadOperands ws)),
    ([codes "SET", codes "DISTRIBUTION"], fun ws => svcSetDistribution (policyOperand ws)),
    ([codes "SET", codes "STATION"], fun ws => svcSetStation (stationOperands ws)),
    ([codes "SET", codes "BAGGING"], fun ws => svcSetBagging (baggingOperands ws)),
    ([codes "READ", codes "STATIONS"], fun ws => svcReadStations (noOperand ws)),
    ([codes "LOAD", codes "CLIPS"], fun ws => svcLoadClips (loadOperands ws)),
    ([codes "SET", codes "TYER"], fun ws => svcSetTyer (tyerOperands ws)),
    ([codes "READ", codes "TYERS"], fun ws => svcReadTyers (noOperand ws)),
    ([codes "CLEAN", codes "NOW"], fun ws => svcCleanNow (noOperand ws)),
    ([codes "SET", codes "CRUMB"], fun ws => svcSetCrumb (crumbOperands ws)),
    ([codes "READ", codes "CRUMB"], fun ws => svcReadCrumb (noOperand ws)),
    ([codes "SET", codes "LIMITS"], fun ws => svcSetLimits (limitOperands ws)),
    ([codes "SET", codes "SAMPLING"], fun ws => svcSetSampling (samplingOperands ws)),
    ([codes "SET", codes "TREND"], fun ws => svcSetTrend (trendOperands ws)),
    ([codes "READ", codes "CHANNELS"], fun ws => svcReadChannels (noOperand ws))]

/-- Supervision, the shift clock and totals, the points, the link. -/
def lineCommands : List Entry :=
  [([codes "START"], fun ws => svcStart (noOperand ws)),
    ([codes "STOP"], fun ws => svcStop (stopOperand ws)),
    ([codes "SET", codes "ACTION"], fun ws => svcSetAction (actionOperands ws)),
    ([codes "CLEAR", codes "FAULTS"], fun ws => svcClearFaults (noOperand ws)),
    ([codes "SET", codes "MASK"], fun ws => svcSetMask (maskOperands ws)),
    ([codes "READ", codes "STATUS"], fun ws => svcReadStatus (noOperand ws)),
    ([codes "READ", codes "FAULTS"], fun ws => svcReadFaults (noOperand ws)),
    ([codes "RESET"], fun ws => svcReset (noOperand ws)),
    ([codes "SET", codes "CLOCK"], fun ws => svcSetClock (momentOperands ws)),
    ([codes "READ", codes "CLOCK"], fun ws => svcReadClock (noOperand ws)),
    ([codes "SET", codes "SHIFTS"], fun ws => svcSetShifts (shiftOperands ws)),
    ([codes "CLOSE", codes "SHIFT"], fun ws => svcCloseShift (noOperand ws)),
    ([codes "READ", codes "TOTALS"], fun ws => svcReadTotals (noOperand ws)),
    ([codes "READ", codes "HISTORY"], fun ws => svcReadHistory (oneNumber ws)),
    ([codes "SET", codes "POINT"], fun ws => svcSetPoint (pointOperands ws)),
    ([codes "TAKE", codes "EDGES"], fun ws => svcTakeEdges (noOperand ws)),
    ([codes "WRITE", codes "OUT"], fun ws => svcWriteOut (outOperands ws)),
    ([codes "READ", codes "POINTS"], fun ws => svcReadPoints (noOperand ws)),
    ([codes "SET", codes "REPORTS"], fun ws => svcSetReports (kindOperand ws)),
    ([codes "IDENT"], fun ws => svcIdent (noOperand ws))]

/-- The index of all commands (12.6). -/
def commandIndex : List Entry := trackCommands ++ machineCommands ++ lineCommands

/-- The service of a command of the index by its words. -/
def lookUp (key : List Text) : Option (List Text → Service) := (commandIndex.find? fun e => e.1 == key).map Prod.snd

/-- The first one or two words must form a known command; the two-word form is tried first (R179). -/
def serviceOf (words : List Text) : Service :=
  match lookUp ((words.take 2).map capitals) with
  | some k => k (words.drop 2)
  | none =>
    match lookUp ((words.take 1).map capitals) with
    | some k => k (words.drop 1)
    | none => refuse .unknown

/-! ## Reception -/

/-- The buffer is emptied and the silence timer stopped (R179). -/
def emptyBuffer (s : State) : State := s.setLink { s.link with buffer := [], silence := false }

/-- A line whose frame is broken: refused with FRAME, or answered later with FRAME (R179, R180). -/
def frameBroken (s : State) : State :=
  if linkFree s.link then transmit (s.setLink { s.link with owed := some (refusal .frame) })
  else s.setLink (answerLater .frame s.link)

/-- A CR completes the line in the buffer; with nothing before it, it is ignored (R179). -/
def completeLine (s : State) : State :=
  if s.link.buffer.isEmpty then s
  else
    match frameText s.link.buffer with
    | none => frameBroken (emptyBuffer s)
    | some t => serve (serviceOf (splitAt 0x20 t)) (emptyBuffer s)

/-- A character other than CR and LF is stored, up to the 124th, and the silence timer is started again (R179). -/
def storeCharacter (c : Byte) (s : State) : State :=
  s.setLink { s.link with
    buffer := if s.link.buffer.length < Config.bufferCapacity then s.link.buffer ++ [c] else s.link.buffer, silence := true }

/-- A character arrives on RX (R179); a line feed is ignored wherever it stands. -/
def characterArrives (c : Byte) (s : State) : State :=
  if c = 0x0A then s else if c = 0x0D then completeLine s else storeCharacter c s

/-- The silence timer expires: the partial line is discarded (R179). -/
def silenceEnds (s : State) : State := if s.link.silence then emptyBuffer s else s

/-! ## Sending -/

/-- The link once the line of a kind has left (R180): the last line of a reply ends it, the pending answer is cleared. -/
def Link.sent (k : TxKind) (l : Link) : Link :=
  match k with
  | .reply =>
    match l.owed with
    | some ⟨[], _⟩ => { l with sending := none, owed := none }
    | _ => { l with sending := none }
  | .pendingAnswer => { l with sending := none, pendingAnswer := none }
  | .report => { l with sending := none }

/-- The line that ends is the last of RESET's reply (R154). -/
def resetReplySent (l : Link) : Bool :=
  match l.sending, l.owed with
  | some ⟨.reply, _⟩, some ⟨[], true⟩ => true
  | _, _ => false

/-- The transmitter finishes a line and starts the next (R181), or the RESET message takes place (R154). -/
def lineLeaves (s : State) : State :=
  match s.link.sending with
  | none => s
  | some t => if resetReplySent s.link then messageReset s else transmit (s.setLink (s.link.sent t.kind))

/-! ## The meanings -/

/-- REQUEST_LINE (R179). -/
def execRequestLine (s : State) : Result := .next (completeLine s)
/-- SILENCE_TIMEOUT (R179). -/
def execSilenceTimeout (s : State) : Result := .next (silenceEnds s)
/-- LINE_SENT (R181). -/
def execLineSent (s : State) : Result := .next (lineLeaves s)
/-- CHARACTER_RECEIVED (R179). -/
def execCharacterReceived (c : Byte) (s : State) : Result := .next (characterArrives c s)

end Sys2Proof.Machine
end

