-- ==== Sys2Proof/Machine/Dispatch.lean ====
section
/-! DEFINITION. One arm per command: the meaning of every row of spec/opcode_table.json. -/

namespace Sys2Proof.Machine

def exec (i : Instr) (s : State) : Host.Outcome State Fault Refusal :=
  match i with
  | .setInfeed limit => Sys2Proof.Machine.execSetInfeed limit s
  | .setGeometry g => Sys2Proof.Machine.execSetGeometry g s
  | .reject tag => Sys2Proof.Machine.execReject tag s
  | .purge form => Sys2Proof.Machine.execPurge form s
  | .readTrack form => Sys2Proof.Machine.execReadTrack form s
  | .writeRecipe w => Sys2Proof.Machine.execWriteRecipe w s
  | .erase slot => Sys2Proof.Machine.execErase slot s
  | .readRecipe slot => Sys2Proof.Machine.execReadRecipe slot s
  | .run slot => Sys2Proof.Machine.execRun slot s
  | .lock slot => Sys2Proof.Machine.execLock slot s
  | .unlock slot => Sys2Proof.Machine.execUnlock slot s
  | .bypassOn form => Sys2Proof.Machine.execBypassOn form s
  | .bypassOff form => Sys2Proof.Machine.execBypassOff form s
  | .lockdown form => Sys2Proof.Machine.execLockdown form s
  | .readAccess form => Sys2Proof.Machine.execReadAccess form s
  | .tryPlan w => Sys2Proof.Machine.execTryPlan w s
  | .readSlicer form => Sys2Proof.Machine.execReadSlicer form s
  | .loadBags w => Sys2Proof.Machine.execLoadBags w s
  | .setDistribution policy => Sys2Proof.Machine.execSetDistribution policy s
  | .setStation w => Sys2Proof.Machine.execSetStation w s
  | .setBagging w => Sys2Proof.Machine.execSetBagging w s
  | .readStations form => Sys2Proof.Machine.execReadStations form s
  | .loadClips w => Sys2Proof.Machine.execLoadClips w s
  | .setTyer w => Sys2Proof.Machine.execSetTyer w s
  | .readTyers form => Sys2Proof.Machine.execReadTyers form s
  | .cleanNow form => Sys2Proof.Machine.execCleanNow form s
  | .setCrumb w => Sys2Proof.Machine.execSetCrumb w s
  | .readCrumb form => Sys2Proof.Machine.execReadCrumb form s
  | .setLimits w => Sys2Proof.Machine.execSetLimits w s
  | .setSampling w => Sys2Proof.Machine.execSetSampling w s
  | .setTrend w => Sys2Proof.Machine.execSetTrend w s
  | .readChannels form => Sys2Proof.Machine.execReadChannels form s
  | .start form => Sys2Proof.Machine.execStart form s
  | .stopDrain form => Sys2Proof.Machine.execStopDrain form s
  | .stopNow form => Sys2Proof.Machine.execStopNow form s
  | .setAction w => Sys2Proof.Machine.execSetAction w s
  | .clearFaults form => Sys2Proof.Machine.execClearFaults form s
  | .setMask w => Sys2Proof.Machine.execSetMask w s
  | .readStatus form => Sys2Proof.Machine.execReadStatus form s
  | .readFaults form => Sys2Proof.Machine.execReadFaults form s
  | .reset form => Sys2Proof.Machine.execReset form s
  | .setClock m => Sys2Proof.Machine.execSetClock m s
  | .readClock form => Sys2Proof.Machine.execReadClock form s
  | .setShifts pairs => Sys2Proof.Machine.execSetShifts pairs s
  | .closeShift form => Sys2Proof.Machine.execCloseShift form s
  | .readTotals form => Sys2Proof.Machine.execReadTotals form s
  | .readHistory place => Sys2Proof.Machine.execReadHistory place s
  | .setPoint w => Sys2Proof.Machine.execSetPoint w s
  | .takeEdges form => Sys2Proof.Machine.execTakeEdges form s
  | .writeOut w => Sys2Proof.Machine.execWriteOut w s
  | .readPoints form => Sys2Proof.Machine.execReadPoints form s
  | .setReports kinds => Sys2Proof.Machine.execSetReports kinds s
  | .ident form => Sys2Proof.Machine.execIdent form s
  | .powerOn straps => Sys2Proof.Machine.execPowerOn straps s
  | .resetLine straps => Sys2Proof.Machine.execResetLine straps s
  | .infeedEyeLeadingEdge => Sys2Proof.Machine.execInfeedEyeLeadingEdge s
  | .infeedEyeTrailingEdge => Sys2Proof.Machine.execInfeedEyeTrailingEdge s
  | .stopEyeLeadingEdge => Sys2Proof.Machine.execStopEyeLeadingEdge s
  | .exitEyeTrailingEdge => Sys2Proof.Machine.execExitEyeTrailingEdge s
  | .rejectEyeTrailingEdge => Sys2Proof.Machine.execRejectEyeTrailingEdge s
  | .exitRejectLeadingEdge eye => Sys2Proof.Machine.execExitRejectLeadingEdge eye s
  | .beltEncoderStep forward => Sys2Proof.Machine.execBeltEncoderStep forward s
  | .lengthCheckExpiry tag => Sys2Proof.Machine.execLengthCheckExpiry tag s
  | .stopCheckExpiry tag => Sys2Proof.Machine.execStopCheckExpiry tag s
  | .rejectCheckExpiry tag => Sys2Proof.Machine.execRejectCheckExpiry tag s
  | .exitCheckExpiry tag => Sys2Proof.Machine.execExitCheckExpiry tag s
  | .pusherEncoderStep forward => Sys2Proof.Machine.execPusherEncoderStep forward s
  | .cutBegin elapsed => Sys2Proof.Machine.execCutBegin elapsed s
  | .returnBegin elapsed => Sys2Proof.Machine.execReturnBegin elapsed s
  | .parkChange high => Sys2Proof.Machine.execParkChange high s
  | .stallTimerExpiry => Sys2Proof.Machine.execStallTimerExpiry s
  | .bagEyeLeadingEdge x => Sys2Proof.Machine.execBagEyeLeadingEdge x s
  | .bagEyeTrailingEdge x => Sys2Proof.Machine.execBagEyeTrailingEdge x s
  | .bagOpenTimeout x => Sys2Proof.Machine.execBagOpenTimeout x s
  | .releaseTimeout x => Sys2Proof.Machine.execReleaseTimeout x s
  | .travelCountExpiry x => Sys2Proof.Machine.execTravelCountExpiry x s
  | .scoopEnd x => Sys2Proof.Machine.execScoopEnd x s
  | .strikeMidpoint x => Sys2Proof.Machine.execStrikeMidpoint x s
  | .strikeEnd x => Sys2Proof.Machine.execStrikeEnd x s
  | .riseTimerExpiry => Sys2Proof.Machine.execRiseTimerExpiry s
  | .sweepTimerExpiry => Sys2Proof.Machine.execSweepTimerExpiry s
  | .conversionComplete value => Sys2Proof.Machine.execConversionComplete value s
  | .centreConversionDue => Sys2Proof.Machine.execCentreConversionDue s
  | .edgeDelayExpiry => Sys2Proof.Machine.execEdgeDelayExpiry s
  | .idleTimerExpiry => Sys2Proof.Machine.execIdleTimerExpiry s
  | .beltWatchExpiry => Sys2Proof.Machine.execBeltWatchExpiry s
  | .guardDoorChange high => Sys2Proof.Machine.execGuardDoorChange high s
  | .trayFullChange high => Sys2Proof.Machine.execTrayFullChange high s
  | .keyInputChange key on => Sys2Proof.Machine.execKeyInputChange key on s
  | .plainInputEdge point signal => Sys2Proof.Machine.execPlainInputEdge point signal s
  | .clockTick => Sys2Proof.Machine.execClockTick s
  | .requestLine => Sys2Proof.Machine.execRequestLine s
  | .silenceTimeout => Sys2Proof.Machine.execSilenceTimeout s
  | .lineSent => Sys2Proof.Machine.execLineSent s
  | .characterReceived c => Sys2Proof.Machine.execCharacterReceived c s
  | .trendPeriodStart => Sys2Proof.Machine.execTrendPeriodStart s

end Sys2Proof.Machine
end

