-- ==== Sys2Proof/Machine/Step.lean ====
section
/-! DEFINITION. One step of the block: the command at the front of the queue, on the state with the queue's rest (log entry 5). -/

namespace Sys2Proof.Machine

/-- Take the command at the front of the queue; on an empty queue the block idles. -/
def step (s : State) : Host.Outcome State Fault Refusal :=
  match s.pending with
  | [] => .next s
  | c :: rest => exec c (s.setPending rest)

/-- The state with the command that a word spells put at the front of its queue; unchanged where the word spells none, and no word
spells one (log entry 6). -/
def State.withFetchWord (s : State) (nbits w : Nat) : State :=
  match decodeTableWord nbits w with
  | none => s
  | some c => s.setPending (c :: s.pending)

end Sys2Proof.Machine
end

