-- ==== Sys2Proof/Safety.lean ====
section
/-! DEFINITION. The properties of states that the statements speak about: what holds of the line in every state a run can reach, and the
words in which the statements say what a command answers and what it leaves alone. -/

namespace Sys2Proof.Safety

open Sys2Proof.Machine

/-! ## Words of the statements -/

/-- The reply is owed from this event, and the transmitter starts on it where it is idle (R180, R181). -/
def answered (o : Owed) (s : State) : State := transmit (s.setLink { s.link with owed := some o })

/-- The link takes a request now: no reply is owed, no pending answer is held (R180). -/
abbrev Free (s : State) : Prop := s.link.owed = none ∧ s.link.pendingAnswer = none

/-- The function is held by a point (R170). -/
abbrev Held (s : State) (f : Func) : Prop := isHeld s f = true

/-- The state is `u` but for the warning flags and the link, whose buffer, enables and pending answer are those of `u`: an event's
warnings, reports and the line that the transmitter begins are left open. -/
structure Noticed (u t : State) : Prop where
  rest : t = { u with sup := { u.sup with warnings := t.sup.warnings }, link := t.link }
  buffer : t.link.buffer = u.link.buffer
  enables : t.link.enables = u.link.enables
  answer : t.link.pendingAnswer = u.link.pendingAnswer

/-- The transmitter is busy, no report waits and every kind is enabled: what an event reports is found in the queue after it (R181 to
R183). -/
structure Listening (s : State) : Prop where
  busy : s.link.sending ≠ none
  empty : s.link.queue = []
  every : s.link.enables = ⟨true, true, true, true, true, true⟩

/-- A station that a halt holds: it has a bag or a loaf, or draws one (R94). -/
def holdsAtHalt : StationState → Bool
  | .outOfService => false
  | .empty => false
  | .opening => true
  | .ready => true
  | .filling => true
  | .tying => true
  | .releasing => true

/-- A context that a halt interrupts: it holds a loaf that has not left and is not yet interrupted (R75). -/
def interruptedByHalt : HeadState → Bool
  | .empty => false
  | .homing => false
  | .interrupted => false
  | .entering => true
  | .advancing => true
  | .cutting => true
  | .ejecting => true
  | .passing => true
  | .paused => true

/-- The line has entered HALTED at an event that changed nothing else of the head, the stations, the tyers and crumb control (R139): the hold is
asserted (R8) and the halt counted (R163); KNIFE_RUN is released, the loaf in the slicer is interrupted and marked unless it carries a mark,
a context on its way home is empty (R75); a station with a bag or a loaf is held with its outputs off, a tying stage is cut short (R94,
R103); a sweep is aborted and counted, its pending and the loads kept (R120). -/
structure HaltedFrom (s t : State) : Prop where
  line : t.sup.line = .halted
  hold : t.track.infeedHold = true
  halts : t.shift.openRecord.halts = min (s.shift.openRecord.halts + 1) 4294967295
  knife : t.head.knife = false
  interrupted : interruptedByHalt s.head.state = true →
    t.head.state = .interrupted ∧ t.head.tag = s.head.tag ∧ t.head.nextCut = s.head.nextCut ∧ t.head.target = s.head.target
  marked : interruptedByHalt s.head.state = true → ∀ r ∈ headLoaf s, (headLoaf t).map (fun q => (q.mark, q.cutsDone)) =
    some (r.mark.or (some .interrupted), r.cutsDone)
  homed : s.head.state = .homing → t.head.state = .empty
  stands : s.head.state = .empty ∨ s.head.state = .interrupted → t.head.state = s.head.state
  pusher : t.head.pusher = s.head.pusher
  stations : ∀ x, stationRec t x = if holdsAtHalt (stationRec s x).state then
    { stationRec s x with held := true, bagTimer := none, scoopTimer := none, releaseTimer := none } else stationRec s x
  tyers : ∀ x, tyerOf t x = if (stationRec s x).state = .tying then { tyerOf s x with stage := none, codeHeld := none } else tyerOf s x
  sweep : t.crumb.sweep = none
  crumb : t.crumb.pending = s.crumb.pending ∧ t.crumb.bladeLoad = s.crumb.bladeLoad ∧ t.crumb.trayLoad = s.crumb.trayLoad ∧
    t.crumb.lastAdmitted = s.crumb.lastAdmitted ∧ t.crumb.weakCount = s.crumb.weakCount
  aborted : t.shift.openRecord.sweepsAborted = if s.crumb.sweep.isSome then min (s.shift.openRecord.sweepsAborted + 1) 4294967295
    else s.shift.openRecord.sweepsAborted

/-- BELT_STALL does not stand ACTIVE. -/
abbrev BeltRuns (s : State) : Prop := (faultEntry s .beltStall).state ≠ .active

/-- A fault's action has been applied to the line, whose other reactions are left open (R146): HALT makes the line HALTED from any state, HOLD
makes a RUNNING line DRAINING, or STOPPED over an empty track (R142), and beside that the line stays. The #L waits in the queue of a busy
transmitter (R152). -/
structure ActedOnLine (a : Action) (s t : State) : Prop where
  halts : a = .halt → t.sup.line = .halted
  drains : a = .hold → s.sup.line = .running → t.sup.line = (if s.track.loaves = [] then .stopped else .draining) ∧ t.track.infeedHold = true
  stays : a = .nothing ∨ (a = .hold ∧ s.sup.line ≠ .running) → t.sup.line = s.sup.line
  told : Listening s → t.sup.line ≠ s.sup.line → Report.line t.sup.line ∈ t.link.queue

/-- A sweep has ended with a result, up to the admission test that follows; its reports wait in the queue of a busy transmitter
(R119). SUCCESS empties the tray, makes the last-admitted slot absent and clears the pending sweep. WEAK leaves the lesser of the load and
T div 2, keeps a CHANGEOVER pending alone and that only while sweeps are not suspended, and the second in a row raises VACUUM_FAIL, whose
action moves the line (R146); a kept pending starts its retry at once where the slicer is empty, the pusher home and the line not HALTED (R117). -/
structure SweepEnded (result : SweepResult) (s t : State) : Prop where
  success : result = .success →
    t.crumb = { s.crumb with sweep := none, pending := none, trayLoad := 0, lastAdmitted := none, weakCount := 0 } ∧
    t.shift.openRecord = { s.shift.openRecord with sweepsSuccess := min (s.shift.openRecord.sweepsSuccess + 1) 4294967295 } ∧
    t.sup.faults = s.sup.faults ∧ t.sup.line = s.sup.line
  weak : result = .weak →
    t.crumb = { s.crumb with
      sweep := t.crumb.sweep, airKnife := t.crumb.airKnife
      trayLoad := min s.crumb.trayLoad (s.crumb.settings.trayThreshold / 2)
      weakCount := if s.crumb.weakCount = 0 then 1 else 0
      pending := if s.crumb.pending = some .changeover ∧ sweepsSuspended t = false then some .changeover else none } ∧
    t.shift.openRecord.sweepsWeak = min (s.shift.openRecord.sweepsWeak + 1) 4294967295
  first : result = .weak → s.crumb.weakCount = 0 → t.sup.faults = s.sup.faults ∧ t.sup.line = s.sup.line
  second : result = .weak → s.crumb.weakCount ≠ 0 →
    (faultEntry t .vacuumFail).state = .latched ∧ (faultEntry t .vacuumFail).lastLoaf = none ∧
    (faultEntry t .vacuumFail).count = min ((faultEntry s .vacuumFail).count + 1) 255
  acted : result = .weak → s.crumb.weakCount ≠ 0 → BeltRuns s → ActedOnLine (faultEntry s .vacuumFail).action s t
  retry : t.crumb.pending = some .changeover → s.head.state = .empty → s.head.pusher.natAbs ≤ 2 →
    (∀ r ∈ s.track.loaves, r.zone ≠ .slicer) → t.sup.line ≠ .halted →
    t.crumb.sweep = some ⟨s.crumb.settings.sweepTime, s.crumb.settings.pressure, false, true, true, none⟩
  rests : t.crumb.pending = none → t.crumb.sweep = none
  warning : (warnEntry t .sweepWeak).present = decide (result = .weak)
  told : Listening s → ∀ reason ∈ s.crumb.pending, Report.sweep reason result t.crumb.trayLoad ∈ t.link.queue ∧
    (result = .weak → s.crumb.weakCount ≠ 0 →
      Report.fault .vacuumFail .latched (faultEntry t .vacuumFail).count ∈ t.link.queue) ∧
    ((warnEntry s .sweepWeak).present ≠ decide (result = .weak) → Report.warning .sweepWeak (decide (result = .weak)) ∈ t.link.queue)

/-- The counts that the balance of R162 speaks about. -/
structure LoafCounts where
  carriedIn : Nat
  loavesIn : Nat
  bagged : Nat
  rejected : RejectCounts
  lost : Nat
deriving DecidableEq, Repr

/-- The loaf counts of a shift record. -/
def loafCounts (r : ShiftRecord) : LoafCounts := ⟨r.carriedIn, r.loavesIn, r.bagged, r.rejected, r.lost⟩

/-- What a command leaves alone while the line, the head and the stations react to it: the straps, the recipe table, the limit and the
geometry, the clock, the schedule and the history, the counts of loaves, the report enables. -/
structure Aside (s t : State) : Prop where
  options : t.options = s.options
  recipes : t.recipes = s.recipes
  limit : t.track.limit = s.track.limit
  geometry : t.track.geometry = s.track.geometry
  clock : t.shift.clock = s.shift.clock
  clockSet : t.shift.clockSet = s.shift.clockSet
  schedule : t.shift.schedule = s.shift.schedule
  history : t.shift.history = s.shift.history
  counts : loafCounts t.shift.openRecord = loafCounts s.shift.openRecord
  enables : t.link.enables = s.link.enables

/-! ### Edges -/

/-- The command that is a change of an input function to a level: the row of the table that the owner of the function takes (R171). The trailing
edge of STOP_EYE has no row, since no owner acts on it. -/
def edgeCommand (f : Func) (high : Bool) : Option Instr :=
  match f, high with
  | .infeedEye, true => some .infeedEyeLeadingEdge
  | .infeedEye, false => some .infeedEyeTrailingEdge
  | .stopEye, true => some .stopEyeLeadingEdge
  | .rejectEye, true => some (.exitRejectLeadingEdge .reject)
  | .rejectEye, false => some .rejectEyeTrailingEdge
  | .exitEye, true => some (.exitRejectLeadingEdge .exit)
  | .exitEye, false => some .exitEyeTrailingEdge
  | .bagEye x, true => some (.bagEyeLeadingEdge x)
  | .bagEye x, false => some (.bagEyeTrailingEdge x)
  | .key k, on => some (.keyInputChange k on)
  | .guardDoor, closed => some (.guardDoorChange closed)
  | .trayFull, full => some (.trayFullChange full)
  | _, _ => none

/-! ### Admission -/

/-- Sweeps are suspended: TRAY_FULL or VACUUM_FAIL is ACTIVE or LATCHED (R116). -/
abbrev Suspended (s : State) : Prop := (faultEntry s .trayFull).state ≠ .inactive ∨ (faultEntry s .vacuumFail).state ≠ .inactive

/-- The head may admit the record that the track presents, crumb control's answer apart: the line moves, the context is EMPTY, the pusher is
home, STOP_EYE is covered, and the record has its length (R62). -/
structure Presented (r : Loaf) (s : State) : Prop where
  moves : s.sup.line = .running ∨ s.sup.line = .draining
  empty : s.head.state = .empty
  home : s.head.pusher.natAbs ≤ 2
  covered : inputHigh s .stopEye = true
  measured : r.measured ≠ none

/-- The changeover test holds: an unmarked record of a recipe with clear-before 1, with a last-admitted slot that differs (R114). -/
abbrev ChangeoverDue (r : Loaf) (s : State) : Prop :=
  r.mark = none ∧ ∃ sn ∈ r.snapshot, sn.figures.clearBefore = 1 ∧ ∃ last ∈ s.crumb.lastAdmitted, last ≠ sn.slot

/-- The record is admitted with a mark or none (R63): an unmarked one to be cut, with cuts done 0, giving the last-admitted slot (R115); a
marked one to pass through with the blade released and the eject target as its target. -/
structure AdmittedAs (mark : Option Mark) (r : Loaf) (s t : State) : Prop where
  aside : Aside s t
  tag : t.head.tag = some r.tag
  pusher : t.head.pusher = 0
  record : ∃ q ∈ t.track.loaves, q.tag = r.tag ∧ q.zone = .slicer ∧ q.mark = mark ∧ (mark = none → q.cutsDone = some 0)
  cut : mark = none → t.head.state = .entering ∧ t.head.nextCut = some 1 ∧
    t.crumb.lastAdmitted = (r.snapshot.map Snapshot.slot).or s.crumb.lastAdmitted
  passed : mark ≠ none → t.head.state = .passing ∧ t.head.knife = false ∧ t.head.target = ejectTargetOf s r ∧
    t.crumb.lastAdmitted = s.crumb.lastAdmitted

/-- The admission test has been made on the oldest INFEED record (R62, R114). With a condition of R62 missing, with a sweep running, or one
pending while sweeps are not suspended, the record waits. A changeover makes CHANGEOVER pending, and its sweep starts at once over an empty
slicer (R113, R117); while sweeps are suspended the record is taken with the mark NO_CLEAN (R116). In every other case it is taken as it is. -/
structure AdmissionTested (r : Loaf) (s t : State) : Prop where
  waits : ¬Presented r s ∨ s.crumb.sweep ≠ none ∨ (s.crumb.pending ≠ none ∧ ¬Suspended s) → Noticed s t
  sweeps : Presented r s → s.crumb.sweep = none → s.crumb.pending = none → ChangeoverDue r s → ¬Suspended s →
    Noticed { s with crumb := { s.crumb with
      pending := some .changeover
      sweep := if ∀ q ∈ s.track.loaves, q.zone ≠ .slicer then
        some ⟨s.crumb.settings.sweepTime, s.crumb.settings.pressure, false, true, true, none⟩ else none } } t
  noClean : Presented r s → s.crumb.sweep = none → ChangeoverDue r s → Suspended s → AdmittedAs (some .noClean) r s t
  taken : Presented r s → s.crumb.sweep = none → s.crumb.pending = none ∨ Suspended s → ¬ChangeoverDue r s → AdmittedAs r.mark r s t

/-- A sweep has ended with a result, and crumb control's hold with it (R114, R119): `u` stands between what the end does and the admission
test that follows on the oldest INFEED record. -/
structure SweepEndedTested (result : SweepResult) (r : Loaf) (s u t : State) : Prop where
  ended : SweepEnded result s u
  aside : Aside s u
  loaves : u.track.loaves = s.track.loaves
  empty : u.head.state = s.head.state
  pusher : u.head.pusher = s.head.pusher
  points : u.points = s.points
  tested : AdmissionTested r u t

/-! ### The release of a bag -/

/-- The record after its release: in OUTFEED, its tie result and clip code written, its EXIT check armed (R14, R88, R89). -/
def releasedLoaf (g : Geometry) (tie : TieResult) (code : Option ClipCode) (r : Loaf) : Loaf :=
  { r with zone := .outfeed, tie := some tie, clipCode := code, check := some ⟨.exit, (g.dExit + 200) * g.k / 100⟩ }

/-- The station has released its loaf at the entry into RELEASING, the bag eye being clear (R89): the record is in OUTFEED and no other is
changed, the station has no loaf and no wait runs, and it opens its next bag, or is EMPTY, or goes out of service (R80, R90). -/
structure ReleasedAtOnce (x : Station) (r : Loaf) (tie : TieResult) (code : Option ClipCode) (s t : State) : Prop where
  aside : Aside s t
  loaves : t.track.loaves = (modifyLoaf r.tag (releasedLoaf s.track.geometry tie code) s).track.loaves
  tag : (stationRec t x).tag = none
  wait : (stationRec t x).releaseTimer = none
  opens : inService t x = true → (stationRec t x).state = .opening ∨ (stationRec t x).state = .empty
  out : inService t x = false → (stationRec t x).state = .outOfService

/-- What becomes of a station that enters RELEASING at an event at which a fault of its own or of its tyer applies the action `a`: it keeps its
loaf, held, where the line has so entered HALTED (R94, R146), waits while the bag eye is covered (R89), and else releases at once and is out
of service (R90). -/
structure ReleasingUnderFault (a : Action) (x : Station) (r : Loaf) (tie : TieResult) (code : Option ClipCode) (s t : State) : Prop where
  held : a = .halt → s.sup.line ≠ .halted →
    (stationRec t x).state = .releasing ∧ (stationRec t x).held = true ∧ (stationRec t x).tag = some r.tag ∧
    (stationRec t x).releaseTimer = none ∧ ∃ q ∈ t.track.loaves, q.tag = r.tag ∧ q.zone = .station x ∧ q.tie = some tie ∧ q.clipCode = code
  waits : a ≠ .halt ∨ s.sup.line = .halted → inputHigh s (.bagEye x) = true →
    (stationRec t x).state = .releasing ∧ (stationRec t x).tag = some r.tag ∧
    (stationRec t x).releaseTimer = some s.stations.times.openTimeout ∧
    t.track.loaves = (modifyLoaf r.tag (fun l => { l with tie := some tie, clipCode := code }) s).track.loaves
  releases : a ≠ .halt ∨ s.sup.line = .halted → inputHigh s (.bagEye x) = false →
    ReleasedAtOnce x r tie code s t ∧ (stationRec t x).state = .outOfService

/-- A fitted station after a warm reset (R97): OUT_OF_SERVICE with its flag clear, EMPTY with magazine 0, else OPENING. There it draws where
`draws` says that its two functions are held (R80, R81): the bag leaves the magazine, and under a covered bag eye it stands open at once. -/
def restartedRec (s : State) (x : Station) (draws : Bool) : StationRec :=
  let r := stationRec s x
  let base : StationRec := ⟨.opening, r.bagClass, r.inServiceFlag, r.magazine, 0, none, none, false, none, none, none, none⟩
  if r.inServiceFlag = false then { base with state := .outOfService }
  else if r.magazine = 0 then { base with state := .empty }
  else if draws = false then base
  else if inputHigh s (.bagEye x) then { base with state := .ready, magazine := r.magazine - 1 }
  else { base with magazine := r.magazine - 1, attempt := some 1, bagTimer := some s.stations.times.openTimeout }

/-- The commands that are requests of the link (rows 1 to 53 of the table). -/
def isRequest : Instr → Bool
  | .powerOn _ => false
  | .resetLine _ => false
  | .infeedEyeLeadingEdge => false
  | .infeedEyeTrailingEdge => false
  | .stopEyeLeadingEdge => false
  | .exitEyeTrailingEdge => false
  | .rejectEyeTrailingEdge => false
  | .exitRejectLeadingEdge _ => false
  | .beltEncoderStep _ => false
  | .lengthCheckExpiry _ => false
  | .stopCheckExpiry _ => false
  | .rejectCheckExpiry _ => false
  | .exitCheckExpiry _ => false
  | .pusherEncoderStep _ => false
  | .cutBegin _ => false
  | .returnBegin _ => false
  | .parkChange _ => false
  | .stallTimerExpiry => false
  | .bagEyeLeadingEdge _ => false
  | .bagEyeTrailingEdge _ => false
  | .bagOpenTimeout _ => false
  | .releaseTimeout _ => false
  | .travelCountExpiry _ => false
  | .scoopEnd _ => false
  | .strikeMidpoint _ => false
  | .strikeEnd _ => false
  | .riseTimerExpiry => false
  | .sweepTimerExpiry => false
  | .conversionComplete _ => false
  | .centreConversionDue => false
  | .edgeDelayExpiry => false
  | .idleTimerExpiry => false
  | .beltWatchExpiry => false
  | .guardDoorChange _ => false
  | .trayFullChange _ => false
  | .keyInputChange _ _ => false
  | .plainInputEdge _ _ => false
  | .clockTick => false
  | .requestLine => false
  | .silenceTimeout => false
  | .lineSent => false
  | .characterReceived _ => false
  | .trendPeriodStart => false
  | _ => true

/-- The requests of the track and the recipe table in a form that no syntax line admits. -/
def bareTrackForms : List Instr :=
  [.setInfeed none, .setGeometry none, .reject none, .purge none, .readTrack none, .writeRecipe none, .erase none,
    .readRecipe none, .run none, .lock none, .unlock none, .bypassOn none, .bypassOff none, .lockdown none, .readAccess none,
    .tryPlan none]

/-- The same of the slicer, the stations, the tyers, crumb control and measurement. -/
def bareMachineForms : List Instr :=
  [.readSlicer none, .loadBags none, .setDistribution none, .setStation none, .setBagging none, .readStations none,
    .loadClips none, .setTyer none, .readTyers none, .cleanNow none, .setCrumb none, .readCrumb none, .setLimits none,
    .setSampling none, .setTrend none, .readChannels none]

/-- The same of supervision, the shift clock, the points and the link. -/
def bareLineForms : List Instr :=
  [.start none, .stopDrain none, .stopNow none, .setAction none, .clearFaults none, .setMask none, .readStatus none,
    .readFaults none, .reset none, .setClock none, .readClock none, .setShifts none, .closeShift none, .readTotals none,
    .readHistory none, .setPoint none, .takeEdges none, .writeOut none, .readPoints none, .setReports none, .ident none]

/-- The minimum tier of a request (12.6). -/
def requestTier : Instr → Tier
  | .setInfeed _ => .setter
  | .setGeometry _ => .engineer
  | .purge _ => .setter
  | .writeRecipe _ => .setter
  | .erase _ => .setter
  | .lock _ => .engineer
  | .unlock _ => .engineer
  | .bypassOn _ => .engineer
  | .bypassOff _ => .engineer
  | .lockdown _ => .engineer
  | .setDistribution _ => .setter
  | .setStation _ => .setter
  | .setBagging _ => .setter
  | .setTyer _ => .setter
  | .setCrumb _ => .setter
  | .setLimits _ => .setter
  | .setSampling _ => .engineer
  | .setTrend _ => .setter
  | .setAction _ => .engineer
  | .setMask _ => .setter
  | .reset _ => .engineer
  | .setClock _ => .setter
  | .setShifts _ => .setter
  | .closeShift _ => .setter
  | .setPoint _ => .engineer
  | .writeOut _ => .setter
  | .setReports _ => .setter
  | _ => .operator

/-- INFEED_HOLD at a level: its release starts the belt watch, its assertion stops it (R8, R144). -/
def holdSet (h : Bool) (s : State) : State :=
  { s with
    track := { s.track with infeedHold := h }
    sup := { s.sup with beltWatch := if h = s.track.infeedHold then s.sup.beltWatch else !h } }

/-- INFEED_HOLD is due: the line is not RUNNING, or the INFEED zone holds the limit or more, or the track 11 or 12 records (R8). -/
def holdOwed (s : State) : Bool :=
  decide (s.sup.line ≠ .running) || decide (s.track.limit ≤ (s.track.loaves.filter fun r => decide (r.zone = .infeed)).length) ||
    decide (11 ≤ s.track.loaves.length)

/-- The open shift closed for a cause (R165): the record with the track count, the clock reading and the cause goes to the front of the
history, which keeps 8; a fresh record opens with the entry, letter and bakery date given and what was carried out carried in; #S follows. -/
def closedAs (cause : CloseCause) (entry : Nat) (letter : Byte) (day : Option Nat) (s : State) : State :=
  let n := s.track.loaves.length
  report (.shift s.shift.openRecord.letter s.shift.openRecord.bakeryDay cause s.shift.clock n)
    { s with shift := { s.shift with
        history := (⟨s.shift.openRecord, n, s.shift.clock, s.shift.clockSet, cause⟩ :: s.shift.history).take 8
        openRecord := freshRecord entry letter day s.shift.clock s.shift.clockSet n } }

/-- Measurement at a phase begin of the blade (R128 to R130): `m` is what stands once the last phase has ended, `half` half of the previous
duration where the phase has CENTRE timing, `n` what stands afterwards. A delay starts, half of the duration or the edge delay; a delay of 0
falls due at the begin itself (log entry 44), and a free converter with no request then starts the set's next channel. -/
def phaseTimed (m : Meas) (half : Option Nat) (ph : SamplePhase) (stamp : Stamp) (n : Meas) : Prop :=
  let set := if ph = .cut then m.sampling.cutSet else m.sampling.retSet
  let pointer := if ph = .cut then m.cutPointer else m.retPointer
  let due := if half = none then { m with edgeRun := true } else { m with centreDue := true }
  let next := fun c => (set.find? fun d => decide (c < d)).or set.head?
  (∀ d ∈ half, d ≠ 0 → n = { m with centreTimer := some d }) ∧
    (half = none → m.sampling.edgeDelay ≠ 0 → n = { m with edgeTimer := some m.sampling.edgeDelay }) ∧
    (half = some 0 ∨ (half = none ∧ m.sampling.edgeDelay = 0) →
      (m.converter ≠ none → n = due) ∧
      (m.converter = none → m.requests = [] → set = [] → n = { due with centreDue := false }) ∧
      (m.converter = none → m.requests = [] → set ≠ [] → ∀ c ∈ pointer, n =
        { due with
          centreDue := false, converter := some ⟨c, stamp, ph, none⟩
          cutPointer := if ph = .cut then next c else m.cutPointer
          retPointer := if ph = .cut then m.retPointer else next c }))

/-- The command that says that a check of a kind has run out. -/
def expiryOf : CheckKind → Nat → Instr
  | .length => .lengthCheckExpiry
  | .stop => .stopCheckExpiry
  | .reject => .rejectCheckExpiry
  | .exit => .exitCheckExpiry

/-- The fault that a check raises (R10). -/
def jamOf : CheckKind → FaultKind
  | .length => .jamInfeed
  | .stop => .jamInfeed
  | .reject => .rejectMissed
  | .exit => .jamOutfeed

/-- The station that R85 chooses for a bag class: among the stations in service that are READY and loaded with the class, under ALTERNATE the
one not last assigned before the other, under FILL_A A before B, under A_ONLY and B_ONLY that one alone. -/
def stationFor (s : State) (cls : Nat) : Option Station :=
  let can := fun x => inService s x = true ∧ (stationRec s x).state = .ready ∧ (stationRec s x).bagClass = cls
  let last := s.stations.lastAssigned
  let other : Station := if last = .a then .b else .a
  match s.stations.policy with
  | .alternate => if can other then some other else if can last then some last else none
  | .fillA => if can .a then some .a else if can .b then some .b else none
  | .aOnly => if can .a then some .a else none
  | .bOnly => if can .b then some .b else none

/-- The state once the gate decision has been taken on a record that waits in TRANSFER (R84, R85): not in HALTED; a marked record goes to
REJECT with its check armed (R13); an unmarked one waits while REJECT holds a record or no station is chosen, and else goes to the station
chosen, which fills with its travel count (R88), is the last assigned and on the BL-340 sets STATION_GATE. -/
def routed (r : Loaf) (s : State) : State :=
  if s.sup.line = .halted then s
  else if r.mark ≠ none then
    modifyLoaf r.tag (fun l => { l with
      zone := .reject, check := some ⟨.reject, (s.track.geometry.dReject + 200) * s.track.geometry.k / 100⟩ }) s
  else if ∃ q ∈ s.track.loaves, q.zone = .reject then s
  else
    match r.bagClass.bind (stationFor s) with
    | none => s
    | some x =>
      let t := modifyLoaf r.tag (fun l => { l with zone := .station x, station := some x }) s
      { t with stations := { t.stations with
        recs := t.stations.recs.set x { stationRec s x with
          state := .filling, tag := some r.tag, attempt := none
          travel := some (s.track.geometry.dTransfer * s.track.geometry.k / 100) }
        lastAssigned := x, stationGate := if s.member = .bl340 then decide (x = .b) else s.stations.stationGate } }

/-- A fault that records a single occurrence (R145). -/
def eventFault : FaultKind → Bool
  | .jamInfeed => true
  | .jamOutfeed => true
  | .trackOverrun => true
  | .rejectMissed => true
  | .pusherFault => true
  | .bladeStall => true
  | .station _ => true
  | .vacuumFail => true
  | _ => false

/-- The command is POWER_ON. -/
def powersOn : Instr → Bool
  | .powerOn _ => true
  | _ => false

/-! ## Laws of the track and the totals -/

/-- The track holds at most 12 records (R1). -/
def trackBounded (s : State) : Prop := s.track.loaves.length ≤ Config.trackCapacity

/-- A record in the REJECT zone carries a mark (R84). -/
def rejectMarked (s : State) : Prop := ∀ r ∈ s.track.loaves, r.zone = .reject → r.mark.isSome

/-- The balance of R162 for a number of records in the track or carried out. -/
def balancedWith (c : LoafCounts) (n : Nat) : Prop := c.carriedIn + c.loavesIn = c.bagged + c.rejected.total + c.lost + n

/-- The open shift record balances against the track, and every closed record against what it carried out (R162). -/
def balanced (s : State) : Prop :=
  balancedWith (loafCounts s.shift.openRecord) s.track.loaves.length ∧
    ∀ c ∈ s.shift.history, balancedWith (loafCounts c.record) c.carriedOut

/-- No loaf count of the open record is near its cap: one more event leaves each below it (R160, R162). -/
def unsaturated (s : State) : Prop :=
  s.shift.openRecord.loavesIn < Config.countCap ∧ s.shift.openRecord.bagged < Config.countCap ∧
    s.shift.openRecord.lost + s.track.loaves.length ≤ Config.countCap ∧ s.shift.openRecord.rejected.total < Config.countCap

/-- At most 8 closed records (R165). -/
def historyBounded (s : State) : Prop := s.shift.history.length ≤ Config.historyCapacity

/-- How many records stand in a zone. -/
def inZone (s : State) (z : Zone) : Nat := (s.track.loaves.filter fun r => decide (r.zone = z)).length

/-- The track is in order (R1): no two records share a tag, and SLICER, TRANSFER and each station hold at most one; with what the owners of
the zones know of it (R12, R57, R78): the context has the tag of the record in SLICER and none in EMPTY and HOMING, a station has the tag of
the record it holds and none where it holds no loaf. -/
structure TrackInOrder (s : State) : Prop where
  tags : (s.track.loaves.map Loaf.tag).Nodup
  slicer : inZone s .slicer ≤ 1
  transfer : inZone s .transfer ≤ 1
  stations : ∀ x, inZone s (.station x) ≤ 1
  context : ∀ r ∈ s.track.loaves, r.zone = .slicer → s.head.tag = some r.tag
  free : s.head.state = .empty ∨ s.head.state = .homing → s.head.tag = none
  held : ∀ r ∈ s.track.loaves, ∀ x, r.zone = .station x → (stationRec s x).tag = some r.tag
  idle : ∀ x, (stationRec s x).state = .outOfService ∨ (stationRec s x).state = .empty ∨ (stationRec s x).state = .opening ∨
    (stationRec s x).state = .ready → (stationRec s x).tag = none

/-- A station's timers and its tyer's stage run in the states they belong to alone: the bag-open timer in OPENING (R81), the travel count and
after it the scoop pulse in FILLING (R88), the tying stage in TYING (R99), the release wait in RELEASING (R89). A held station has its scoop
released and its tying stage absent until START repeats them (R94, R103). -/
structure StationsTimed (s : State) : Prop where
  bag : ∀ x, (stationRec s x).bagTimer ≠ none → (stationRec s x).state = .opening
  travel : ∀ x, (stationRec s x).travel ≠ none → (stationRec s x).state = .filling
  scoop : ∀ x, (stationRec s x).scoopTimer ≠ none → (stationRec s x).state = .filling ∧ (stationRec s x).travel = none
  stage : ∀ x, (tyerOf s x).stage ≠ none → (stationRec s x).state = .tying
  release : ∀ x, (stationRec s x).releaseTimer ≠ none → (stationRec s x).state = .releasing
  heldScoop : ∀ x, (stationRec s x).held = true → (stationRec s x).scoopTimer = none
  heldStage : ∀ x, (stationRec s x).held = true → (tyerOf s x).stage = none

/-! ## Laws of the line, the head and crumb control -/

/-- KNIFE_RUN is asserted while the line is RUNNING or DRAINING, except while the context is PASSING, and at no other time (R59). -/
def knifeLaw (s : State) : Prop := s.head.knife = (moving s && decide (s.head.state ≠ .passing))

/-- INFEED_HOLD is asserted exactly while its condition holds (R8). -/
def holdLaw (s : State) : Prop := s.track.infeedHold = holdOwed s

/-- The belt watch timer runs only while INFEED_HOLD is released (R144). -/
def watchLaw (s : State) : Prop := s.sup.beltWatch = true → s.track.infeedHold = false

/-- DRAINING ends as soon as the track is empty (R142). -/
def drainLaw (s : State) : Prop := s.sup.line = .draining → s.track.loaves ≠ []

/-- While a sweep runs, and VACUUM with it, no record is in the SLICER zone and the line is not HALTED (R117). -/
def sweepLaw (s : State) : Prop := s.crumb.sweep ≠ none → (∀ r ∈ s.track.loaves, r.zone ≠ .slicer) ∧ s.sup.line ≠ .halted

/-- The schedule has 1 to 4 entries, each with a letter from A to Z and a start minute of the day; counted modulo 1440 from entry 1 the start
minutes rise strictly (R158). -/
def scheduleLaw (s : State) : Prop :=
  (1 ≤ s.shift.schedule.length ∧ s.shift.schedule.length ≤ 4) ∧
    (∀ e ∈ s.shift.schedule, (65 ≤ e.letter.toNat ∧ e.letter.toNat ≤ 90) ∧ e.startMinute ≤ 1439) ∧
    ∀ first ∈ s.shift.schedule.head?, (s.shift.schedule.map fun e => (e.startMinute + 1440 - first.startMinute) % 1440).Pairwise (· < ·)

/-- Both crumb loads stay within 0 to 65535 (R111). -/
def loadsBounded (s : State) : Prop := s.crumb.bladeLoad ≤ Config.loadCap ∧ s.crumb.trayLoad ≤ Config.loadCap

/-- An event fault never stands ACTIVE, and no occurrence count passes 255 (R143, R145). -/
def faultsLawful (s : State) : Prop :=
  ∀ k, (eventFault k = true → (faultEntry s k).state ≠ .active) ∧ (faultEntry s k).count ≤ Config.occurrenceCap

/-! ## Laws of the warnings -/

/-- A record waits in TRANSFER unmarked, and no fitted station that the policy permits is in service, loaded with its bag class and other than
EMPTY: no station could ever take it (R86). -/
def noStationEver (s : State) : Prop :=
  ∃ r ∈ oldestIn s .transfer, r.mark = none ∧ ∃ cls ∈ r.bagClass, ∀ x : Station,
    ¬((s.stations.policy = .alternate ∨ s.stations.policy = .fillA ∨ (s.stations.policy = .aOnly ∧ x = .a) ∨
        (s.stations.policy = .bOnly ∧ x = .b)) ∧
      inService s x = true ∧ (stationRec s x).bagClass = cls ∧ (stationRec s x).state ≠ .empty)

/-- The warnings that follow a level of the state are present exactly at that level (R150): TRACK_FULL with 11 or 12 records (R8), KEY_INVALID
with both keys assigned and on (R34), BAGS_LOW_x with 20 bags or fewer (R82), NO_STATION while no station could ever take the record that
waits (R86), CLIPS_LOW_x with the spool at or below 20 clips of class M (R104), CRUMB_HIGH at or above twice the threshold, or at the top of
the range (R111). -/
structure WarningsFollow (s : State) : Prop where
  trackFull : (warnEntry s .trackFull).present = true ↔ 11 ≤ s.track.loaves.length
  keyInvalid : (warnEntry s .keyInvalid).present = true ↔
    Held s (.key .a) ∧ Held s (.key .b) ∧ inputHigh s (.key .a) = true ∧ inputHigh s (.key .b) = true
  bagsLow : ∀ x, (warnEntry s (.bagsLow x)).present = true ↔ stationFitted s.member x = true ∧ (stationRec s x).magazine ≤ 20
  noStation : (warnEntry s .noStation).present = true ↔ noStationEver s
  clipsLow : ∀ x, (warnEntry s (.clipsLow x)).present = true ↔ tyerFitted s x = true ∧ (tyerOf s x).spool ≤ 20 * (tyerOf s x).settings.m
  crumbHigh : (warnEntry s .crumbHigh).present = true ↔ min (2 * s.crumb.settings.trayThreshold) 65535 ≤ s.crumb.trayLoad

/-- BAGS_EMPTY_x is present exactly while the fitted station is EMPTY (R82). -/
def bagsEmptyFollow (s : State) : Prop :=
  ∀ x, (warnEntry s (.bagsEmpty x)).present = true ↔ stationFitted s.member x = true ∧ (stationRec s x).state = .empty

/-! ## Laws of the recipe table, the points and the link -/

/-- The law of R170: no two points hold one function; a point in OUT or holding an output function has its pull-up off; outside IN the edge
select is NONE, the report enable off and the latch clear; on the BL-320 no point holds a station-B function (R172). -/
def pointsLawful (s : State) : Prop :=
  (∀ p q g, pointFunction s p = some g → pointFunction s q = some g → p = q) ∧
    (∀ p : PointNo, s.points[p].mode = .output ∨ (∃ g, pointFunction s p = some g ∧ isInput g = false) → s.points[p].pullUp = false) ∧
    (∀ p : PointNo, s.points[p].mode ≠ .input →
      s.points[p].edge = .never ∧ s.points[p].report = false ∧ s.points[p].latch = false) ∧
    (s.member = .bl320 → ∀ p g, pointFunction s p = some g → isStationB g = false)

/-- The run recipe is none or a VALID slot (R30); while bypass-frozen is set the bypass is clear (R38). -/
def recipesLawful (s : State) : Prop :=
  (∀ i, s.recipes.runRecipe = some i → (recipeAt s i).isSome = true) ∧ (s.recipes.frozen = true → s.recipes.bypass = false)

/-- At most 16 reports wait (R182), and at most 124 received characters are stored (R179). -/
def linkBounded (s : State) : Prop :=
  s.link.queue.length ≤ Config.queueCapacity ∧ s.link.buffer.length ≤ Config.bufferCapacity

end Sys2Proof.Safety
end

