-- ==== Sys2Proof/Certificates/Slice0/Obligations.lean ====
section
/-! DEFINITION. The statements for the provers, family by family: what each command of the table does to the state, what it leaves alone,
and the laws that every step keeps. -/

open Sys2Proof Sys2Proof.Machine Sys2Proof.Safety

/-! ## The step and the queue -/

/-- A step takes the command at the front of the queue and runs it on the state with the queue's rest. -/
def Obligations.StepRunsFrontCommand : Prop :=
  ∀ (c : Instr) (rest : List Instr) (s : State), s.pending = c :: rest → step s = exec c { s with pending := rest }

/-- Every command answers a next state, in every state and with every operand, and leaves the queue and the part's member alone. -/
def Obligations.EveryCommandAnswers : Prop :=
  ∀ (c : Instr) (s : State), ∃ t, exec c s = .next t ∧ t.pending = s.pending ∧ t.member = s.member

/-! ## Laws that every step keeps -/

/-- R59: after any step KNIFE_RUN is asserted while the line is RUNNING or DRAINING, except while the context is PASSING, and at no other
time. -/
def Obligations.KnifeRunFollowsLine : Prop :=
  ∀ s t : State, s.head.knife = (moving s && decide (s.head.state ≠ .passing)) → step s = .next t →
    t.head.knife = (moving t && decide (t.head.state ≠ .passing))

/-- R8, R144: after any step INFEED_HOLD is asserted exactly while the line is not RUNNING, the INFEED zone holds the accumulation limit or
more, or the track holds 11 or 12 records; and the belt watch runs only while the hold is released. Each is kept by every step on its own. -/
def Obligations.InfeedHoldStands : Prop :=
  let due := fun u : State => decide (u.sup.line ≠ .running) ||
    decide (u.track.limit ≤ (u.track.loaves.filter fun r => decide (r.zone = .infeed)).length) || decide (11 ≤ u.track.loaves.length)
  ∀ s t : State, step s = .next t →
    (s.track.infeedHold = due s → t.track.infeedHold = due t) ∧
    ((s.sup.beltWatch = true → s.track.infeedHold = false) → t.sup.beltWatch = true → t.track.infeedHold = false)

/-- R1, R30, R38, R84, R111, R117, R142, R143, R145, R158, R165, R170, R179, R182: the bounds and laws of the stores, each kept by every step on its
own: 12 records at most; 8 closed shift records; 16 waiting reports and 124 stored characters; both crumb loads within 0 to 65535; a record
in REJECT carries a mark; an event fault never stands ACTIVE and no occurrence count passes 255; the run recipe is none or a VALID slot, and
bypass-frozen goes with a clear bypass; DRAINING never stands over an empty track; the law of the points; while a sweep runs no record is in
SLICER and the line is not HALTED, so that VACUUM is asserted under no other condition; the schedule has 1 to 4 entries whose letters, start
minutes and order are those of R158. -/
def Obligations.StoresKeepTheirLaws : Prop :=
  ∀ s t : State, step s = .next t →
    (s.track.loaves.length ≤ 12 → t.track.loaves.length ≤ 12) ∧
    (s.shift.history.length ≤ 8 → t.shift.history.length ≤ 8) ∧
    (s.link.queue.length ≤ 16 ∧ s.link.buffer.length ≤ 124 → t.link.queue.length ≤ 16 ∧ t.link.buffer.length ≤ 124) ∧
    (s.crumb.bladeLoad ≤ 65535 ∧ s.crumb.trayLoad ≤ 65535 → t.crumb.bladeLoad ≤ 65535 ∧ t.crumb.trayLoad ≤ 65535) ∧
    (rejectMarked s → rejectMarked t) ∧ (faultsLawful s → faultsLawful t) ∧ (recipesLawful s → recipesLawful t) ∧
    ((s.sup.line = .draining → s.track.loaves ≠ []) → t.sup.line = .draining → t.track.loaves ≠ []) ∧
    (pointsLawful s → pointsLawful t) ∧
    (sweepLaw s → sweepLaw t ∧ (vacuumOn t = true → (∀ r ∈ t.track.loaves, r.zone ≠ .slicer) ∧ t.sup.line ≠ .halted)) ∧
    (scheduleLaw s → scheduleLaw t)

/-- R1, R12, R57, R78: the track stays in order. After any step no two records share a tag and SLICER, TRANSFER and each station hold at most
one record, with the context and the stations knowing the tags of theirs. The premise that no record has the next tag is R3's: the tags of
the track are no more than 65535 steps apart. What a station does at its timers rests on their running in their states alone (R81, R88, R89,
R99), with no scoop and no tying stage at a held station (R94, R103), which every step keeps on its own. -/
def Obligations.TrackStaysInOrder : Prop :=
  ∀ s t : State, step s = .next t →
    (StationsTimed s → StationsTimed t) ∧
    (StationsTimed s → TrackInOrder s → (∀ r ∈ s.track.loaves, r.tag ≠ s.track.nextTag) → TrackInOrder t)

/-- R8, R34, R82, R86, R104, R111, R150: after any step the warnings that follow a level of the state are present exactly at that level:
TRACK_FULL, KEY_INVALID, BAGS_LOW_x, NO_STATION, CLIPS_LOW_x and CRUMB_HIGH; BAGS_EMPTY_x too, where the stations' timers run in their
states alone. -/
def Obligations.LevelWarningsFollow : Prop :=
  ∀ s t : State, step s = .next t →
    (WarningsFollow s → WarningsFollow t) ∧ (StationsTimed s → bagsEmptyFollow s → bagsEmptyFollow t)

/-- R162: while no loaf count is at its cap, the open record balances against the track and each closed record against what it carried out:
carried_in + loaves_in = bagged + rejected + lost + the track count, or carried_out. That the records in REJECT carry a mark is a law of
`StoresKeepTheirLaws`. -/
def Obligations.TotalsBalance : Prop :=
  ∀ s t : State, rejectMarked s → unsaturated s → balanced s → step s = .next t → balanced t

/-- R39: with lockdown in force and the bypass clear, no command but POWER_ON changes a locked slot or ends lockdown. -/
def Obligations.LockdownKeepsLockedSlots : Prop :=
  ∀ (c : Instr) (rest : List Instr) (s t : State), s.pending = c :: rest → (∀ p, c ≠ .powerOn p) →
    s.recipes.lockdown = true → s.recipes.bypass = false → step s = .next t →
      t.recipes.lockdown = true ∧ ∀ (i : Slot) (r : Recipe), s.recipes.slots[i] = some r → r.locked = true → t.recipes.slots[i] = some r

/-- The state after reset has every law of this section: those of KNIFE_RUN (R59), of the hold and the belt watch (R8, R144), of the track's
bounds and marks (R1, R84), of the balance and the history (R160, R162, R165), of the link (R179, R182), the recipe table (R30, R38), the
faults (R143, R145), the crumb loads (R111), DRAINING (R142), the points (R170, R172), the track's order and the stations' timers (R1), the
sweep (R117), the schedule (R158) and the level warnings (R150). That the state after reset is a BL-340 with the
printer and both tyers strapped is the model's choice (log entry 1), and so are its input levels (log entry 2). -/
def Obligations.ResetHasTheLaws : Prop :=
  knifeLaw State.reset ∧ holdLaw State.reset ∧ watchLaw State.reset ∧ trackBounded State.reset ∧ rejectMarked State.reset ∧
    balanced State.reset ∧ historyBounded State.reset ∧ linkBounded State.reset ∧ recipesLawful State.reset ∧ faultsLawful State.reset ∧
    loadsBounded State.reset ∧ drainLaw State.reset ∧ unsaturated State.reset ∧ pointsLawful State.reset ∧
    TrackInOrder State.reset ∧ StationsTimed State.reset ∧ sweepLaw State.reset ∧ scheduleLaw State.reset ∧ WarningsFollow State.reset ∧
    bagsEmptyFollow State.reset

/-! ## The loaf track -/

/-- R9: SET INFEED without a number, with two operands or with a non-number is refused with SYNTAX, and below SETTER with TIER. In every
line state it replaces the limit by the number clamped to 1 to 4, reviews the hold of R8 at once, and gives the limit taken; where
BELT_STALL is not ACTIVE nothing else changes. The limit is 2 after power-on, and both warm resets keep it. -/
def Obligations.SetInfeedClampsLimit : Prop :=
  (∀ a b : Text, oneNumber [] = none ∧ oneNumber [a, b] = none ∧ (number a = none → oneNumber [a] = none)) ∧
  (∀ s : State, Free s →
    exec (.setInfeed none) s = .next (answered (refusal .malformed) s) ∧
    (∀ n : Nat,
      (tierOk s .setter = false → exec (.setInfeed (some n)) s = .next (answered (refusal .tier) s)) ∧
      (tierOk s .setter = true →
        ∃ t, exec (.setInfeed (some n)) s = .next (answered (accepted "SET INFEED" [decimal (max 1 (min 4 n))]) t) ∧
          t.track.limit = max 1 (min 4 n) ∧
          t.track.infeedHold = holdOwed { s with track := { s.track with limit := max 1 (min 4 n) } } ∧
          (BeltRuns s → t = holdSet (holdOwed { s with track := { s.track with limit := max 1 (min 4 n) } })
            { s with track := { s.track with limit := max 1 (min 4 n) } })))) ∧
  (∀ (p : Straps) (s : State),
    (∃ t, exec (.powerOn p) s = .next t ∧ t.track.limit = 2) ∧
    (∃ t, exec (.resetLine p) s = .next t ∧ t.track.limit = s.track.limit) ∧
    (∀ txt, s.link.sending = some ⟨.reply, txt⟩ → s.link.owed = some ⟨[], true⟩ →
      ∃ t, exec .lineSent s = .next t ∧ t.track.limit = s.track.limit))

/-- R18: SET GEOMETRY in STOPPED takes all six values, where the pitches stay or the track is empty, and changes nothing else. Out of range,
outside STOPPED, or with new pitches over a loaded track, it is refused and takes none of the six. -/
def Obligations.SetGeometryAllOrNothing : Prop :=
  ∀ (g : Geometry) (s : State), Free s →
    let ranged := (50 ≤ g.dStop ∧ g.dStop ≤ 3000) ∧ (50 ≤ g.dTransfer ∧ g.dTransfer ≤ 3000) ∧ (50 ≤ g.dReject ∧ g.dReject ≤ 3000) ∧
      (50 ≤ g.dExit ∧ g.dExit ≤ 3000) ∧ (200 ≤ g.k ∧ g.k ≤ 2000) ∧ (500 ≤ g.kp ∧ g.kp ≤ 4000)
    let fresh := s.track.loaves = [] ∨ (g.k = s.track.geometry.k ∧ g.kp = s.track.geometry.kp)
    (¬ranged → exec (.setGeometry (some g)) s = .next (answered (refusal .range) s)) ∧
    (ranged → tierOk s .engineer = false → exec (.setGeometry (some g)) s = .next (answered (refusal .tier) s)) ∧
    (ranged → tierOk s .engineer = true → s.sup.line ≠ .stopped ∨ ¬fresh →
      exec (.setGeometry (some g)) s = .next (answered (refusal .state) s)) ∧
    (ranged → tierOk s .engineer = true → s.sup.line = .stopped → fresh →
      exec (.setGeometry (some g)) s = .next (answered
        (accepted "SET GEOMETRY" [decimal g.dStop, decimal g.dTransfer, decimal g.dReject, decimal g.dExit, decimal g.k, decimal g.kp])
        { s with track := { s.track with geometry := g } }))

/-- R19: REJECT of a tag outside 1 to 65535 is refused with RANGE, and of a tag that no record has with NO_SUCH. It marks a record in
INFEED, SLICER or TRANSFER, the first mark standing, and diverts one that waits in TRANSFER. At a station, in OUTFEED or in REJECT it is too
late. R67: an unmarked loaf in the slicer is abandoned: from CUTTING, and with a cut made from ENTERING or ADVANCING, through EJECTING; with
no cut from ENTERING or ADVANCING through PASSING; in PAUSED the state to resume is replaced the same way, and nothing else of the context
but the target. In the other states nothing but the mark changes. That the eject target is the target from the abandonment on is the model's
reading (log entry 24). -/
def Obligations.RejectMarksAndDiverts : Prop :=
  ∀ (tag : Nat) (s : State), Free s →
    let marked := fun r : Loaf => { r with mark := r.mark.or (some .operator) }
    (tag = 0 ∨ 65535 < tag → exec (.reject (some tag)) s = .next (answered (refusal .range) s)) ∧
    (1 ≤ tag → tag ≤ 65535 → findLoaf s tag = none → exec (.reject (some tag)) s = .next (answered (refusal .noSuch) s)) ∧
    (∀ r ∈ findLoaf s tag, 1 ≤ tag → tag ≤ 65535 →
      (r.zone ≠ .infeed → r.zone ≠ .slicer → r.zone ≠ .transfer →
        exec (.reject (some tag)) s = .next (answered (refusal .tooLate) s)) ∧
      (r.zone = .infeed →
        exec (.reject (some tag)) s = .next (answered
          (accepted "REJECT" [decimal tag, codes "INFEED", codes (markText (r.mark.getD .operator))]) (modifyLoaf tag marked s))) ∧
      (r.zone = .slicer →
        let cut := 1 ≤ r.cutsDone.getD 0
        let early := fun h : HeadState => h = .entering ∨ h = .advancing
        let resumes := s.head.pausedFrom = some .entering ∨ s.head.pausedFrom = some .advancing
        let abandoned := fun h : Head => { modifyLoaf tag marked s with head := { h with target := ejectTargetOf s r } }
        ∃ t, exec (.reject (some tag)) s = .next (answered
            (accepted "REJECT" [decimal tag, codes "SLICER", codes (markText (r.mark.getD .operator))]) t) ∧
          t.track = (modifyLoaf tag marked s).track ∧
          (r.mark ≠ none → t = modifyLoaf tag marked s) ∧
          (r.mark = none →
            (s.head.state = .cutting ∨ (early s.head.state ∧ cut) → t = abandoned { s.head with state := .ejecting }) ∧
            (early s.head.state → ¬cut →
              t.head.state = .passing ∧ t.head.target = ejectTargetOf s r ∧ t.head.tag = s.head.tag ∧ t.head.knife = false) ∧
            (s.head.state = .paused → s.head.pausedFrom = some .cutting ∨ (resumes ∧ cut) →
              t = abandoned { s.head with pausedFrom := some .ejecting }) ∧
            (s.head.state = .paused → resumes → ¬cut → t = abandoned { s.head with pausedFrom := some .passing }) ∧
            (s.head.state = .ejecting ∨ s.head.state = .passing ∨ s.head.state = .interrupted ∨
                (s.head.state = .paused ∧ (s.head.pausedFrom = some .ejecting ∨ s.head.pausedFrom = some .passing)) →
              t = modifyLoaf tag marked s))) ∧
      (r.zone = .transfer →
        ∃ t o, exec (.reject (some tag)) s = .next (answered o t) ∧
          (∃ q ∈ t.track.loaves, q = { marked r with
            zone := .reject
            check := some ⟨.reject, (s.track.geometry.dReject + 200) * s.track.geometry.k / 100⟩ }) ∧
          (s.head.state ≠ .ejecting → s.head.state ≠ .passing →
            o = accepted "REJECT" [decimal tag, codes "REJECT", codes (markText (r.mark.getD .operator))])))

/-- R21: PURGE in STOPPED and HALTED removes every record, counts each lost, clears the context (R57), keeps the sequence and the recipes,
and gives the number removed; in RUNNING and DRAINING it is refused with STATE. R95: a station with a loaf abandons it, its bag counted
wasted and its tying stage dropped; it opens, held while the line is HALTED (R94), and in STOPPED draws where its two functions are held
(R80, R81), or goes OUT_OF_SERVICE where it is not in service. A station without a loaf is left as it stands. The context and the stations
are pinned where BELT_STALL is not ACTIVE, as R144 has it while the hold stands. -/
def Obligations.PurgeEmptiesTrack : Prop :=
  ∀ s : State, Free s → tierOk s .setter = true →
    (s.sup.line = .stopped ∨ s.sup.line = .halted →
      ∃ t, exec (.purge (some ())) s = .next (answered (accepted "PURGE" [decimal s.track.loaves.length]) t) ∧
        t.track.loaves = [] ∧ t.track.nextTag = s.track.nextTag ∧ t.track.infeedHold = true ∧
        t.shift.openRecord.lost = min (s.shift.openRecord.lost + s.track.loaves.length) 4294967295 ∧
        t.head.state = .empty ∧ t.head.tag = none ∧ (∀ x, (stationRec t x).tag = none) ∧ t.recipes = s.recipes ∧
        (BeltRuns s → t.sup.line = s.sup.line ∧
          t.head = { s.head with state := .empty, tag := none, nextCut := none, target := 0, pausedFrom := none } ∧ ∀ x,
          let rec' := stationRec s x
          let counted := s.shift.openRecord.stations.get x
          let held := Held s (.bagEye x) ∧ Held s (.blower x)
          (rec'.tag = none → stationRec t x = rec' ∧ tyerOf t x = tyerOf s x ∧ t.shift.openRecord.stations.get x = counted) ∧
          (rec'.tag ≠ none → (tyerOf t x).stage = none ∧
            (t.shift.openRecord.stations.get x).wasted = min (counted.wasted + 1) 4294967295 ∧
            (inService s x = false → (stationRec t x).state = .outOfService ∧ (stationRec t x).held = false) ∧
            (inService s x = true → s.sup.line = .halted →
              (stationRec t x).state = .opening ∧ (stationRec t x).held = true ∧ (stationRec t x).attempt = none) ∧
            (inService s x = true → s.sup.line = .stopped → (stationRec t x).held = false ∧
              (¬held → (stationRec t x).state = .opening ∧ (stationRec t x).attempt = none) ∧
              (held → rec'.magazine = 0 → (stationRec t x).state = .empty) ∧
              (held → 1 ≤ rec'.magazine → (stationRec t x).magazine = rec'.magazine - 1 ∧
                (t.shift.openRecord.stations.get x).drawn = min (counted.drawn + 1) 4294967295 ∧
                (inputHigh s (.bagEye x) = true → (stationRec t x).state = .ready) ∧
                (inputHigh s (.bagEye x) = false → (stationRec t x).state = .opening ∧ (stationRec t x).attempt = some 1)))))) ∧
    (s.sup.line = .running ∨ s.sup.line = .draining → exec (.purge (some ())) s = .next (answered (refusal .state) s))

/-- R4, R7: a leading edge on INFEED_EYE while the line moves and the track holds fewer than 12 records opens a record at the tail with the
next tag, the belt count of the edge, the snapshot of the run recipe (or none, marked NO_RECIPE) and the length check armed over 8 k counts;
the loaf is counted in; only the eye's terminal, the hold and the notices change beside. In STOPPED or HALTED the edge changes nothing of
the track. At a full track, the line moving, it opens no record and consumes no tag; the unrecorded count rises and TRACK_OVERRUN is raised
with no loaf given, and reported (R152); where its action is HALT the line has entered HALTED, with all that R75, R94 and R120 say of it, and
#L follows the #F. -/
def Obligations.InfeedEdgeOpensRecord : Prop :=
  ∀ s : State, Held s .infeedEye →
    ((s.sup.line = .running ∨ s.sup.line = .draining) → s.track.loaves.length < 12 → BeltRuns s →
      ∃ (r : Loaf) (u t : State), exec .infeedEyeLeadingEdge s = .next t ∧ Noticed u t ∧
        r.tag = s.track.nextTag ∧ r.zone = .infeed ∧ r.leadCount = s.track.beltCount ∧ r.measured = none ∧ r.plan = none ∧
        r.cutsDone = none ∧ r.station = none ∧ r.tie = none ∧ r.clipCode = none ∧ r.ejectCount = none ∧
        r.check = some ⟨.length, 800 * s.track.geometry.k / 100⟩ ∧
        (s.recipes.runRecipe = none → r.snapshot = none ∧ r.mark = some .noRecipe) ∧
        (∀ (i : Slot) (p : Recipe), s.recipes.runRecipe = some i → s.recipes.slots[i] = some p →
          (s.recipes.lockdown = true ∧ p.locked = false → r.snapshot = none ∧ r.mark = some .noRecipe) ∧
          (¬(s.recipes.lockdown = true ∧ p.locked = false) → r.mark = none ∧ r.snapshot =
            some ⟨i, { p.figures with shelfDays := if s.options.printer then p.figures.shelfDays else 0 }, p.locked⟩)) ∧
        u = (let v := { driveInput .infeedEye true s with
              track := { s.track with
                loaves := s.track.loaves ++ [r], nextTag := if s.track.nextTag = 65535 then 1 else s.track.nextTag + 1 }
              shift := { s.shift with openRecord := { s.shift.openRecord with
                loavesIn := min (s.shift.openRecord.loavesIn + 1) 4294967295
                lines := countLine (r.snapshot.map Snapshot.slot) (fun l => { l with loavesIn := min (l.loavesIn + 1) 4294967295 })
                  s.shift.openRecord.lines } } }
            holdSet (holdOwed v) v)) ∧
    (s.sup.line = .stopped ∨ s.sup.line = .halted →
      ∃ t, exec .infeedEyeLeadingEdge s = .next t ∧ Noticed (driveInput .infeedEye true s) t) ∧
    (s.sup.line = .running ∨ s.sup.line = .draining → 12 ≤ s.track.loaves.length →
      ∃ t, exec .infeedEyeLeadingEdge s = .next t ∧ Aside s t ∧
        t.track.loaves.map (fun r => { r with mark := none }) = s.track.loaves.map (fun r => { r with mark := none }) ∧
        t.track.nextTag = s.track.nextTag ∧
        t.shift.openRecord.unrecorded = min (s.shift.openRecord.unrecorded + 1) 4294967295 ∧
        (faultEntry t .trackOverrun).state = .latched ∧ (faultEntry t .trackOverrun).lastLoaf = none ∧
        (faultEntry t .trackOverrun).count = min ((faultEntry s .trackOverrun).count + 1) 255 ∧
        (Listening s → Report.fault .trackOverrun .latched (min ((faultEntry s .trackOverrun).count + 1) 255) ∈ t.link.queue) ∧
        ((faultEntry s .trackOverrun).action = .halt → HaltedFrom s t ∧ (Listening s → Report.line .halted ∈ t.link.queue)))

/-- R5, R11, R45, R46, R62: a trailing edge on INFEED_EYE fixes the length of the last record where it is absent: the belt counts since its
leading edge, held within 1 to 65535, and Lmm rounded half up. A record with a snapshot and no mark is marked SHORT or DOUBLE outside its
band, and planned inside it; the length check gives way to the arrival check where the record is the oldest in INFEED and the stop eye is
clear. Under a covered stop eye that record has arrived, so no check is armed and the admission test is made at once, by the rules of
StopEdgePresentsLoaf. With the stop eye clear, or an older record in INFEED, nothing else changes. That PASSING has the eject target from its
entry is the model's reading (log entry 24). -/
def Obligations.TrailingEdgeFixesLength : Prop :=
  ∀ (r : Loaf) (s : State), Held s .infeedEye → s.track.loaves.getLast? = some r → r.measured = none → findLoaf s r.tag = some r →
    let oldest := (oldestIn s .infeed).any fun o => decide (o.tag = r.tag)
    ∃ (q : Loaf) (t : State) (counts lmm : Nat), exec .infeedEyeTrailingEdge s = .next t ∧
      counts = max 1 (min (s.track.beltCount - r.leadCount).toNat 65535) ∧
      lmm = (counts * 1000 + s.track.geometry.k / 2) / s.track.geometry.k ∧
      q = { r with
        measured := some ⟨counts, lmm⟩
        mark := q.mark
        plan := q.plan
        check := if oldest = true ∧ inputHigh s .stopEye = false then
            some ⟨.stop, (s.track.geometry.dStop + 200) * s.track.geometry.k / 100⟩ else none } ∧
      (r.snapshot = none ∨ r.mark ≠ none → q.mark = r.mark ∧ q.plan = r.plan) ∧
      (∀ sn, r.snapshot = some sn → r.mark = none →
        (lmm < sn.figures.minLength → q.mark = some .short ∧ q.plan = r.plan) ∧
        (sn.figures.minLength ≤ lmm → sn.figures.maxLength < lmm → q.mark = some .double ∧ q.plan = r.plan) ∧
        (sn.figures.minLength ≤ lmm → lmm ≤ sn.figures.maxLength →
          q.mark = none ∧ q.plan = some (planOf sn.figures lmm s.track.geometry.kp))) ∧
      let fixed := modifyLoaf r.tag (fun _ => q) (driveInput .infeedEye false s)
      (inputHigh s .stopEye = false ∨ oldest = false → Noticed fixed t) ∧
      (oldestIn s .infeed = some r → inputHigh s .stopEye = true → BeltRuns s → AdmissionTested q fixed t)

/-- R11, R62, R63: a leading edge on STOP_EYE disarms the arrival check of the oldest INFEED record. With the line moving, the context
EMPTY, the pusher home and a measured loaf at the stop, crumb control is asked (R114). A running sweep, or a pending one with sweeps not
suspended, holds the loaf. So does a changeover (an unmarked loaf of a recipe with clear-before 1, with a last-admitted slot that differs),
and CHANGEOVER becomes pending, its sweep starting at once over an empty slicer (R113, R117); while sweeps are suspended (R116) the loaf is
taken with the mark NO_CLEAN. In every other case it is taken: an unmarked one enters ENTERING with cuts done 0 and gives the last-admitted
slot (R115), a marked one PASSING with the blade released. With a condition missing the loaf waits. That PASSING has the eject target from
its entry is the model's reading (log entry 24). -/
def Obligations.StopEdgePresentsLoaf : Prop :=
  ∀ (r : Loaf) (s : State), Held s .stopEye → oldestIn s .infeed = some r → findLoaf s r.tag = some r → BeltRuns s →
    let disarmed := modifyLoaf r.tag (fun l => { l with
      check := if r.check.any (fun c => decide (c.kind = .stop)) then none else r.check }) (driveInput .stopEye true s)
    ∃ t, exec .stopEyeLeadingEdge s = .next t ∧ AdmissionTested r disarmed t

/-- R15: a trailing edge on EXIT_EYE removes the oldest OUTFEED record, reports #D with its tag and tie result, and counts one loaf bagged,
in the totals and on its recipe's line; the hold is reviewed and nothing else changes but the notices. Where it was the last record of a
DRAINING line, the line is STOPPED (R142). -/
def Obligations.ExitEdgeBagsOldest : Prop :=
  ∀ (r : Loaf) (s : State), Held s .exitEye → oldestIn s .outfeed = some r → BeltRuns s →
    let u := { driveInput .exitEye false s with
      track := { s.track with loaves := s.track.loaves.eraseP (fun l => decide (l.tag = r.tag)) }
      shift := { s.shift with openRecord := { s.shift.openRecord with
        bagged := min (s.shift.openRecord.bagged + 1) 4294967295
        lines := countLine (r.snapshot.map Snapshot.slot) (fun l => { l with bagged := min (l.bagged + 1) 4294967295 })
          s.shift.openRecord.lines } } }
    ∃ t, exec .exitEyeTrailingEdge s = .next t ∧ (warnEntry t .strayEdge).present = false ∧
      (Listening s → Report.done r.tag r.tie ∈ t.link.queue) ∧
      (s.sup.line ≠ .draining ∨ u.track.loaves ≠ [] → Noticed (holdSet (holdOwed u) u) t) ∧
      (s.sup.line = .draining → u.track.loaves = [] →
        t.sup.line = .stopped ∧ t.track.loaves = [] ∧ t.shift = u.shift ∧ t.track.infeedHold = true ∧ t.head.knife = false ∧
        (Listening s → Report.line .stopped ∈ t.link.queue))

/-- R16: a trailing edge on REJECT_EYE removes the oldest REJECT record and no other, reports #X with its tag and mark, and counts one
loaf rejected, under its mark and on its recipe's line. While records of REJECT remain, no loaf is routed (the other case is WaitingLoafIsRoutedAgain's), and but for the hold and the
notices nothing else changes. Where the record was the last of a DRAINING line, the line is STOPPED (R142). -/
def Obligations.RejectEdgeRejectsOldest : Prop :=
  ∀ (r : Loaf) (m : Mark) (s : State), Held s .rejectEye → oldestIn s .reject = some r → r.mark = some m → BeltRuns s →
    let u := { driveInput .rejectEye false s with
      track := { s.track with loaves := s.track.loaves.eraseP (fun l => decide (l.tag = r.tag)) }
      shift := { s.shift with openRecord := { s.shift.openRecord with
        rejected := s.shift.openRecord.rejected.add m
        lines := countLine (r.snapshot.map Snapshot.slot) (fun l => { l with rejected := min (l.rejected + 1) 4294967295 })
          s.shift.openRecord.lines } } }
    ∃ t, exec .rejectEyeTrailingEdge s = .next t ∧ Aside u t ∧ t.track.loaves.map Loaf.tag = u.track.loaves.map Loaf.tag ∧
      t.shift.openRecord.lines = u.shift.openRecord.lines ∧ (Listening s → Report.rejected r.tag (some m) ∈ t.link.queue) ∧
      ((∃ q ∈ u.track.loaves, q.zone = .reject) → Noticed (holdSet (holdOwed u) u) t) ∧
      (s.sup.line = .draining → u.track.loaves = [] →
        t.sup.line = .stopped ∧ t.track.loaves = [] ∧ t.track.infeedHold = true ∧ t.head.knife = false ∧
        (Listening s → Report.line .stopped ∈ t.link.queue))

/-- R17: an edge on EXIT_EYE or REJECT_EYE that finds no candidate is a stray edge: STRAY_EDGE is present after it, reported where it was
not (R152), and no record changes; a leading edge that finds one ends the warning and changes no record either. -/
def Obligations.StrayEdges : Prop :=
  ∀ s : State,
    let strays := fun t : State => t.track = s.track ∧ (warnEntry t .strayEdge).present = true ∧
      (Listening s → (warnEntry s .strayEdge).present = false →
        (warnEntry t .strayEdge).indication = true ∧ Report.warning .strayEdge true ∈ t.link.queue)
    (∀ eye, Held s (eyeFunction eye) → ∃ t, exec (.exitRejectLeadingEdge eye) s = .next t ∧ t.track = s.track ∧
      ((∀ r ∈ s.track.loaves, r.zone ≠ eyeZone eye) → strays t) ∧
      ((∃ r ∈ s.track.loaves, r.zone = eyeZone eye) → (warnEntry t .strayEdge).present = false)) ∧
    (Held s .exitEye → (∀ r ∈ s.track.loaves, r.zone ≠ .outfeed) → ∃ t, exec .exitEyeTrailingEdge s = .next t ∧ strays t) ∧
    (Held s .rejectEye → (∀ r ∈ s.track.loaves, r.zone ≠ .reject) → ∃ t, exec .rejectEyeTrailingEdge s = .next t ∧ strays t)

/-- R10, R88, R144: a step of the belt encoder moves the belt count by one, the remaining count of every armed check and the travel count of
every station with net forward travel (a count that has run out waits for its expiry: log entry 7), and starts the belt watch again while
INFEED_HOLD is released; nothing else changes while BELT_STALL is not ACTIVE. An ACTIVE one whose hold is released becomes LATCHED. R144,
R146, R152: when the belt watch expires BELT_STALL is an occurrence, reported as #F, and its action moves the line; with the infeed held
by that the entry becomes LATCHED. At each of the two transitions the action in force is applied. That a watch which does not run does
nothing is the model's own (log entry 4). -/
def Obligations.BeltStepsAndStalls : Prop :=
  ∀ s : State,
    let action := (faultEntry s .beltStall).action
    let raised := min ((faultEntry s .beltStall).count + 1) 255
    (∀ forward : Bool, ∃ t, exec (.beltEncoderStep forward) s = .next t ∧
      (BeltRuns s → Noticed
        (let after := fun n : Nat => if n = 0 then 0 else if forward then n - 1 else n + 1
         { s with
           track := { s.track with
             beltCount := if forward then s.track.beltCount + 1 else s.track.beltCount - 1
             loaves := s.track.loaves.map fun r => { r with check := r.check.map fun c => { c with remaining := after c.remaining } } }
           stations := { s.stations with recs :=
             ⟨{ s.stations.recs.a with travel := s.stations.recs.a.travel.map after },
               { s.stations.recs.b with travel := s.stations.recs.b.travel.map after }⟩ }
           sup := { s.sup with beltWatch := if s.track.infeedHold then s.sup.beltWatch else true } }) t) ∧
      ((faultEntry s .beltStall).state = .active → s.track.infeedHold = false →
        (faultEntry t .beltStall).state = .latched ∧ ActedOnLine action s t)) ∧
    (s.sup.beltWatch = false → exec .beltWatchExpiry s = .next s) ∧
    (s.sup.beltWatch = true → BeltRuns s → ∃ t, exec .beltWatchExpiry s = .next t ∧ Aside s t ∧ t.sup.beltWatch = false ∧
      (faultEntry t .beltStall).count = raised ∧ (faultEntry t .beltStall).state ≠ .inactive ∧
      (Listening s → Report.fault .beltStall .active raised ∈ t.link.queue) ∧ ActedOnLine action s t ∧
      (action = .halt → s.sup.line ≠ .halted → HaltedFrom s t) ∧
      (t.track.infeedHold = true → (faultEntry t .beltStall).state = .latched))

/-- R6, R10, R13, R14, R146: a check that has run out raises its fault once, with the record's tag as the loaf: JAM_INFEED for LENGTH and STOP,
REJECT_MISSED for REJECT, JAM_OUTFEED for EXIT; the fault is stamped and counted (R143), reported (R152), and the first-fault record written
where no fault stands (R149). The record stays in its zone and carries no check. The action in force moves the line (R146), HOLD a RUNNING one
to DRAINING with the infeed held; where it is HALT the line has entered
HALTED, with all that R75, R94 and R120 say of it. That a check not run out raises nothing is log entry 4, and that a count of 0 waits for
this expiry log entry 7, both the model's own. -/
def Obligations.ExpiredCheckRaisesFault : Prop :=
  ∀ (kind : CheckKind) (tag : Nat) (s : State),
    (∀ r ∈ findLoaf s tag, r.check = some ⟨kind, 0⟩ →
      let raised := min ((faultEntry s (jamOf kind)).count + 1) 255
      ∃ t, exec (expiryOf kind tag) s = .next t ∧ Aside s t ∧
        (∃ q ∈ findLoaf t tag, q.zone = r.zone ∧ q.check = none) ∧
        (faultEntry t (jamOf kind)).state = .latched ∧ (faultEntry t (jamOf kind)).lastLoaf = some tag ∧
        (faultEntry t (jamOf kind)).count = raised ∧ (faultEntry t (jamOf kind)).lastStamp = some ⟨s.shift.clock, s.head.stamp⟩ ∧
        ((∀ k, (faultEntry s k).state = .inactive) →
          t.sup.firstFault = some ⟨jamOf kind, ⟨s.shift.clock, s.head.stamp⟩, some tag, s.sup.line⟩) ∧
        ((∃ k, (faultEntry s k).state ≠ .inactive) → t.sup.firstFault = s.sup.firstFault) ∧
        (Listening s → Report.fault (jamOf kind) .latched raised ∈ t.link.queue) ∧
        ((faultEntry s (jamOf kind)).action = .halt → s.sup.line ≠ .halted →
          HaltedFrom s t ∧ (Listening s → Report.line .halted ∈ t.link.queue)) ∧
        (BeltRuns s → ActedOnLine (faultEntry s (jamOf kind)).action s t)) ∧
    ((∀ r ∈ findLoaf s tag, r.check ≠ some ⟨kind, 0⟩) → exec (expiryOf kind tag) s = .next s)

/-! ## The recipe table, the locks and the planner -/

/-- R24 to R28: WRITE RECIPE on a slot that is not locked, or on a locked one for ENGINEER outside an enforced lockdown, makes the slot
VALID with the fields given and keeps its lock flag; ERASE under the same terms makes a VALID slot that is not the run recipe EMPTY. A
locked slot under an enforced lockdown is refused with LOCKED, the run recipe with IN_USE. Nothing else changes. That ERASE's reply has no
field is the model's own (log entry 18). -/
def Obligations.RecipeSlotsFollowRequests : Prop :=
  ∀ (i : Slot) (name : Text) (f : Figures) (s : State), Free s → tierOk s .setter = true →
    let locked := (s.recipes.slots[i]).any Recipe.locked
    let ranged := ((60 ≤ f.thickness ∧ f.thickness ≤ 250) ∧ (30 ≤ f.heel ∧ f.heel ≤ 150) ∧ (4 ≤ f.maxSlices ∧ f.maxSlices ≤ 40) ∧
      (1000 ≤ f.minLength ∧ f.minLength ≤ 6000) ∧ (f.minLength ≤ f.maxLength ∧ f.maxLength ≤ 7000)) ∧
      (f.crumb ≤ 255 ∧ f.bagClass ≤ 3 ∧ (s.options.printer = true → f.shelfDays ≤ 30) ∧ f.clearBefore ≤ 1) ∧
      (1 ≤ name.length ∧ name.length ≤ 8)
    let stored := { f with shelfDays :=
      if s.options.printer then f.shelfDays else ((s.recipes.slots[i]).map fun r => r.figures.shelfDays).getD 0 }
    let shown := { f with shelfDays := if s.options.printer then f.shelfDays else 0 }
    let fill := fun r => { s with recipes := { s.recipes with slots := s.recipes.slots.set i r } }
    let open' := locked = false ∨ (tierOk s .engineer = true ∧ (s.recipes.lockdown = false ∨ s.recipes.bypass = true))
    (open' → ranged → exec (.writeRecipe (some ⟨i.val, name, f⟩)) s = .next (answered
      (accepted "WRITE RECIPE" (decimal i.val :: name ::
        [shown.thickness, shown.heel, shown.maxSlices, shown.minLength, shown.maxLength, shown.crumb, shown.bagClass, shown.shelfDays,
          shown.clearBefore].map decimal))
      (fill (some ⟨name, stored, locked⟩)))) ∧
    (open' → ¬ranged → exec (.writeRecipe (some ⟨i.val, name, f⟩)) s = .next (answered (refusal .range) s)) ∧
    (open' → s.recipes.slots[i] ≠ none → s.recipes.runRecipe ≠ some i →
      exec (.erase (some i.val)) s = .next (answered (accepted "ERASE" []) (fill none))) ∧
    (open' → s.recipes.slots[i] ≠ none → s.recipes.runRecipe = some i →
      exec (.erase (some i.val)) s = .next (answered (refusal .inUse) s)) ∧
    (s.recipes.slots[i] = none → exec (.erase (some i.val)) s = .next (answered (refusal .noSuch) s)) ∧
    (locked = true → tierOk s .engineer = true → s.recipes.lockdown = true → s.recipes.bypass = false →
      exec (.writeRecipe (some ⟨i.val, name, f⟩)) s = .next (answered (refusal .locked) s) ∧
        exec (.erase (some i.val)) s = .next (answered (refusal .locked) s))

/-- R30, R35 to R39: what RUN, LOCK, UNLOCK, BYPASS ON, BYPASS OFF and LOCKDOWN set, and that nothing else changes; when RUN, UNLOCK and
BYPASS ON are refused with LOCKED. RUN, LOCK and UNLOCK of a slot above 15 are refused with RANGE, at any tier, and of an EMPTY slot with
NO_SUCH, LOCK and UNLOCK at ENGINEER. That their replies have no field is the model's own (log entry 18). -/
def Obligations.LocksAndRunRecipe : Prop :=
  ∀ s : State, Free s →
    (∀ n, 15 < n → ∀ c ∈ [Instr.run (some n), .lock (some n), .unlock (some n)], exec c s = .next (answered (refusal .range) s)) ∧
    (∀ i : Slot, s.recipes.slots[i] = none →
      exec (.run (some i.val)) s = .next (answered (refusal .noSuch) s) ∧
      (tierOk s .engineer = true →
        exec (.lock (some i.val)) s = .next (answered (refusal .noSuch) s) ∧
        exec (.unlock (some i.val)) s = .next (answered (refusal .noSuch) s))) ∧
    ∀ (i : Slot) (r : Recipe), s.recipes.slots[i] = some r →
    let access := fun a : Recipes => { s with recipes := a }
    let relock := fun b => s.recipes.slots.set i (some { r with locked := b })
    (s.recipes.lockdown = false ∨ r.locked = true →
      exec (.run (some i.val)) s = .next (answered (accepted "RUN" []) (access { s.recipes with runRecipe := some i }))) ∧
    (s.recipes.lockdown = true → r.locked = false → exec (.run (some i.val)) s = .next (answered (refusal .locked) s)) ∧
    (tierOk s .engineer = true →
      exec (.lock (some i.val)) s = .next (answered (accepted "LOCK" [])
        (access { s.recipes with slots := relock true, frozen := if s.recipes.bypass then s.recipes.frozen else true })) ∧
      (s.recipes.lockdown = false ∨ s.recipes.bypass = true →
        exec (.unlock (some i.val)) s = .next (answered (accepted "UNLOCK" []) (access { s.recipes with slots := relock false }))) ∧
      (s.recipes.lockdown = true → s.recipes.bypass = false → exec (.unlock (some i.val)) s = .next (answered (refusal .locked) s)) ∧
      (s.recipes.frozen = false →
        exec (.bypassOn (some ())) s = .next (answered (accepted "BYPASS ON" []) (access { s.recipes with bypass := true }))) ∧
      (s.recipes.frozen = true → exec (.bypassOn (some ())) s = .next (answered (refusal .locked) s)) ∧
      (∃ b, exec (.bypassOff (some ())) s =
          .next (answered (accepted "BYPASS OFF" []) (access { s.recipes with bypass := false, frozen := b })) ∧
        (b = true ↔ s.recipes.frozen = true ∨ ∃ (j : Slot) (q : Recipe), s.recipes.slots[j] = some q ∧ q.locked = true)) ∧
      exec (.lockdown (some ())) s = .next (answered (accepted "LOCKDOWN" []) (access { s.recipes with lockdown := true })))

/-- R46: the length in units is L x 1000 and half the pitch, divided by the pitch k, in full range: 1 at L = 1 and k = 2000, 327675 at L =
65535 and k = 200. R47 to R51: the plan of a loaf inside the band of a recipe in range: the body count with the reduction to the recipe's greatest number
of pieces, the heels, the cuts and their pusher targets, the eject target, and the bounds each rule names. -/
def Obligations.PlanArithmetic : Prop :=
  ((∀ l k, unitsOf l k = (l * 1000 + k / 2) / k) ∧
    (∀ l k, 1 ≤ l → l ≤ 65535 → 200 ≤ k → k ≤ 2000 → 1 ≤ unitsOf l k ∧ unitsOf l k ≤ 327675) ∧
    unitsOf 1 2000 = 1 ∧ unitsOf 65535 200 = 327675 ∧ unitsOf 3302 800 = 4128) ∧
  ∀ (f : Figures) (lmm kp : Nat), figuresInRange true f = true → f.minLength ≤ lmm → lmm ≤ f.maxLength → 500 ≤ kp → kp ≤ 4000 →
    let p := planOf f lmm kp
    let body := lmm - 2 * f.heel
    let pos := fun i => p.leadHeel + (i - 1) * f.thickness
    700 ≤ body ∧ f.thickness ≤ body ∧
    p.n = (if f.maxSlices < body / f.thickness + 2 then f.maxSlices - 2 else body / f.thickness) ∧
    2 ≤ p.n ∧ p.n ≤ 38 ∧ p.n + 2 ≤ f.maxSlices ∧
    p.leadHeel = f.heel + (body - p.n * f.thickness) / 2 ∧
    p.trailHeel = f.heel + (body - p.n * f.thickness) - (body - p.n * f.thickness) / 2 ∧
    p.leadHeel + p.n * f.thickness + p.trailHeel = lmm ∧ f.heel ≤ p.leadHeel ∧
    (p.trailHeel = p.leadHeel ∨ p.trailHeel = p.leadHeel + 1) ∧ p.trailHeel ≤ 3440 ∧
    (body / f.thickness + 2 ≤ f.maxSlices → p.leadHeel < f.heel + f.thickness ∧ p.trailHeel < f.heel + f.thickness) ∧
    p.cutCount = p.n + 1 ∧ p.targets.length = p.n + 1 ∧ pos (p.n + 1) = lmm - p.trailHeel ∧ 30 ≤ pos 1 ∧ pos (p.n + 1) ≤ 6970 ∧
    (∀ i, 1 ≤ i → i ≤ p.n + 1 → p.targets[i - 1]? = some ((pos i * kp + 500) / 1000)) ∧
    (∀ i, 1 ≤ i → i ≤ p.n → (pos i * kp + 500) / 1000 < (pos (i + 1) * kp + 500) / 1000) ∧
    15 ≤ (pos 1 * kp + 500) / 1000 ∧ (pos (p.n + 1) * kp + 500) / 1000 ≤ 27880 ∧
    p.ejectTarget = ((lmm + 200) * kp + 500) / 1000 ∧ (pos (p.n + 1) * kp + 500) / 1000 + 115 ≤ p.ejectTarget ∧ p.ejectTarget ≤ 28800

/-- R55: TRY PLAN changes no state; it answers the mark of the band test, or the plan with a line for each cut and one for the eject target,
for the length given in units or, with COUNTS, converted with the pitch in force. An EMPTY slot is refused with NO_SUCH, a slot or a length
out of range with RANGE. -/
def Obligations.TryPlanAnswersPlan : Prop :=
  ∀ (w : PlanTrial) (s : State), Free s →
    (w.slot ≤ 15 → 1 ≤ w.length → w.length ≤ 65535 →
      (s.recipes.slots[slotOf w.slot] = none → exec (.tryPlan (some w)) s = .next (answered (refusal .noSuch) s)) ∧
      (∀ r, s.recipes.slots[slotOf w.slot] = some r →
        let lmm := if w.inCounts then unitsOf w.length s.track.geometry.k else w.length
        let p := planOf r.figures lmm s.track.geometry.kp
        (lmm < r.figures.minLength → exec (.tryPlan (some w)) s = .next (answered
          (multiLine "TRY PLAN" [decimal lmm, codes "SHORT", absentText, absentText, absentText, absentText] []) s)) ∧
        (r.figures.minLength ≤ lmm → r.figures.maxLength < lmm → exec (.tryPlan (some w)) s = .next (answered
          (multiLine "TRY PLAN" [decimal lmm, codes "DOUBLE", absentText, absentText, absentText, absentText] []) s)) ∧
        (r.figures.minLength ≤ lmm → lmm ≤ r.figures.maxLength → exec (.tryPlan (some w)) s = .next (answered
          (multiLine "TRY PLAN"
            [decimal lmm, absentText, decimal p.n, decimal p.leadHeel, decimal p.trailHeel, decimal p.cutCount]
            (((List.range p.cutCount).map fun j => [decimal (j + 1), decimal (p.leadHeel + j * r.figures.thickness),
              decimal (((p.leadHeel + j * r.figures.thickness) * s.track.geometry.kp + 500) / 1000)]) ++
              [[codes "EJECT", decimal p.ejectTarget]])) s)))) ∧
    (15 < w.slot ∨ w.length = 0 ∨ 65535 < w.length → exec (.tryPlan (some w)) s = .next (answered (refusal .range) s))

/-! ## The slicing head -/

/-- R60, R65, R111, R160: a CUT begin with the context ADVANCING and the pusher within 2 counts of its target counts the cut: cuts done, the
next cut, CUTTING, the stamp, both crumb loads, the slices of the loaf's line; the last cut of the plan ends the run of miscuts and the
warning MISCUT (R69). A blade load at or above its threshold starts bursting, and one between half of it and it leaves bursting as it was
(R112). A tray load that comes to its threshold makes THRESHOLD pending where no sweep is (R113), and CRUMB_HIGH is present exactly at or
above twice the threshold, or 65535, and reported where it comes (R111, R152). The stall timer and the phase's timing are those of
BladeTimesRevolutions. No other record and nothing of the stations, the tyers, the line or the faults changes. -/
def Obligations.CutIsCounted : Prop :=
  ∀ (elapsed i : Nat) (r : Loaf) (s : State), s.head.knife = true → s.head.state = .advancing → headLoaf s = some r →
    s.head.nextCut = some i → (s.head.pusher - s.head.target).natAbs ≤ 2 →
    let c := (r.snapshot.map fun v => v.figures.crumb).getD 0
    let blade := min (s.crumb.bladeLoad + c) 65535
    let tray := min (s.crumb.trayLoad + c) 65535
    let last := r.plan.any fun p => decide (p.cutCount = i)
    ∃ t, exec (.cutBegin elapsed) s = .next t ∧
      t.track = (modifyLoaf r.tag (fun l => { l with cutsDone := some i }) s).track ∧
      t.head = { s.head with
        phaseInput := true, phase := .cut, stamp := s.head.stamp + 1, cutTime := none
        previous := (match s.head.phase, s.head.cutTime with
          | .ret, some c => some (c, elapsed)
          | _, _ => s.head.previous)
        stallTimer := t.head.stallTimer, state := .cutting, nextCut := some (i + 1), miscuts := if last then 0 else s.head.miscuts } ∧
      (last = true → (warnEntry t .miscut).present = false) ∧
      t.crumb = { s.crumb with
        airKnife := false, bladeLoad := blade, trayLoad := tray, bursting := t.crumb.bursting
        pending := if s.crumb.trayLoad < s.crumb.settings.trayThreshold ∧ s.crumb.settings.trayThreshold ≤ tray then
          some (s.crumb.pending.getD .threshold) else s.crumb.pending } ∧
      (s.crumb.settings.bladeThreshold ≤ blade → t.crumb.bursting = true) ∧
      (blade < s.crumb.settings.bladeThreshold → s.crumb.settings.bladeThreshold / 2 ≤ blade → t.crumb.bursting = s.crumb.bursting) ∧
      (warnEntry t .crumbHigh).present = decide (min (2 * s.crumb.settings.trayThreshold) 65535 ≤ tray) ∧
      (Listening s → (warnEntry s .crumbHigh).present = false → (warnEntry t .crumbHigh).present = true →
        Report.warning .crumbHigh true ∈ t.link.queue) ∧
      t.shift = { s.shift with openRecord := { s.shift.openRecord with
        lines := countLine (r.snapshot.map Snapshot.slot) (fun l => { l with slices := min (l.slices + 1) 4294967295 })
          s.shift.openRecord.lines } } ∧
      t.stations = s.stations ∧ t.tyers = s.tyers ∧ t.recipes = s.recipes ∧ t.points = s.points ∧ t.sup.line = s.sup.line ∧
      t.sup.faults = s.sup.faults

/-- R67 to R69: a CUT begin with the context ADVANCING and the pusher out of position is a miscut: the record is marked MISCUT unless it
carries a mark, no cut is counted, and the loaf is abandoned, sliced ones through EJECTING, uncut ones through PASSING with the blade
released. The warning MISCUT is present, and reported where it comes (R152). The third in a row clears the count and raises PUSHER_FAULT
with the loaf, reported as #F; where its action is HALT the line is HALTED with the context INTERRUPTED (R75). That PASSING has the eject
target from its entry is the model's reading (log entry 24). -/
def Obligations.MiscutAbandonsLoaf : Prop :=
  ∀ (elapsed i : Nat) (r : Loaf) (s : State), s.head.knife = true → s.head.state = .advancing → headLoaf s = some r →
    s.head.nextCut = some i → 2 < (s.head.pusher - s.head.target).natAbs →
    let raised := min ((faultEntry s .pusherFault).count + 1) 255
    ∃ t, exec (.cutBegin elapsed) s = .next t ∧ Aside s t ∧
      (∃ q ∈ t.track.loaves, q = { r with mark := r.mark.or (some .miscut) }) ∧ t.crumb.trayLoad = s.crumb.trayLoad ∧
      t.shift.openRecord.lines = s.shift.openRecord.lines ∧ t.head.stamp = s.head.stamp + 1 ∧ (warnEntry t .miscut).present = true ∧
      (Listening s → (warnEntry s .miscut).present = false → Report.warning .miscut true ∈ t.link.queue) ∧
      (s.head.miscuts < 2 → t.head.miscuts = s.head.miscuts + 1 ∧ t.head.target = ejectTargetOf s r ∧ t.sup.faults = s.sup.faults ∧
        t.sup.line = s.sup.line ∧
        (1 ≤ r.cutsDone.getD 0 → t.head.state = .ejecting ∧ t.head.knife = true) ∧
        (r.cutsDone.getD 0 = 0 → t.head.state = .passing ∧ t.head.knife = false)) ∧
      (2 ≤ s.head.miscuts → t.head.miscuts = 0 ∧ (faultEntry t .pusherFault).state = .latched ∧
        (faultEntry t .pusherFault).lastLoaf = some r.tag ∧ (faultEntry t .pusherFault).count = raised ∧
        (Listening s → Report.fault .pusherFault .latched raised ∈ t.link.queue) ∧
        ((faultEntry s .pusherFault).action = .halt → s.sup.line ≠ .halted →
          t.sup.line = .halted ∧ t.head.state = .interrupted ∧ t.head.tag = s.head.tag ∧ t.head.knife = false))

/-- R60, R61, R112, R128 to R131: how PHASE edges time the blade, whatever the context then does with the begin. With KNIFE_RUN released an
edge changes nothing but the input's level; a RETURN begin before the first CUT begin leaves the blade and measurement as they stand. At a CUT begin the stamp moves on, the
previous durations are those of a revolution taken whole, the stall timer starts at twice their sum or at 1000 ms, and the air knife is off;
at a RETURN begin the CUT duration is taken, and a bursting blade gets a pulse that lowers the blade load and is counted. Measurement drops
what the ended phase left, and with the blade starting to turn the idle timer and the scan; then the mode fixes the phase's timing: CENTRE,
or HYBRID below the hybrid period, starts half the previous duration of this kind of phase, all else the edge delay. A delay of 0 falls due
at once (log entry 44), and the free converter starts at that event (log entry 21). That a RETURN begin in a RETURN phase is taken as
another begin of one, its CUT duration kept, is the model's own (log entry 11). A CUT begin whose miscut releases the blade leaves it IDLE
with the idle timer started and nothing of the phase due. A context that waits for neither edge changes nothing more. -/
def Obligations.BladeTimesRevolutions : Prop :=
  ∀ (elapsed : Nat) (s : State),
    let ended := { s.meas with centreTimer := none, centreDue := false, edgeTimer := none, edgeRun := false }
    let centred := fun v : Nat × Nat => s.meas.sampling.mode = .centre ∨
      (s.meas.sampling.mode = .hybrid ∧ v.1 + v.2 < s.meas.sampling.hybridPeriod * 1000)
    (s.head.knife = false →
      exec (.cutBegin elapsed) s = .next { s with head := { s.head with phaseInput := true } } ∧
        exec (.returnBegin elapsed) s = .next { s with head := { s.head with phaseInput := false } }) ∧
    (s.head.knife = true →
      let previous := match s.head.phase, s.head.cutTime with
        | .ret, some c => some (c, elapsed)
        | _, _ => s.head.previous
      let stall := some (match previous with
        | some (c, r) => 2 * (c + r)
        | none => 1000000)
      ∃ t, exec (.cutBegin elapsed) s = .next t ∧ t.head.phaseInput = true ∧ t.head.stamp = s.head.stamp + 1 ∧ t.head.cutTime = none ∧
        t.crumb.airKnife = false ∧
        (s.head.state ≠ .advancing ∨ (s.head.pusher - s.head.target).natAbs ≤ 2 → t.head.knife = true) ∧
        (t.head.knife = true → t.head.phase = .cut ∧ t.head.previous = previous ∧ t.head.stallTimer = stall ∧
          phaseTimed (if s.head.phase = .idle then { ended with idleTimer := false, scan := [] } else ended)
            (previous.bind fun v => if centred v then some (v.1 / 2) else none) .cut (s.head.stamp + 1) t.meas) ∧
        (t.head.knife = false → t.head.phase = .idle ∧ t.head.previous = none ∧ t.head.stallTimer = none ∧ t.meas.idleTimer = true ∧
          t.meas.scan = [] ∧ t.meas.centreTimer = none ∧ t.meas.centreDue = false ∧ t.meas.edgeTimer = none ∧ t.meas.edgeRun = false) ∧
        (s.head.state ≠ .advancing → Noticed
          { s with
            head := { s.head with
              phaseInput := true, phase := .cut, stamp := s.head.stamp + 1, cutTime := none, previous := previous, stallTimer := stall }
            crumb := { s.crumb with airKnife := false }
            meas := t.meas } t)) ∧
    (s.head.knife = true →
      let burst := { s.crumb with airKnife := true, bladeLoad := s.crumb.bladeLoad - s.crumb.settings.step }
      let head := { s.head with
        phaseInput := false, phase := .ret, cutTime := if s.head.phase = .cut then some elapsed else s.head.cutTime }
      let crumb := if s.head.phase ≠ .idle ∧ s.crumb.bursting = true then
        { burst with bursting := decide (burst.settings.bladeThreshold / 2 ≤ burst.bladeLoad) } else s.crumb
      let bursts := if s.head.phase ≠ .idle ∧ s.crumb.bursting = true then min (s.shift.openRecord.bursts + 1) 4294967295
        else s.shift.openRecord.bursts
      ∃ t, exec (.returnBegin elapsed) s = .next t ∧ t.head.phaseInput = false ∧ t.head.stamp = s.head.stamp ∧ t.head.knife = true ∧
        t.head.previous = s.head.previous ∧ t.head.stallTimer = s.head.stallTimer ∧ t.crumb = crumb ∧
        t.shift.openRecord.bursts = bursts ∧
        (s.head.phase = .idle → t.head.phase = .idle ∧ t.head.cutTime = s.head.cutTime ∧ t.meas = s.meas) ∧
        (s.head.phase ≠ .idle → t.head.phase = .ret ∧ t.head.cutTime = head.cutTime ∧
          phaseTimed ended (s.head.previous.bind fun v => if centred v then some (v.2 / 2) else none) .ret s.head.stamp t.meas) ∧
        (s.head.state ≠ .entering → s.head.state ≠ .cutting → Noticed
          { s with
            head := if s.head.phase = .idle then { s.head with phaseInput := false } else head
            crumb := crumb
            shift := { s.shift with openRecord := { s.shift.openRecord with bursts := bursts } }
            meas := t.meas } t))

/-- R64, R66: a RETURN begin takes the context from ENTERING or CUTTING to ADVANCING at the target of the next cut, or to EJECTING at the
eject target once the plan's cuts are done and the pusher has not yet reached it; no record changes. That a context in ENTERING whose cuts
are all done goes to EJECTING as one in CUTTING does is the model's reading (log entry 22). -/
def Obligations.ReturnAdvancesContext : Prop :=
  ∀ (elapsed i : Nat) (r : Loaf) (p : Plan) (s : State), s.head.knife = true → (s.head.state = .entering ∨ s.head.state = .cutting) →
    headLoaf s = some r → r.plan = some p → s.head.nextCut = some i →
    ∃ t, exec (.returnBegin elapsed) s = .next t ∧ Aside s t ∧
      (∀ target, p.targets[i - 1]? = some target → t.track = s.track ∧ t.head.state = .advancing ∧ t.head.target = target ∧
        t.head.nextCut = some i ∧ t.head.tag = s.head.tag ∧ t.head.knife = true) ∧
      (p.targets[i - 1]? = none → 2 < (s.head.pusher - (p.ejectTarget : Int)).natAbs →
        t.track = s.track ∧ t.head.state = .ejecting ∧ t.head.target = p.ejectTarget ∧ t.head.knife = true)

/-- R58, R70 to R72, R84, R85: a step of the pusher encoder moves the pusher count by one. Where that brings an EJECTING or PASSING loaf to
its target with TRANSFER empty, the loaf leaves the slicer with its eject count, the context enters HOMING, after a pass-through of a moving
line the blade is engaged again, and outside HALTED the gate decision sends a marked record to REJECT with its check armed, an unmarked one
to the station its policy chooses. Short of the target, or with TRANSFER occupied, only the count changes. Where a step brings a HOMING
pusher home, or one that stood away in EMPTY, the context is EMPTY and the head is free: a pending sweep starts where it may (R117), and
where none starts the admission test is made on the oldest INFEED record (R62, R114), by the rules of StopEdgePresentsLoaf. In every other
case only the count changes. That a stroke ends at its target whatever PARK says, also where it was in position before the step, and that
TRANSFER occupied keeps a PASSING loaf there, is the model's reading (log entry 25), and so is that PASSING has the eject target from its
entry (log entry 24) and that the test admits nothing while the line stands (log entry 38). -/
def Obligations.PusherStepMovesContext : Prop :=
  ∀ (forward : Bool) (s : State),
    let count := if forward then s.head.pusher + 1 else s.head.pusher - 1
    let drives := s.head.state = .ejecting ∨ s.head.state = .passing
    let clear := ∀ q ∈ s.track.loaves, q.zone ≠ .transfer
    let arrives := s.head.state = .homing ∨ (s.head.state = .empty ∧ 2 < s.head.pusher.natAbs)
    let home := if s.head.state = .homing then
      { s.head with pusher := count, state := .empty, tag := none, nextCut := none, target := 0, pausedFrom := none }
      else { s.head with pusher := count }
    let sweeps := s.crumb.pending ≠ none ∧ s.crumb.sweep = none ∧ (∀ q ∈ s.track.loaves, q.zone ≠ .slicer) ∧
      (faultEntry s .trayFull).state = .inactive ∧ (faultEntry s .vacuumFail).state = .inactive ∧ s.sup.line ≠ .halted
    ∃ t, exec (.pusherEncoderStep forward) s = .next t ∧
      (¬drives → ¬arrives → Noticed { s with head := { s.head with pusher := count } } t) ∧
      (drives → 2 < (count - s.head.target).natAbs ∨ ¬clear → Noticed { s with head := { s.head with pusher := count } } t) ∧
      (∀ r ∈ headLoaf s, drives → r.zone = .slicer → (count - s.head.target).natAbs ≤ 2 → clear → s.sup.line ≠ .halted →
        Aside s t ∧ t.head.pusher = count ∧ t.head.state = .homing ∧ t.head.tag = none ∧ t.head.target = 0 ∧
        (s.head.state = .passing → s.head.knife = false → s.sup.line = .running ∨ s.sup.line = .draining →
          t.head.knife = true ∧ t.head.stallTimer = some 1000000) ∧
        (r.mark ≠ none → t.track = (modifyLoaf r.tag (fun l => { l with
          zone := .reject, ejectCount := some s.track.beltCount
          check := some ⟨.reject, (s.track.geometry.dReject + 200) * s.track.geometry.k / 100⟩ }) s).track) ∧
        (∀ cls ∈ r.bagClass, ∀ x, r.mark = none → (∀ q ∈ s.track.loaves, q.zone ≠ .reject) → chooseStation s cls = some x →
          t.track = (modifyLoaf r.tag (fun l => { l with
            zone := .station x, ejectCount := some s.track.beltCount, station := some x }) s).track ∧
          (stationRec t x).state = .filling ∧ (stationRec t x).tag = some r.tag ∧
          (stationRec t x).travel = some (s.track.geometry.dTransfer * s.track.geometry.k / 100) ∧ t.stations.lastAssigned = x ∧
          t.stations.stationGate = (if s.member = .bl340 then decide (x = .b) else s.stations.stationGate))) ∧
      (arrives → 2 < count.natAbs → Noticed { s with head := { s.head with pusher := count } } t) ∧
      (arrives → count.natAbs ≤ 2 →
        (s.crumb.pending = none → inputHigh s .stopEye = false ∨ oldestIn s .infeed = none → Noticed { s with head := home } t) ∧
        (sweeps → Noticed { s with
          head := home
          crumb := { s.crumb with
            sweep := some ⟨s.crumb.settings.sweepTime, s.crumb.settings.pressure, false, true, true, none⟩ } } t) ∧
        (∀ r ∈ oldestIn s .infeed, s.crumb.pending = none ∨ s.crumb.sweep ≠ none ∨ Suspended s → BeltRuns s →
          AdmissionTested r { s with head := home } t))

/-- R58, R61: a change of PARK is taken into the head's state as the input's level and changes nothing else. When the stall timer expires,
BLADE_STALL is raised with the loaf in the slicer and reported (R152); where its action is HALT the line has entered HALTED, with all that
R75, R94 and R120 say of it. That a timer which does not run does nothing is the model's own (log entry 4). -/
def Obligations.ParkAndStallTimer : Prop :=
  ∀ (high : Bool) (s : State),
    let raised := min ((faultEntry s .bladeStall).count + 1) 255
    exec (.parkChange high) s = .next { s with head := { s.head with park := high } } ∧
    (s.head.stallTimer = none → exec .stallTimerExpiry s = .next s) ∧
    (s.head.stallTimer ≠ none → ∃ t, exec .stallTimerExpiry s = .next t ∧ Aside s t ∧ t.head.stallTimer = none ∧
      (faultEntry t .bladeStall).state = .latched ∧ (faultEntry t .bladeStall).lastLoaf = s.head.tag ∧
      (faultEntry t .bladeStall).count = raised ∧
      (Listening s → Report.fault .bladeStall .latched raised ∈ t.link.queue) ∧
      ((faultEntry s .bladeStall).action = .halt → s.sup.line ≠ .halted →
        HaltedFrom s t ∧ (Listening s → Report.line .halted ∈ t.link.queue)))

/-! ## The stations and the tyers -/

/-- R83, R80, R105: LOAD BAGS replaces the magazine by the count clamped to 0 to 9999; an EMPTY station given a bag opens and draws it. LOAD
CLIPS replaces the spool by the length clamped to 0 to 999999 and ends the clips-out condition, so that an ACTIVE CLIPS_OUT_x becomes
LATCHED and its action is applied (R146). With no loaf waiting for a station nothing else changes but the notices. -/
def Obligations.LoadsReplaceStock : Prop :=
  ∀ (x : Station) (n : Nat) (s : State), Free s → stationFitted s.member x = true → (∀ r ∈ s.track.loaves, r.zone ≠ .transfer) →
    s.head.state ≠ .ejecting → s.head.state ≠ .passing →
    let rec' := stationRec s x
    ((rec'.state ≠ .empty ∨ n = 0) →
      ∃ t, exec (.loadBags (some ⟨x, n⟩)) s = .next (answered
          (accepted "LOAD BAGS" [codes (stationText x), decimal (min 9999 n), codes (stationStateText rec'.state)]) t) ∧
        Noticed (setStation x { rec' with magazine := min 9999 n } s) t) ∧
    (rec'.state = .empty → 1 ≤ n → rec'.held = false → s.sup.line ≠ .halted → Held s (.bagEye x) → Held s (.blower x) →
        inputHigh s (.bagEye x) = false →
      ∃ t, exec (.loadBags (some ⟨x, n⟩)) s = .next (answered
          (accepted "LOAD BAGS" [codes (stationText x), decimal (min 9999 n), codes "OPENING"]) t) ∧
        Noticed (countStation x (fun c => { c with drawn := min (c.drawn + 1) 4294967295 })
          (setStation x { rec' with
            state := .opening, magazine := min 9999 n - 1, attempt := some 1, tag := none, travel := none
            bagTimer := some s.stations.times.openTimeout, scoopTimer := none, releaseTimer := none } s)) t) ∧
    (tyerFitted s x = true →
      ∃ t, exec (.loadClips (some ⟨x, n⟩)) s =
          .next (answered (accepted "LOAD CLIPS" [codes (stationText x), decimal (min 999999 n)]) t) ∧
        ((faultEntry s (.clipsOut x)).state ≠ .active →
          Noticed (setTyer x { tyerOf s x with spool := min 999999 n, clipsOut := false } s) t) ∧
        ((faultEntry s (.clipsOut x)).state = .active → Aside s t ∧ (faultEntry t (.clipsOut x)).state = .latched ∧
          (tyerOf t x).spool = min 999999 n ∧ (tyerOf t x).clipsOut = false ∧
          (BeltRuns s → ActedOnLine (faultEntry s (.clipsOut x)).action s t)))

/-- R87, R92, R96, R98, R106: what SET DISTRIBUTION, SET STATION, SET BAGGING and SET TYER set, each value clamped where its rule clamps it;
R90: a station whose flag is cleared goes OUT_OF_SERVICE at once, a bag it has drawn wasted, or keeps its loaf to the release. R91, R102:
one whose flag is set comes back where no fault hold stands: its mistie count is 0, from OUT_OF_SERVICE it opens, held while the line is
HALTED (R94), else EMPTY with magazine 0, else drawing where its two functions are held (R80, R81); with a loaf it keeps its cycle; under a
fault hold only the settings change. SET TYER leaves the stored values of an unfitted tyer and answers zeros. With no loaf waiting for a
station nothing else changes but the notices. That a station which returns with magazine 0 is EMPTY whether or not its functions are held is
the model's reading (log entry 28). That SET TYER's reply holds the five values alone is the model's own (log entry 18). -/
def Obligations.StationSettings : Prop :=
  ∀ s : State, Free s → tierOk s .setter = true → (∀ r ∈ s.track.loaves, r.zone ≠ .transfer) → s.head.state ≠ .ejecting →
    s.head.state ≠ .passing →
    (s.member = .bl340 → ∀ p, ∃ t,
      exec (.setDistribution (some (some p))) s = .next (answered (accepted "SET DISTRIBUTION" [codes (policyText p)]) t) ∧
        Noticed { s with stations := { s.stations with policy := p } } t) ∧
    (s.member = .bl320 → ∀ p, exec (.setDistribution (some p)) s = .next (answered (refusal .notFitted) s)) ∧
    (∀ x cls, stationFitted s.member x = true → cls ≤ 3 →
      let rec' := stationRec s x
      (∃ t, exec (.setStation (some ⟨x, cls, if rec'.inServiceFlag then 1 else 0⟩)) s = .next (answered
          (accepted "SET STATION" [codes (stationText x), decimal cls, decimal (if rec'.inServiceFlag then 1 else 0),
            codes (stationStateText rec'.state)]) t) ∧
        Noticed (setStation x { rec' with bagClass := cls } s) t) ∧
      (rec'.inServiceFlag = true →
        (rec'.state = .ready → ∃ t, exec (.setStation (some ⟨x, cls, 0⟩)) s = .next (answered
            (accepted "SET STATION" [codes (stationText x), decimal cls, decimal 0, codes "OUT_OF_SERVICE"]) t) ∧
          Noticed (countStation x (fun c => { c with wasted := min (c.wasted + 1) 4294967295 })
            (setStation x { rec' with
              state := .outOfService, bagClass := cls, inServiceFlag := false, tag := none, attempt := none, held := false
              bagTimer := none, travel := none, scoopTimer := none, releaseTimer := none } s)) t) ∧
        (rec'.state = .opening ∨ rec'.state = .empty → ∃ t, exec (.setStation (some ⟨x, cls, 0⟩)) s = .next (answered
            (accepted "SET STATION" [codes (stationText x), decimal cls, decimal 0, codes "OUT_OF_SERVICE"]) t) ∧
          (stationRec t x).state = .outOfService ∧ (stationRec t x).held = false ∧ (stationRec t x).attempt = none ∧
          (t.shift.openRecord.stations.get x).wasted = if rec'.state = .opening ∧ rec'.attempt ≠ none then
            min ((s.shift.openRecord.stations.get x).wasted + 1) 4294967295 else (s.shift.openRecord.stations.get x).wasted) ∧
        (rec'.state = .filling ∨ rec'.state = .tying ∨ rec'.state = .releasing →
          ∃ t, exec (.setStation (some ⟨x, cls, 0⟩)) s = .next (answered
              (accepted "SET STATION" [codes (stationText x), decimal cls, decimal 0, codes (stationStateText rec'.state)]) t) ∧
            Noticed (setStation x { rec' with bagClass := cls, inServiceFlag := false } s) t)) ∧
      (rec'.inServiceFlag = false →
        let back := { rec' with bagClass := cls, inServiceFlag := true }
        let held := Held s (.bagEye x) ∧ Held s (.blower x)
        ∃ t, exec (.setStation (some ⟨x, cls, 1⟩)) s = .next (answered
            (accepted "SET STATION" [codes (stationText x), decimal cls, decimal 1, codes (stationStateText (stationRec t x).state)]) t) ∧
          (faultHold s x = true → Noticed (setStation x back s) t) ∧
          (faultHold s x = false → rec'.state ≠ .outOfService → Noticed (setStation x { back with misties := 0 } s) t) ∧
          (faultHold s x = false → rec'.state = .outOfService →
            (stationRec t x).bagClass = cls ∧ (stationRec t x).inServiceFlag = true ∧ (stationRec t x).misties = 0 ∧
            (s.sup.line = .halted → (stationRec t x).state = .opening ∧ (stationRec t x).held = true ∧ (stationRec t x).attempt = none ∧
              (stationRec t x).magazine = rec'.magazine) ∧
            (s.sup.line ≠ .halted → rec'.magazine = 0 → (stationRec t x).state = .empty) ∧
            (s.sup.line ≠ .halted → 1 ≤ rec'.magazine → rec'.held = false →
              (¬held → (stationRec t x).state = .opening ∧ (stationRec t x).attempt = none) ∧
              (held → (stationRec t x).magazine = rec'.magazine - 1 ∧
                (inputHigh s (.bagEye x) = true → (stationRec t x).state = .ready) ∧
                (inputHigh s (.bagEye x) = false → (stationRec t x).state = .opening ∧ (stationRec t x).attempt = some 1)))))) ∧
    (∀ a b, exec (.setBagging (some ⟨a, b⟩)) s = .next (answered
      (accepted "SET BAGGING" [decimal (max 100 (min 1000 a)), decimal (max 50 (min 500 b))])
      { s with stations := { s.stations with times := ⟨max 100 (min 1000 a), max 50 (min 500 b)⟩ } })) ∧
    (∀ x (v : TyerSettings), stationFitted s.member x = true →
      let taken : TyerSettings := ⟨max 40 (min 120 v.s), max 40 (min 120 v.m), max 40 (min 120 v.l), max 40 (min 120 v.xl),
        max 20 (min 200 v.strike)⟩
      (tyerFitted s x = true → ∃ t, exec (.setTyer (some ⟨x, v⟩)) s = .next (answered (accepted "SET TYER"
          [decimal taken.s, decimal taken.m, decimal taken.l, decimal taken.xl, decimal taken.strike]) t) ∧
        Noticed (setTyer x { tyerOf s x with settings := taken } s) t) ∧
      (tyerFitted s x = false → exec (.setTyer (some ⟨x, v⟩)) s =
        .next (answered (accepted "SET TYER" (List.replicate 5 (decimal 0))) s)))

/-- R81, R89, R94: a bag eye covered while a drawn bag is awaited makes the station READY. A bag eye clear in RELEASING moves the record to
OUTFEED with its EXIT check armed and opens the next bag, or takes the station out of service; in READY the bag is lost and counted wasted.
In every other case, and while the line is HALTED, the edge changes nothing but the terminal and the notices. That a station still held
takes its bag eye again once the line has left HALTED is the model's reading (log entry 29). -/
def Obligations.BagEyeEdges : Prop :=
  ∀ (x : Station) (s : State), Held s (.bagEye x) →
    let rec' := stationRec s x
    (rec'.state = .opening → rec'.attempt ≠ none → s.sup.line ≠ .halted → (∀ r ∈ s.track.loaves, r.zone ≠ .transfer) →
        s.head.state ≠ .ejecting → s.head.state ≠ .passing →
      ∃ t, exec (.bagEyeLeadingEdge x) s = .next t ∧
        Noticed (setStation x { rec' with state := .ready, attempt := none, bagTimer := none } (driveInput (.bagEye x) true s)) t) ∧
    (rec'.state ≠ .opening ∨ rec'.attempt = none ∨ s.sup.line = .halted →
      ∃ t, exec (.bagEyeLeadingEdge x) s = .next t ∧ Noticed (driveInput (.bagEye x) true s) t) ∧
    (∀ r, rec'.state = .releasing → s.sup.line ≠ .halted → stationLoaf s x = some r → r.zone = .station x →
      ∃ t, exec (.bagEyeTrailingEdge x) s = .next t ∧ Aside s t ∧
        t.track = (modifyLoaf r.tag (fun l => { l with
          zone := .outfeed, check := some ⟨.exit, (s.track.geometry.dExit + 200) * s.track.geometry.k / 100⟩ }) s).track ∧
        (stationRec t x).tag = none ∧ (stationRec t x).releaseTimer = none ∧
        (inService s x = true → (stationRec t x).state = .opening ∨ (stationRec t x).state = .empty) ∧
        (inService s x = false → (stationRec t x).state = .outOfService)) ∧
    (rec'.state = .ready → s.sup.line ≠ .halted →
      ∃ t, exec (.bagEyeTrailingEdge x) s = .next t ∧ Aside s t ∧ t.track = s.track ∧
        (t.shift.openRecord.stations.get x).wasted = min ((s.shift.openRecord.stations.get x).wasted + 1) 4294967295 ∧
        ((stationRec t x).state = .opening ∨ (stationRec t x).state = .empty)) ∧
    ((rec'.state ≠ .releasing ∧ rec'.state ≠ .ready) ∨ s.sup.line = .halted →
      ∃ t, exec (.bagEyeTrailingEdge x) s = .next t ∧ Noticed (driveInput (.bagEye x) false s) t)

/-- R81, R89: the bag-open timer of a first attempt wastes the bag and draws the next, where the magazine holds one, and leaves the station
EMPTY where it does not; that of a second raises STATION_x with no loaf and takes the station out of service. The release wait takes the
release all the same, raises STATION_x with the loaf's tag and takes the station out of service. Each fault is reported as #F (R152) and its
action applied to the line (R146). That a
timer which does not run does nothing is the model's own (log entry 4). -/
def Obligations.StationTimeouts : Prop :=
  ∀ (x : Station) (s : State),
    let rec' := stationRec s x
    (rec'.bagTimer = none → exec (.bagOpenTimeout x) s = .next s) ∧
    (rec'.releaseTimer = none → exec (.releaseTimeout x) s = .next s) ∧
    (rec'.bagTimer ≠ none → rec'.attempt = some 1 → 1 ≤ rec'.magazine → inputHigh s (.bagEye x) = false →
      ∃ t, exec (.bagOpenTimeout x) s = .next t ∧
        Noticed (countStation x (fun c => { c with
            wasted := min (c.wasted + 1) 4294967295, drawn := min (c.drawn + 1) 4294967295 })
          (setStation x { rec' with
            magazine := rec'.magazine - 1, attempt := some 2, bagTimer := some s.stations.times.openTimeout } s)) t) ∧
    (rec'.bagTimer ≠ none → rec'.attempt = some 1 → rec'.magazine = 0 →
      ∃ t, exec (.bagOpenTimeout x) s = .next t ∧
        Noticed (countStation x (fun c => { c with wasted := min (c.wasted + 1) 4294967295 })
          (setStation x { rec' with state := .empty, attempt := none, held := false, bagTimer := none } s)) t ∧
        (stationFitted s.member x = true → (warnEntry t (.bagsEmpty x)).present = true)) ∧
    (rec'.bagTimer ≠ none → rec'.attempt ≠ some 1 →
      ∃ t, exec (.bagOpenTimeout x) s = .next t ∧ Aside s t ∧ (stationRec t x).state = .outOfService ∧
        (t.shift.openRecord.stations.get x).wasted = min ((s.shift.openRecord.stations.get x).wasted + 1) 4294967295 ∧
        (faultEntry t (.station x)).state = .latched ∧ (faultEntry t (.station x)).lastLoaf = none ∧
        (BeltRuns s → ActedOnLine (faultEntry s (.station x)).action s t) ∧
        (Listening s → Report.fault (.station x) .latched (min ((faultEntry s (.station x)).count + 1) 255) ∈ t.link.queue)) ∧
    (∀ r, rec'.releaseTimer ≠ none → stationLoaf s x = some r → r.zone = .station x →
      ∃ t, exec (.releaseTimeout x) s = .next t ∧ Aside s t ∧ (stationRec t x).state = .outOfService ∧ (stationRec t x).tag = none ∧
        (∃ q ∈ t.track.loaves, q.tag = r.tag ∧ q.zone = .outfeed ∧
          q.check = some ⟨.exit, (s.track.geometry.dExit + 200) * s.track.geometry.k / 100⟩) ∧
        (faultEntry t (.station x)).state = .latched ∧ (faultEntry t (.station x)).lastLoaf = some r.tag ∧
        (BeltRuns s → ActedOnLine (faultEntry s (.station x)).action s t) ∧
        (Listening s → Report.fault (.station x) .latched (min ((faultEntry s (.station x)).count + 1) 255) ∈ t.link.queue))

/-- R88, R99, R100: a travel count used up starts the scoop pulse, unless the station is held, which pulses at START (R94). The end of the
pulse begins the strike with the clip length of the loaf's class, or at a shorter spool skips the tie as UNTIED with CLIPS_OUT_x raised and its
action applied (R146); without a tyer the result is NONE. Where no strike begins the station is RELEASING: its wait runs while the bag eye is
covered, and with the bag eye clear the loaf is released at once (R89, R90), but a station that the fault's HALT holds keeps it (R94). That the
fault and its action go before the release is the model's own (log entry 15). R107 to R109: where the
printer is fitted the strike holds a code and prints it, and the code is that of the table of section 6.7 on each of its rows. That a timer
or count which does not run does nothing is the model's own (log entry 4), and so is that a count of 0 waits for this expiry (log entry 7). -/
def Obligations.ScoopLeadsToTying : Prop :=
  ∀ (x : Station) (s : State),
    let rec' := stationRec s x
    let length := clipLength (tyerOf s x).settings (tieClass s x)
    let acts := if (faultEntry s (.clipsOut x)).state = .active then Action.nothing else (faultEntry s (.clipsOut x)).action
    (rec'.travel ≠ some 0 → exec (.travelCountExpiry x) s = .next s) ∧
    (rec'.travel = some 0 → exec (.travelCountExpiry x) s = .next (setStation x { rec' with
      travel := none, scoopTimer := if rec'.held then none else some s.stations.times.scoopTime } s)) ∧
    (rec'.scoopTimer = none → exec (.scoopEnd x) s = .next s) ∧
    (rec'.scoopTimer ≠ none →
      (tyerFitted s x = true → length ≤ (tyerOf s x).spool → ∃ t, exec (.scoopEnd x) s = .next t ∧
        Noticed (countStation x (fun c => { c with clipMm := min (c.clipMm + length) 4294967295 })
          (setTyer x { tyerOf s x with
              spool := (tyerOf s x).spool - length
              stage := some ⟨(tyerOf s x).settings.strike, true, none⟩
              codeHeld := if s.options.printer then some (clipCodeNow s (tieShelfDays s x)) else none }
            (setStation x { rec' with state := .tying, scoopTimer := none } s))) t ∧
        clipPrinted t x = if s.options.printer then some (printedCode (clipCodeNow s (tieShelfDays s x))) else none) ∧
      (∀ r, tyerFitted s x = true → (tyerOf s x).spool < length → stationLoaf s x = some r →
        ∃ t, exec (.scoopEnd x) s = .next t ∧ Aside s t ∧ (∃ q ∈ t.track.loaves, q.tag = r.tag ∧ q.tie = some .untied ∧ q.clipCode = none) ∧
          (tyerOf t x).spool = (tyerOf s x).spool ∧ (tyerOf t x).clipsOut = true ∧ (faultEntry t (.clipsOut x)).state = .active ∧
          (BeltRuns s → ActedOnLine acts s t) ∧
          (BeltRuns s → r.zone = .station x → rec'.held = false → ReleasingUnderFault acts x r .untied none s t) ∧
          (t.shift.openRecord.stations.get x).untied = min ((s.shift.openRecord.stations.get x).untied + 1) 4294967295) ∧
      (∀ r, tyerFitted s x = false → stationLoaf s x = some r → rec'.held = false → ∃ t, exec (.scoopEnd x) s = .next t ∧
        (inputHigh s (.bagEye x) = true →
          Noticed (modifyLoaf r.tag (fun l => { l with tie := some .notTied, clipCode := none })
            (setStation x { rec' with
              state := .releasing, scoopTimer := none, releaseTimer := some s.stations.times.openTimeout } s)) t) ∧
        (inputHigh s (.bagEye x) = false → r.zone = .station x → ReleasedAtOnce x r .notTied none s t))) ∧
    (∀ v ∈ [(1320, 888621000, 4, 0x4E, "03.03 N"), (1320, 888616740, 4, 0x4C, "02.03 L"), (1320, 917906400, 0, 0x4E, "01.02 N"),
        (1320, 3155758200, 5, 0x4E, "31.12 N"), (360, 857183400, 1, 0x41, "01.03 A"), (360, 888805800, 0, 0x41, "29.02 A"),
        (360, 988624800, 30, 0x41, "30.05 A"), (360, 18000, 0, 0x41, "01.01 A")],
      (s.shift.schedule.head?.map ShiftEntry.startMinute = some v.1 ∧ s.shift.clock = v.2.1 ∧
        s.shift.openRecord.letter = BitVec.ofNat 8 v.2.2.2.1) →
      printedCode (clipCodeNow s v.2.2.1) = codes v.2.2.2.2)

/-- R89, R101, R102: half way through the strike the station asks the converter for one sample of its tension channel; the sample, when it
comes, judges the stage MISTIE below the channel's warn-low limit and TIED at or above it, unless the stage it was asked for has been cut
short (R103); at the end of the strike time the judged result and the code held are written into the record, the stage is absent, and the
station is RELEASING: its wait runs while the bag eye is covered, and with the bag eye clear the loaf is released at once (R89). TIED clears
the count of misties; the third MISTIE in a row raises STATION_x with the loaf's tag, reported as #F (R152), its action applied (R146), after
which the station waits or releases the same way and is out of service (R90), unless the fault's HALT holds it with its loaf (R94). That a
midpoint not due does nothing is the model's own (log entry 4), and so is that the fault and its action go before the release (log entry 15);
that a strike without its sample does not end is its reading (log entry 20). -/
def Obligations.StrikeJudgesTension : Prop :=
  ∀ (x : Station) (k : Strike) (s : State), (tyerOf s x).stage = some k →
    let rec' := stationRec s x
    (k.midpointDue = true → s.meas.converter = none → s.meas.requests = [] →
      exec (.strikeMidpoint x) s = .next (setTyer x { tyerOf s x with stage := some { k with midpointDue := false } }
        { s with meas := { s.meas with
          converter := some ⟨if x = .a then 4 else 5, s.head.stamp, .request, some ⟨.station x, true⟩⟩ } })) ∧
    (k.midpointDue = true → s.meas.converter ≠ none →
      exec (.strikeMidpoint x) s = .next (setTyer x { tyerOf s x with stage := some { k with midpointDue := false } }
        { s with meas := { s.meas with requests := s.meas.requests ++ [⟨.station x, true⟩] } })) ∧
    (k.midpointDue = false → exec (.strikeMidpoint x) s = .next s) ∧
    (∀ v ∈ s.meas.converter, ∀ value : Raw, v.channel = (if x = .a then 4 else 5) →
      ∃ t, exec (.conversionComplete value) s = .next t ∧
        (v.request = some ⟨.station x, true⟩ → tyerOf t x = { tyerOf s x with stage := some { k with
          judged := some (if value.toNat < (s.meas.limits[v.channel]).warnLow then .mistie else .tied) } }) ∧
        (v.request = some ⟨.station x, false⟩ → tyerOf t x = tyerOf s x)) ∧
    (k.judged = none → exec (.strikeEnd x) s = .next s) ∧
    (∀ r, stationLoaf s x = some r → rec'.held = false →
      let written := fun result misties => modifyLoaf r.tag (fun l => { l with tie := some result, clipCode := (tyerOf s x).codeHeld })
        (setTyer x { tyerOf s x with stage := none, codeHeld := none }
          (setStation x { rec' with
            state := .releasing, scoopTimer := none, misties := misties, releaseTimer := some s.stations.times.openTimeout } s))
      let released := fun result misties t => ReleasedAtOnce x r result (tyerOf s x).codeHeld s t ∧
        tyerOf t x = { tyerOf s x with stage := none, codeHeld := none } ∧ (stationRec t x).misties = misties
      (k.judged = some .tied → ∃ t, exec (.strikeEnd x) s = .next t ∧ (warnEntry t .mistie).present = false ∧
        (inputHigh s (.bagEye x) = true → Noticed (written .tied 0) t) ∧
        (inputHigh s (.bagEye x) = false → r.zone = .station x → released .tied 0 t)) ∧
      (k.judged = some .mistie → rec'.misties < 2 → ∃ t, exec (.strikeEnd x) s = .next t ∧ (warnEntry t .mistie).present = true ∧
        (inputHigh s (.bagEye x) = true →
          Noticed (countStation x (fun c => { c with misties := min (c.misties + 1) 4294967295 }) (written .mistie (rec'.misties + 1))) t) ∧
        (inputHigh s (.bagEye x) = false → r.zone = .station x → released .mistie (rec'.misties + 1) t ∧
          (t.shift.openRecord.stations.get x).misties = min ((s.shift.openRecord.stations.get x).misties + 1) 4294967295))) ∧
    (∀ r, stationLoaf s x = some r → k.judged = some .mistie → 2 ≤ rec'.misties →
      ∃ t, exec (.strikeEnd x) s = .next t ∧ Aside s t ∧ (tyerOf t x).stage = none ∧ (faultEntry t (.station x)).state = .latched ∧
        (BeltRuns s → ActedOnLine (faultEntry s (.station x)).action s t) ∧
        (BeltRuns s → r.zone = .station x → rec'.held = false →
          ReleasingUnderFault (faultEntry s (.station x)).action x r .mistie (tyerOf s x).codeHeld s t) ∧
        (faultEntry t (.station x)).lastLoaf = some r.tag ∧ (warnEntry t .mistie).present = true ∧
        (Listening s → Report.fault (.station x) .latched (min ((faultEntry s (.station x)).count + 1) 255) ∈ t.link.queue) ∧
        (∃ q ∈ t.track.loaves, q.tag = r.tag ∧ q.tie = some .mistie))

/-- R86, R84, R85, R70: a record that waits in TRANSFER has the gate decision taken again when a station becomes READY, at an accepted LOAD
BAGS, SET STATION and SET DISTRIBUTION, when the REJECT zone becomes empty, and when the line leaves HALTED: a marked one goes to REJECT, an
unmarked one to the station that the policy chooses among those in service, READY and loaded with its class, or waits. In HALTED it waits.
The travel count at the station chosen runs from this event (R88, log entry 48). A loaf that waited in the slicer for TRANSFER to clear is
ejected at the same event. That a loaf in EJECTING or PASSING whose pusher stands at its target is ejected then, whatever PARK says, is the
model's reading (log entry 25). The clauses are of a pusher that drives no loaf or has not reached its target, but for the last; that of
CLEAR FAULTS of stations that neither return nor wait for a draw. -/
def Obligations.WaitingLoafIsRoutedAgain : Prop :=
  ∀ (r : Loaf) (s : State), oldestIn s .transfer = some r → findLoaf s r.tag = some r →
    let drives := s.head.state = .ejecting ∨ s.head.state = .passing
    let arrived := (s.head.pusher - s.head.target).natAbs ≤ 2
    (¬(drives ∧ arrived) →
      (∀ x, Held s (.bagEye x) → (stationRec s x).state = .opening → (stationRec s x).attempt ≠ none → s.sup.line ≠ .halted →
        ∃ t, exec (.bagEyeLeadingEdge x) s = .next t ∧ Noticed (routed r (setStation x { stationRec s x with
          state := .ready, attempt := none, bagTimer := none } (driveInput (.bagEye x) true s))) t) ∧
      (Held s .rejectEye → BeltRuns s → ∀ q ∈ oldestIn s .reject, ∀ m ∈ q.mark,
        (∀ l ∈ s.track.loaves, l.zone = .reject → l = q) → (s.track.loaves.map Loaf.tag).Nodup →
        let u := { driveInput .rejectEye false s with
          track := { s.track with loaves := s.track.loaves.eraseP (fun l => decide (l.tag = q.tag)) }
          shift := { s.shift with openRecord := { s.shift.openRecord with
            rejected := s.shift.openRecord.rejected.add m
            lines := countLine (q.snapshot.map Snapshot.slot) (fun l => { l with rejected := min (l.rejected + 1) 4294967295 })
              s.shift.openRecord.lines } } }
        ∃ t, exec .rejectEyeTrailingEdge s = .next t ∧ Noticed (routed r (holdSet (holdOwed u) u)) t) ∧
      (Free s → ∀ x n, stationFitted s.member x = true → (stationRec s x).state ≠ .empty ∨ n = 0 →
        ∃ t, exec (.loadBags (some ⟨x, n⟩)) s = .next (answered (accepted "LOAD BAGS" [codes (stationText x), decimal (min 9999 n),
            codes (stationStateText (stationRec t x).state)]) t) ∧
          Noticed (routed r (setStation x { stationRec s x with magazine := min 9999 n } s)) t) ∧
      (Free s → tierOk s .setter = true →
        (s.member = .bl340 → ∀ p, ∃ t,
          exec (.setDistribution (some (some p))) s = .next (answered (accepted "SET DISTRIBUTION" [codes (policyText p)]) t) ∧
            Noticed (routed r { s with stations := { s.stations with policy := p } }) t) ∧
        (∀ x cls, stationFitted s.member x = true → cls ≤ 3 → let flag := if (stationRec s x).inServiceFlag then 1 else 0
          ∃ t, exec (.setStation (some ⟨x, cls, flag⟩)) s = .next (answered (accepted "SET STATION"
              [codes (stationText x), decimal cls, decimal flag, codes (stationStateText (stationRec t x).state)]) t) ∧
            Noticed (routed r (setStation x { stationRec s x with bagClass := cls } s)) t)) ∧
      (Free s → s.sup.line = .halted → (∀ k, (faultEntry s k).state = .active → (faultEntry s k).action ≠ .halt) →
        (∀ x, faultHold s x = false ∧ (stationRec s x).state ≠ .opening) →
        ∃ (o : Owed) (t : State), exec (.clearFaults (some ())) s = .next (answered o t) ∧ t.sup.line = .stopped ∧
          let u := routed r { s with sup := { s.sup with line := .stopped } }
          t.track = u.track ∧ t.stations = u.stations)) ∧
    (drives → arrived → s.member = .bl340 → Free s → tierOk s .setter = true → ∀ l ∈ headLoaf s, l.zone = .slicer →
      (∀ q ∈ s.track.loaves, q.zone = .transfer → q = r) → ∀ p, s.sup.line ≠ .halted →
      ∃ t, exec (.setDistribution (some (some p))) s = .next (answered (accepted "SET DISTRIBUTION" [codes (policyText p)]) t) ∧
        let u := routed r { s with stations := { s.stations with policy := p } }
        (u.track = s.track → t.track = s.track ∧ t.head = s.head) ∧
        (u.track ≠ s.track → t.head.state = .homing ∧ t.head.tag = none ∧
          ∃ q ∈ t.track.loaves, q.tag = l.tag ∧ q.zone ≠ .slicer ∧ q.ejectCount = some s.track.beltCount))

/-! ## Crumb control -/

/-- R113, R117, R121, R122: CLEAN NOW sets COMMAND where no sweep is pending, is refused with STATE in HALTED, and starts the sweep at once
with the slicer empty, the pusher home and sweeps not suspended, with the sweep time and pressure in force. SET CRUMB takes its five
settings, each clamped, and tests bursting against the new threshold. -/
def Obligations.CrumbRequests : Prop :=
  ∀ s : State, Free s →
    (s.sup.line = .halted → exec (.cleanNow (some ())) s = .next (answered (refusal .state) s)) ∧
    (s.sup.line ≠ .halted → s.crumb.sweep = none →
      let pending := s.crumb.pending.getD .command
      (s.head.state ≠ .empty ∨ sweepsSuspended s = true →
        exec (.cleanNow (some ())) s = .next (answered
          (accepted "CLEAN NOW" [codes (reasonText pending), flagText false, flagText (sweepsSuspended s)])
          { s with crumb := { s.crumb with pending := some pending } })) ∧
      (s.head.state = .empty → s.head.pusher.natAbs ≤ 2 → (∀ r ∈ s.track.loaves, r.zone ≠ .slicer) → sweepsSuspended s = false →
        exec (.cleanNow (some ())) s = .next (answered
          (accepted "CLEAN NOW" [codes (reasonText pending), flagText true, flagText false])
          { s with crumb := { s.crumb with
            pending := some pending
            sweep := some ⟨s.crumb.settings.sweepTime, s.crumb.settings.pressure, false, true, true, none⟩ } }))) ∧
    (∀ v : CrumbSettings, tierOk s .setter = true →
      let taken : CrumbSettings := ⟨max 100 (min 65535 v.bladeThreshold), max 50 (min 5000 v.step), max 100 (min 65535 v.trayThreshold),
        max 1 (min 10 v.sweepTime), max 0 (min 1023 v.pressure)⟩
      ∃ t, exec (.setCrumb (some v)) s = .next (answered (accepted "SET CRUMB" [decimal taken.bladeThreshold, decimal taken.step,
          decimal taken.trayThreshold, decimal taken.sweepTime, decimal taken.pressure]) t) ∧
        Noticed { s with crumb := { s.crumb with
          settings := taken
          bursting := decide (taken.bladeThreshold ≤ s.crumb.bladeLoad ∨
            (s.crumb.bursting = true ∧ taken.bladeThreshold / 2 ≤ s.crumb.bladeLoad))
          pending := t.crumb.pending, sweep := t.crumb.sweep } } t ∧
        t.crumb.pending = (if taken.trayThreshold ≤ s.crumb.trayLoad then some (s.crumb.pending.getD .threshold) else s.crumb.pending) ∧
        (s.crumb.pending ≠ none ∨ s.crumb.trayLoad < taken.trayThreshold → t.crumb.sweep = s.crumb.sweep))

/-- R117 to R119: the rise timer asks the converter for one sample of channel 3. Every sample of channel 3 at or above the sweep's pressure
marks it as reached until the judgement, while a point holds VACUUM; with no point the pressure is never reached (R117). That the point is
looked for as the sample completes is the model's reading (log entry 49), and that a sample which an aborted sweep asked for is compared too
is its choice (log entry 50). The requested sample judges the sweep, SUCCESS where the pressure has been reached by then, else WEAK. The sweep
timer releases VACUUM; the sweep ends at the later of the two with its result, #C and what follows from it. With the end crumb control's hold
ends (R114), so the admission test is made after it on the oldest INFEED record, by the rules of StopEdgePresentsLoaf: those clauses speak of
a context that is EMPTY, as a sweep finds it. That the test admits nothing while the line stands (log entry 38) and that PASSING has the eject
target from its entry (log entry 24) is the model's reading. That a timer which does not run does nothing is the model's own (log entry 4). -/
def Obligations.SweepTimers : Prop :=
  ∀ s : State,
    (s.crumb.sweep = none → exec .riseTimerExpiry s = .next s ∧ exec .sweepTimerExpiry s = .next s) ∧
    (∀ w, s.crumb.sweep = some w →
      (w.riseRunning = false → exec .riseTimerExpiry s = .next s) ∧
      (w.timerRunning = false → exec .sweepTimerExpiry s = .next s) ∧
      (w.riseRunning = true → s.meas.converter = none → s.meas.requests = [] → exec .riseTimerExpiry s = .next { s with
        crumb := { s.crumb with sweep := some { w with riseRunning := false } }
        meas := { s.meas with converter := some ⟨3, s.head.stamp, .request, some ⟨.crumb, true⟩⟩ } }) ∧
      (w.riseRunning = true → s.meas.converter ≠ none → exec .riseTimerExpiry s = .next { s with
        crumb := { s.crumb with sweep := some { w with riseRunning := false } }
        meas := { s.meas with requests := s.meas.requests ++ [⟨.crumb, true⟩] } }) ∧
      (∀ (value : Raw), ∀ v ∈ s.meas.converter, v.channel = 3 → w.judged = none →
        let reached := w.reached || (isHeld s .vacuum && decide (w.pressure ≤ value.toNat))
        let result := if reached = true then SweepResult.success else .weak
        ∃ t, exec (.conversionComplete value) s = .next t ∧
          (v.request ≠ some ⟨.crumb, true⟩ → t.crumb = { s.crumb with sweep := some { w with reached := reached } }) ∧
          (v.request = some ⟨.crumb, true⟩ → w.timerRunning = true →
            t.crumb = { s.crumb with sweep := some { w with reached := reached, judged := some result } }) ∧
          (v.request = some ⟨.crumb, true⟩ → w.timerRunning = false →
            (inputHigh s .stopEye = false ∨ oldestIn s .infeed = none → SweepEnded result s t) ∧
            (∀ r ∈ oldestIn s .infeed, s.head.state = .empty → BeltRuns s → ∃ u, SweepEndedTested result r s u t))) ∧
      (w.timerRunning = true → w.judged = none → ∃ t, exec .sweepTimerExpiry s = .next t ∧
        Noticed { s with crumb := { s.crumb with sweep := some { w with timerRunning := false } } } t) ∧
      (w.timerRunning = true → ∀ result ∈ w.judged, result ≠ .aborted → ∃ t, exec .sweepTimerExpiry s = .next t ∧ Aside s t ∧
        (inputHigh s .stopEye = false ∨ oldestIn s .infeed = none → SweepEnded result s t) ∧
        (∀ r ∈ oldestIn s .infeed, s.head.state = .empty → BeltRuns s → ∃ u, SweepEndedTested result r s u t)))

/-! ## Measurement -/

/-- R134 to R136: what SET LIMITS, SET SAMPLING and SET TREND take, clamped, rounded or put in order as their rules say, and that nothing
else changes: limits out of order are refused with RANGE, a digit given twice with SYNTAX; SET SAMPLING sets both pointers to the lowest channels; TREND takes the last
sample of its new channel at once, except in HALTED. SET SAMPLING is stated while a conversion runs; with the converter free the arbiter is
asked at once (log entry 21). The text of a set in its reply, its digits in ascending order or NONE, is log entry 18. -/
def Obligations.MeasurementRequests : Prop :=
  ∀ s : State, Free s → tierOk s .setter = true →
    (∀ (c : Channel) (l : Limits), WellFormed (.setLimits (some ⟨c.val, l⟩)) = true → (c = 5 → s.member = .bl340) →
      let taken : Limits := ⟨min l.faultLow 1023, min l.warnLow 1023, min l.warnHigh 1023, min l.faultHigh 1023, max 1 (min 15 l.deglitch)⟩
      let ordered := taken.faultLow ≤ taken.warnLow ∧ taken.warnLow ≤ taken.warnHigh ∧ taken.warnHigh ≤ taken.faultHigh
      (ordered → ∃ bounds, exec (.setLimits (some ⟨c.val, l⟩)) s = .next (answered
          (accepted "SET LIMITS" [decimal c.val, decimal taken.faultLow, decimal taken.warnLow, decimal taken.warnHigh,
            decimal taken.faultHigh, decimal taken.deglitch])
          { s with meas := { s.meas with limits := s.meas.limits.set c taken, bounds := bounds } }) ∧
        ∀ b : BoundLimit, bounds[boundIndex b] = if boundChannel b = c then { s.meas.bounds[boundIndex b] with runCount := 0 }
          else s.meas.bounds[boundIndex b]) ∧
      (¬ordered → exec (.setLimits (some ⟨c.val, l⟩)) s = .next (answered (refusal .range) s))) ∧
    (∀ w : SamplingWrite, ¬(w.cutSet.Nodup ∧ w.retSet.Nodup) →
      exec (.setSampling (some w)) s = .next (answered (refusal .malformed) s)) ∧
    (∀ (w : SamplingWrite) (m : SampleMode), WellFormed (.setSampling (some w)) = true → tierOk s .engineer = true → w.mode = some m → (∀ d ∈ w.cutSet ++ w.retSet, d ≤ 7) →
        (5 ∈ w.cutSet ++ w.retSet → s.member = .bl340) → s.meas.converter ≠ none →
      let chosen := fun ds : List Nat => (List.finRange 8).filter fun c => decide (c.val ∈ ds)
      let shown := fun set : List Channel => if set = [] then codes "NONE" else set.map fun c => BitVec.ofNat 8 (48 + c.val)
      let taken : Sampling := ⟨chosen w.cutSet, chosen w.retSet, m, max 0 (min 2000 (w.edgeDelay / 50 * 50)), max 50 (min 500 w.hybridPeriod)⟩
      exec (.setSampling (some w)) s = .next (answered
        (accepted "SET SAMPLING" [shown taken.cutSet, shown taken.retSet, codes (modeText m), decimal taken.edgeDelay,
          decimal taken.hybridPeriod])
        { s with meas := { s.meas with
          sampling := taken, cutPointer := taken.cutSet.head?, retPointer := taken.retSet.head? } })) ∧
    (∀ (c : Channel) (f : Nat), WellFormed (.setTrend (some ⟨c.val, f⟩)) = true → (c = 5 → s.member = .bl340) →
      (f = 100 ∨ f = 200 ∨ f = 500 ∨ f = 1000 → exec (.setTrend (some ⟨c.val, f⟩)) s = .next (answered
        (accepted "SET TREND" [decimal c.val, decimal f])
        { s with meas := { s.meas with trend := { s.meas.trend with
          channel := c, frequency := f
          value := if s.sup.line = .halted then s.meas.trend.value else (s.meas.samples[c]).value } } })) ∧
      (f ≠ 100 → f ≠ 200 → f ≠ 500 → f ≠ 1000 → exec (.setTrend (some ⟨c.val, f⟩)) s = .next (answered (refusal .range) s)))

/-- R124 to R129, R131, R136: a conversion's completion writes the channel's last sample with the stamp and phase of its start; TREND takes
it where it is of its channel, except in HALTED (that a halt of the same event goes first is log entry 51). The arbiter then starts the
oldest waiting request with phase REQUEST; with no request, and the blade engaged or not as before, it starts the next channel of the
phase's set where a conversion of the phase is due, a late CENTRE one or the next of an EDGE run; with none due the idle scan goes on; else
the converter stays free. What a bound limit does with the sample is BoundLimitsDeglitch, the tension StrikeJudgesTension, the pressure
SweepTimers: a sample of channel 4 or 5 that no stage waits for changes nothing beside. With the converter free the command does nothing
(log entry 4). -/
def Obligations.ConversionCompletes : Prop :=
  ∀ (value : Raw) (s : State),
    (s.meas.converter = none → exec (.conversionComplete value) s = .next s) ∧
    (∀ v ∈ s.meas.converter, ∃ t, exec (.conversionComplete value) s = .next t ∧ Aside s t ∧
      t.meas.samples = s.meas.samples.set v.channel ⟨value.toNat, v.stamp, v.phase⟩ ∧
      t.meas.trend = { s.meas.trend with
        value := if s.meas.trend.channel = v.channel ∧ t.sup.line ≠ .halted then value.toNat else s.meas.trend.value } ∧
      (∀ r ∈ s.meas.requests.head?, ∃ live, t.meas.converter =
          some ⟨match r.who with | .station .a => 4 | .station .b => 5 | .crumb => 3, s.head.stamp, .request, some ⟨r.who, live⟩⟩ ∧
        t.meas.requests.map ConvRequest.who = s.meas.requests.tail.map ConvRequest.who) ∧
      (s.meas.requests = [] → t.head.knife = s.head.knife →
        let m := { s.meas with converter := none, samples := t.meas.samples, bounds := t.meas.bounds, trend := t.meas.trend }
        let due := s.meas.centreDue = true ∨ s.meas.edgeRun = true
        let after := fun (set : List Channel) (c : Channel) => (set.find? fun d => decide (c < d)).or set.head?
        (¬due → s.meas.scan = [] → t.meas = m) ∧
        (¬due → ∀ c ∈ s.meas.scan.head?,
          t.meas = { m with scan := s.meas.scan.tail, converter := some ⟨c, s.head.stamp, .idle, none⟩ }) ∧
        (due → (s.head.phase = .cut ∧ s.meas.sampling.cutSet = []) ∨ (s.head.phase = .ret ∧ s.meas.sampling.retSet = []) →
          t.meas = { m with centreDue := false }) ∧
        (due → s.head.phase = .cut → s.meas.sampling.cutSet ≠ [] → ∀ c ∈ s.meas.cutPointer, t.meas = { m with
          centreDue := false, cutPointer := after s.meas.sampling.cutSet c, converter := some ⟨c, s.head.stamp, .cut, none⟩ }) ∧
        (due → s.head.phase = .ret → s.meas.sampling.retSet ≠ [] → ∀ c ∈ s.meas.retPointer, t.meas = { m with
          centreDue := false, retPointer := after s.meas.sampling.retSet c, converter := some ⟨c, s.head.stamp, .ret, none⟩ })) ∧
      (v.request = none → v.channel = 4 ∨ v.channel = 5 → Noticed { s with meas := t.meas } t))

/-- R132, R133: at a completed conversion each bound limit of the channel is compared, a high limit by a value above it and a low limit by a
value below it, and no other limit is: its condition comes or goes after the deglitch count of samples on the other side in a row, and a
sample on its own side sets the run to 0. A warning so bound follows its condition; a fault so bound becomes ACTIVE with it, with the stamp
of the event, and LATCHED without it where it stood ACTIVE, and at each of the two its action is applied to the line (R146). Each change waits as #W or #F in the queue of a busy transmitter. -/
def Obligations.BoundLimitsDeglitch : Prop :=
  ∀ (value : Raw) (s : State), ∀ v ∈ s.meas.converter, ∃ t, exec (.conversionComplete value) s = .next t ∧
    ∀ row ∈ ([(.knifeWarn, 0, .warning .bladeDull, fun l n => decide (l.warnHigh < n)),
        (.knifeFault, 0, .fault .bladeOverload, fun l n => decide (l.faultHigh < n)),
        (.pusherFault, 1, .fault .pusherOverload, fun l n => decide (l.faultHigh < n)),
        (.bladeWarn, 2, .warning .bladeWarm, fun l n => decide (l.warnHigh < n)),
        (.bladeFault, 2, .fault .bladeHot, fun l n => decide (l.faultHigh < n)),
        (.supplyWarn, 6, .warning .supplySag, fun l n => decide (n < l.warnLow)),
        (.supplyFault, 6, .fault .supplyLow, fun l n => decide (n < l.faultLow)),
        (.boardFault, 7, .fault .boardHot, fun l n => decide (l.faultHigh < n))] :
        List (BoundLimit × Channel × AlertName × (Limits → Nat → Bool))),
      let old := s.meas.bounds[boundIndex row.1]
      let new := t.meas.bounds[boundIndex row.1]
      let l := s.meas.limits[v.channel]
      let beyond := row.2.2.2 l value.toNat
      (row.2.1 ≠ v.channel → new = old) ∧
      (row.2.1 = v.channel →
        (old.present = beyond → new = ⟨beyond, 0⟩) ∧
        (old.present ≠ beyond → old.runCount + 1 < l.deglitch → new = ⟨old.present, old.runCount + 1⟩) ∧
        (old.present ≠ beyond → l.deglitch ≤ old.runCount + 1 → new = ⟨beyond, 0⟩)) ∧
      (∀ w, row.2.2.1 = .warning w →
        (new.present = old.present → warnEntry t w = warnEntry s w) ∧
        (new.present ≠ old.present → (warnEntry t w).present = new.present ∧
          (Listening s → (warnEntry s w).present ≠ new.present → Report.warning w new.present ∈ t.link.queue))) ∧
      (∀ k, row.2.2.1 = .fault k →
        (new.present = old.present → faultEntry t k = faultEntry s k) ∧
        (new.present ≠ old.present → (new.present = true ↔ (faultEntry s k).state ≠ .active) → BeltRuns s → v.request = none →
          ActedOnLine (faultEntry s k).action s t) ∧
        (new.present = true → old.present = false → (faultEntry s k).state ≠ .active →
          (faultEntry t k).state = .active ∧ (faultEntry t k).count = min ((faultEntry s k).count + 1) 255 ∧
          (faultEntry t k).lastStamp = some ⟨s.shift.clock, s.head.stamp⟩ ∧
          (Listening s → Report.fault k .active (faultEntry t k).count ∈ t.link.queue)) ∧
        (new.present = false → old.present = true → (faultEntry s k).state = .active →
          (faultEntry t k).state = .latched ∧ (Listening s → Report.fault k .latched (faultEntry s k).count ∈ t.link.queue)))

/-- R127 to R129, R131, R136: the half-phase delay and the edge delay make a conversion due, which a free converter with no request starts,
in either phase, on the channel its set's pointer names, moving the pointer to the set's next higher channel or back to its lowest; an empty
set gives none. The idle timer begins a scan over the union of the sets, its first channel started at once; a TREND period takes the waiting
value outside HALTED and the new frequency. A delay or timer that does not run does nothing (log entry 4). -/
def Obligations.SamplingTimers : Prop :=
  ∀ s : State,
    let m := s.meas
    let free : Bool := decide (m.converter = none ∧ m.requests = [])
    let after := fun (set : List Channel) (c : Channel) => (set.find? fun d => decide (c < d)).or set.head?
    (m.centreTimer = none → exec .centreConversionDue s = .next s) ∧
    (m.edgeTimer = none → exec .edgeDelayExpiry s = .next s) ∧
    (m.idleTimer = false → exec .idleTimerExpiry s = .next s) ∧
    (m.centreTimer ≠ none →
      (m.converter ≠ none → exec .centreConversionDue s = .next { s with meas := { m with centreTimer := none, centreDue := true } }) ∧
      (free = true → (s.head.phase = .cut → m.sampling.cutSet = []) → (s.head.phase = .ret → m.sampling.retSet = []) → s.head.phase ≠ .idle →
        exec .centreConversionDue s = .next { s with meas := { m with centreTimer := none, centreDue := false } }) ∧
      (free = true → s.head.phase = .cut → m.sampling.cutSet ≠ [] → ∀ c ∈ m.cutPointer,
        exec .centreConversionDue s = .next { s with meas := { m with
          centreTimer := none, centreDue := false, cutPointer := after m.sampling.cutSet c
          converter := some ⟨c, s.head.stamp, .cut, none⟩ } }) ∧
      (free = true → s.head.phase = .ret → m.sampling.retSet ≠ [] → ∀ c ∈ m.retPointer,
        exec .centreConversionDue s = .next { s with meas := { m with
          centreTimer := none, centreDue := false, retPointer := after m.sampling.retSet c
          converter := some ⟨c, s.head.stamp, .ret, none⟩ } })) ∧
    (m.edgeTimer ≠ none →
      (m.converter ≠ none → exec .edgeDelayExpiry s = .next { s with meas := { m with edgeTimer := none, edgeRun := true } }) ∧
      (free = true → s.head.phase = .cut → m.sampling.cutSet ≠ [] → ∀ c ∈ m.cutPointer,
        exec .edgeDelayExpiry s = .next { s with meas := { m with
          edgeTimer := none, edgeRun := true, centreDue := false, cutPointer := after m.sampling.cutSet c
          converter := some ⟨c, s.head.stamp, .cut, none⟩ } }) ∧
      (free = true → s.head.phase = .ret → m.sampling.retSet ≠ [] → ∀ c ∈ m.retPointer,
        exec .edgeDelayExpiry s = .next { s with meas := { m with
          edgeTimer := none, edgeRun := true, centreDue := false, retPointer := after m.sampling.retSet c
          converter := some ⟨c, s.head.stamp, .ret, none⟩ } })) ∧
    (m.idleTimer = true → m.centreDue = false → m.edgeRun = false → m.requests = [] →
      let union := (List.finRange 8).filter fun c => decide (c ∈ m.sampling.cutSet ∨ c ∈ m.sampling.retSet)
      (m.converter ≠ none ∨ union = [] → exec .idleTimerExpiry s = .next { s with meas := { m with scan := union } }) ∧
      (m.converter = none → ∀ c ∈ union.head?, exec .idleTimerExpiry s = .next { s with meas := { m with
          scan := union.tail, converter := some ⟨c, s.head.stamp, .idle, none⟩ } })) ∧
    exec .trendPeriodStart s = .next { s with meas := { m with trend := { m.trend with
      duty := if s.sup.line = .halted then m.trend.duty else m.trend.value
      periodFrequency := m.trend.frequency } } }

/-! ## Supervision -/

/-- R140, R74, R94: START's checks in their order, each refused with its code; past them the line is RUNNING, unless a held station finds
its spool too short for a clip (R99). A PAUSED context goes on in ENTERING, EJECTING or PASSING with its tag and target, an INTERRUPTED one
leaves uncut or by the eject target (log entry 25 says when an eject that is already in position ends), with KNIFE_RUN asserted unless it
resumes in PASSING. A held station repeats its stage: a bag drawn is wasted and the next drawn, FILLING goes on or scoops again, TYING
strikes again, and RELEASING waits again or releases; the clauses are of one held station, since which of two goes first is the model's own
(log entry 13). That an uncut INTERRUPTED loaf enters PASSING with the eject target is the model's reading (log entry 24). -/
def Obligations.StartRunsLine : Prop :=
  ∀ s : State, Free s →
    let functions := (∀ f ∈ [Func.infeedEye, .stopEye, .rejectEye, .exitEye, .infeedHold, .knifeRun, .pusherEnable, .rejectGate], Held s f) ∧
      (∀ x, stationFitted s.member x = true → (stationRec s x).inServiceFlag = true →
        Held s (.bagEye x) ∧ Held s (.blower x) ∧ Held s (.scoop x) ∧ (tyerFitted s x = true → Held s (.tie x))) ∧
      (s.member = .bl340 → Held s .stationGate)
    let clear := ∀ k, (faultEntry s k).state = .inactive ∨ (faultEntry s k).action = .nothing
    let recipe := ∃ i ∈ s.recipes.runRecipe, ∃ r ∈ s.recipes.slots[i], s.recipes.lockdown = true → r.locked = true
    let clock := s.options.printer = true → s.shift.clockSet = true
    let station := inService s .a = true ∨ inService s .b = true
    let answer := fun c => exec (.start (some ())) s = .next (answered (refusal c) s)
    (s.sup.line ≠ .stopped → answer .state) ∧
    (s.sup.line = .stopped → ¬functions → answer .notConfigured) ∧
    (s.sup.line = .stopped → functions → ¬clear → answer .blocked) ∧
    (s.sup.line = .stopped → functions → clear → ¬recipe → answer .noRecipe) ∧
    (s.sup.line = .stopped → functions → clear → recipe → ¬clock → answer .noClock) ∧
    (s.sup.line = .stopped → functions → clear → recipe → clock → ¬station → answer .noStation) ∧
    (s.sup.line = .stopped → functions → clear → recipe → clock → station →
      ∃ t, exec (.start (some ())) s = .next (answered (accepted "START" [codes (lineText t.sup.line)]) t) ∧ Aside s t ∧
        (BeltRuns s → (∀ x, (stationRec s x).held = true → (stationRec s x).state = .tying →
            clipLength (tyerOf s x).settings (tieClass s x) ≤ (tyerOf s x).spool) →
          t.sup.line = .running ∧ (Listening s → Report.line .running ∈ t.link.queue) ∧
          (s.head.state = .paused → s.head.pausedFrom = some .entering ∨ s.head.pausedFrom = some .advancing ∨
              s.head.pausedFrom = some .cutting →
            t.head.state = .entering ∧ t.head.tag = s.head.tag ∧ t.head.nextCut = s.head.nextCut ∧ t.head.target = s.head.target ∧
              t.head.pusher = s.head.pusher ∧ t.head.knife = true) ∧
          (s.head.state = .paused → 2 < (s.head.pusher - s.head.target).natAbs →
            (s.head.pausedFrom = some .ejecting → t.head.state = .ejecting ∧ t.head.tag = s.head.tag ∧ t.head.nextCut = s.head.nextCut ∧
              t.head.target = s.head.target ∧ t.head.pusher = s.head.pusher ∧ t.head.knife = true) ∧
            (s.head.pausedFrom = some .passing → t.head.state = .passing ∧ t.head.tag = s.head.tag ∧ t.head.nextCut = none ∧
              t.head.target = s.head.target ∧ t.head.pusher = s.head.pusher ∧ t.head.knife = s.head.knife)) ∧
          (s.head.state = .interrupted → ∀ r ∈ headLoaf s, 2 < (s.head.pusher - ejectTargetOf s r).natAbs →
            t.head.tag = s.head.tag ∧ t.head.target = ejectTargetOf s r ∧
            (1 ≤ r.cutsDone.getD 0 → t.head.state = .ejecting ∧ t.head.knife = true) ∧
            (r.cutsDone.getD 0 = 0 → t.head.state = .passing ∧ t.head.nextCut = none ∧ t.head.knife = s.head.knife)) ∧
          (s.head.state = .empty → t.head.knife = true ∨ t.head.state = .passing) ∧
          (∀ x, (stationRec s x).held = true → (∀ y, y ≠ x → (stationRec s y).held = false) →
            let r := stationRec s x
            let wasted := (s.shift.openRecord.stations.get x).wasted
            (r.state = .opening ∨ r.state = .ready → r.magazine = 0 → Held s (.bagEye x) → Held s (.blower x) →
              (stationRec t x).state = .empty ∧ (stationRec t x).held = false) ∧
            (r.state = .opening ∨ r.state = .ready → r.magazine ≠ 0 → Held s (.bagEye x) → Held s (.blower x) →
              inputHigh s (.bagEye x) = false →
              stationRec t x = { r with
                state := .opening, tag := none, attempt := some 1, held := false, bagTimer := some s.stations.times.openTimeout
                travel := none, scoopTimer := none, releaseTimer := none, magazine := r.magazine - 1 } ∧
              (t.shift.openRecord.stations.get x).wasted =
                if r.state = .ready ∨ r.attempt ≠ none then min (wasted + 1) 4294967295 else wasted) ∧
            (r.state = .filling → stationRec t x = { r with
              held := false, scoopTimer := if r.travel ≠ none then r.scoopTimer else some s.stations.times.scoopTime }) ∧
            (r.state = .tying → (stationRec t x).state = .tying ∧ (stationRec t x).held = false ∧
              (tyerOf t x).stage = some ⟨(tyerOf s x).settings.strike, true, none⟩ ∧
              (tyerOf t x).spool = (tyerOf s x).spool - clipLength (tyerOf s x).settings (tieClass s x)) ∧
            (r.state = .releasing → inputHigh s (.bagEye x) = true →
              stationRec t x = { r with held := false, releaseTimer := some s.stations.times.openTimeout }) ∧
            (r.state = .releasing → inputHigh s (.bagEye x) = false → ∀ l ∈ stationLoaf s x, l.zone = .station x →
              (stationRec t x).tag = none ∧ ∃ q ∈ t.track.loaves, q.tag = l.tag ∧ q.zone = .outfeed))))

/-- R141, R142, R73, R94, R120: STOP NOW in RUNNING and DRAINING makes the line STOPPED at once: the track is kept, the blade released, the
infeed held, the context PAUSED, a sweep aborted and counted with its #C and its pending kept, a station in FILLING or TYING held, a tying
stage cut short. STOP DRAIN in RUNNING makes a line that holds a loaf DRAINING and an empty one STOPPED. In the other states they are
refused with STATE. The #L of each waits in the queue of a busy transmitter. That the reply begins with "=STOP" and the line state then
stands in it is the model's own (log entry 18). -/
def Obligations.StopEndsRun : Prop :=
  ∀ s : State, Free s → BeltRuns s →
    (s.sup.line = .stopped ∨ s.sup.line = .halted → exec (.stopNow (some ())) s = .next (answered (refusal .state) s)) ∧
    (s.sup.line ≠ .running → exec (.stopDrain (some ())) s = .next (answered (refusal .state) s)) ∧
    (s.sup.line = .running ∨ s.sup.line = .draining →
      ∃ t, exec (.stopNow (some ())) s = .next (answered (accepted "STOP" [codes "STOPPED"]) t) ∧ Aside s t ∧ t.sup.line = .stopped ∧
        t.track = { s.track with infeedHold := true } ∧ t.sup.faults = s.sup.faults ∧ t.head.knife = false ∧
        t.head.pusher = s.head.pusher ∧ t.head.stamp = s.head.stamp ∧
        (s.head.state = .entering ∨ s.head.state = .advancing ∨ s.head.state = .cutting ∨ s.head.state = .ejecting ∨
            s.head.state = .passing → t.head.state = .paused ∧ t.head.pausedFrom = some s.head.state ∧ t.head.tag = s.head.tag ∧
          t.head.nextCut = s.head.nextCut ∧ t.head.target = s.head.target) ∧
        (s.head.state = .homing ∨ s.head.state = .empty → t.head.state = .empty) ∧ t.crumb.sweep = none ∧
        t.shift.openRecord.sweepsAborted = (if s.crumb.sweep.isSome then min (s.shift.openRecord.sweepsAborted + 1) 4294967295
          else s.shift.openRecord.sweepsAborted) ∧
        t.crumb.pending = s.crumb.pending ∧ t.crumb.trayLoad = s.crumb.trayLoad ∧ t.crumb.bladeLoad = s.crumb.bladeLoad ∧
        (Listening s → Report.line .stopped ∈ t.link.queue ∧
          (s.crumb.sweep ≠ none → ∀ reason ∈ s.crumb.pending, Report.sweep reason .aborted s.crumb.trayLoad ∈ t.link.queue)) ∧
        (∀ x, tyerOf t x = if (stationRec s x).state = .tying then { tyerOf s x with stage := none, codeHeld := none } else tyerOf s x) ∧
        ∀ x, (stationRec t x).scoopTimer = (if (stationRec s x).state = .filling then none else (stationRec s x).scoopTimer) ∧
          (stationRec t x).state = (stationRec s x).state ∧ (stationRec t x).tag = (stationRec s x).tag ∧
          (stationRec t x).held = ((stationRec s x).held ||
            decide ((stationRec s x).state = .filling ∨ (stationRec s x).state = .tying))) ∧
    (s.sup.line = .running → s.track.loaves ≠ [] →
      ∃ t, exec (.stopDrain (some ())) s = .next (answered (accepted "STOP" [codes "DRAINING"]) t) ∧ t.sup.line = .draining ∧
        t.track = { s.track with infeedHold := true } ∧ t.head = s.head ∧ t.stations = s.stations ∧
        (Listening s → Report.line .draining ∈ t.link.queue)) ∧
    (s.sup.line = .running → s.track.loaves = [] →
      ∃ t, exec (.stopDrain (some ())) s = .next (answered (accepted "STOP" [codes "STOPPED"]) t) ∧ t.sup.line = .stopped ∧
        (Listening s → Report.line .draining ∈ t.link.queue ∧ Report.line .stopped ∈ t.link.queue))

/-- R148, R149, R91, R116: CLEAR FAULTS makes every LATCHED fault INACTIVE and answers how many; ACTIVE entries, counts, stamps, loaves,
actions and the first-fault record stay. A HALTED line over which no HALT fault stands any more is STOPPED; any other line state stays. A
fitted station whose fault hold so ends while its flag is set comes back: out of service it opens, held where the line is HALTED, or is
EMPTY without bags, and one that holds its loaf keeps its cycle. That a station which returns while the line is HALTED is held, also where
this very request then takes the line to STOPPED, is the model's choice (log entry 14: the stations return before the line). A suspension that so ends lets a pending sweep start. That a station which
returns with magazine 0 is EMPTY whether or not its functions are held is the model's reading (log entry 28). -/
def Obligations.ClearFaultsReturnsLine : Prop :=
  ∀ s : State, Free s →
    ∃ t, exec (.clearFaults (some ())) s = .next (answered (accepted "CLEAR FAULTS"
        [decimal (allFaults.filter fun k => decide ((faultEntry s k).state = .latched)).length, codes (lineText t.sup.line)]) t) ∧
      Aside s t ∧ t.sup.firstFault = s.sup.firstFault ∧
      (∀ k, faultEntry t k =
        { faultEntry s k with state := if (faultEntry s k).state = .latched then .inactive else (faultEntry s k).state }) ∧
      (s.sup.line ≠ .halted → t.sup.line = s.sup.line) ∧
      (s.sup.line = .halted → t.sup.line =
        if ∃ k ∈ allFaults, (faultEntry s k).state = .active ∧ (faultEntry s k).action = .halt then .halted else .stopped) ∧
      (Listening s → (allFaults.filter fun k => decide ((faultEntry s k).state = .latched)).length ≤ 8 →
        (∀ k, (faultEntry s k).state = .latched → Report.fault k .inactive (faultEntry s k).count ∈ t.link.queue) ∧
        (t.sup.line ≠ s.sup.line → Report.line t.sup.line ∈ t.link.queue)) ∧
      (∀ x, stationFitted s.member x = true → (stationRec s x).inServiceFlag = true →
        ((faultEntry s (.station x)).state = .latched ∨ (faultEntry s (.clipsOut x)).state = .latched) →
        (faultEntry s (.station x)).state ≠ .active → (faultEntry s (.clipsOut x)).state ≠ .active →
        let r := stationRec s x
        let opened : StationRec := { r with
          state := .opening, tag := none, attempt := none, bagTimer := none, travel := none, scoopTimer := none, releaseTimer := none
          misties := 0 }
        (r.state = .outOfService → s.sup.line = .halted → stationRec t x = { opened with held := true }) ∧
        (r.state = .outOfService → s.sup.line ≠ .halted → r.magazine = 0 → (stationRec t x).state = .empty) ∧
        (r.state = .outOfService → s.sup.line ≠ .halted → r.magazine ≠ 0 → r.held = false → Held s (.bagEye x) → Held s (.blower x) →
          inputHigh s (.bagEye x) = false → stationRec t x = { opened with
            attempt := some 1, bagTimer := some s.stations.times.openTimeout, magazine := r.magazine - 1 }) ∧
        (r.state = .filling ∨ r.state = .tying ∨ r.state = .releasing → stationRec t x = { r with misties := 0 })) ∧
      (sweepsSuspended s = true → (∀ k ∈ [FaultKind.trayFull, .vacuumFail], (faultEntry s k).state ≠ .active) → s.sup.line ≠ .halted →
        s.crumb.pending ≠ none → s.crumb.sweep = none → s.head.state = .empty → s.head.pusher.natAbs ≤ 2 →
        (∀ r ∈ s.track.loaves, r.zone ≠ .slicer) →
        t.crumb.sweep = some ⟨s.crumb.settings.sweepTime, s.crumb.settings.pressure, false, true, true, none⟩)

/-- R146, R93, R147, R151, R183: the table of the faults' default and allowed actions, row by row: POWER_ON gives every fault its default,
by the member for the stations' faults, and SET ACTION takes exactly the allowed actions and moves nothing else. SET MASK takes a mask of a
fault or a warning that the part has; SET REPORTS takes the kinds it names, and refuses one named twice with SYNTAX. FAULT is low while an unmasked fault is ACTIVE or LATCHED, WARN
while an unmasked warning has its indication set. -/
def Obligations.SupervisionSettings : Prop :=
  ∀ s : State, Free s → tierOk s .setter = true →
    (∀ row ∈ ([(.guardOpen, .halt, .halt, [.halt]), (.bladeStall, .halt, .halt, [.halt]), (.beltStall, .hold, .hold, [.hold, .halt]),
        (.jamInfeed, .halt, .halt, [.halt, .hold]), (.jamOutfeed, .hold, .hold, [.hold, .halt]), (.trackOverrun, .halt, .halt, [.halt]),
        (.rejectMissed, .halt, .halt, [.halt, .hold]), (.pusherFault, .halt, .halt, [.halt]), (.pusherOverload, .halt, .halt, [.halt]),
        (.bladeOverload, .halt, .halt, [.halt, .hold]), (.bladeHot, .hold, .hold, [.hold, .halt]),
        (.station .a, .nothing, .hold, [.nothing, .hold, .halt]), (.station .b, .nothing, .hold, [.nothing, .hold, .halt]),
        (.clipsOut .a, .nothing, .hold, [.nothing, .hold, .halt]), (.clipsOut .b, .nothing, .hold, [.nothing, .hold, .halt]),
        (.vacuumFail, .hold, .hold, [.hold, .halt]), (.trayFull, .hold, .hold, [.hold, .halt]), (.supplyLow, .halt, .halt, [.halt]),
        (.boardHot, .halt, .halt, [.halt])] : List (FaultKind × Action × Action × List Action)),
      let k := row.1
      let onBoth : Prop := k ≠ .station .b ∧ k ≠ .clipsOut .b
      (∀ o : Straps, ∃ t, exec (.powerOn o) s = .next t ∧
        (faultEntry t k).action = match t.member with | .bl340 => row.2.1 | .bl320 => row.2.2.1) ∧
      (∀ a, onBoth ∨ s.member = .bl340 →
        (a ∈ row.2.2.2 → tierOk s .engineer = true → exec (.setAction (some ⟨some k, some a⟩)) s = .next (answered
          (accepted "SET ACTION" [codes (faultText k), codes (actionText a)])
          { s with sup := { s.sup with faults := s.sup.faults.set (faultIndex k) { faultEntry s k with action := a } } })) ∧
        (a ∉ row.2.2.2 → exec (.setAction (some ⟨some k, some a⟩)) s = .next (answered (refusal .range) s))) ∧
      (∀ a, ¬onBoth → s.member = .bl320 →
        exec (.setAction (some ⟨some k, a⟩)) s = .next (answered (refusal .notFitted) s))) ∧
    (∀ k (m : Bool), faultExists s.member k = true →
      exec (.setMask (some ⟨some (.fault k), if m then 1 else 0⟩)) s = .next (answered
        (accepted "SET MASK" [codes (faultText k), decimal (if m then 1 else 0)])
        { s with sup := { s.sup with faults := s.sup.faults.set (faultIndex k) { faultEntry s k with mask := m } } })) ∧
    (∀ w (m : Bool), warnExists s.member w = true →
      exec (.setMask (some ⟨some (.warning w), if m then 1 else 0⟩)) s = .next (answered
        (accepted "SET MASK" [codes (warnText w), decimal (if m then 1 else 0)])
        { s with sup := { s.sup with warnings := s.sup.warnings.set (warnIndex w) { warnEntry s w with mask := m } } })) ∧
    (∀ ks : List ReportKind, ¬ks.Nodup → exec (.setReports (some ks)) s = .next (answered (refusal .malformed) s)) ∧
    (∀ ks : List ReportKind, WellFormed (.setReports (some ks)) = true → .f ∉ ks → .l ∉ ks →
      let e : Enables := ⟨decide (.w ∈ ks), decide (.d ∈ ks), decide (.x ∈ ks), decide (.c ∈ ks), decide (.s ∈ ks), decide (.e ∈ ks)⟩
      let on := ([(.w, "W"), (.d, "D"), (.x, "X"), (.c, "C"), (.s, "S"), (.e, "E")] : List (ReportKind × String)).filter fun v => v.1 ∈ ks
      exec (.setReports (some ks)) s = .next (answered
        (accepted "SET REPORTS" [if on = [] then codes "NONE" else (on.map fun v => codes v.2).flatten])
        { s with link := { s.link with enables := e } })) ∧
    (faultLineLow s = true ↔ ∃ k, (faultEntry s k).state ≠ .inactive ∧ (faultEntry s k).mask = false) ∧
    (warnLineLow s = true ↔ ∃ w, (warnEntry s w).indication = true ∧ (warnEntry s w).mask = false)

/-- R32, R34, R116, R144, R149, R75, R94, R120, R171: the guard door's input low makes GUARD_OPEN ACTIVE, an occurrence that writes the
first-fault record where every fault was INACTIVE and, with action HALT, takes the line, the context, the stations and a sweep into the
halt; high makes an ACTIVE one LATCHED. The tray switch does the same to TRAY_FULL the other way round. Where a suspension so begins with no
sweep running, a CHANGEOVER pending is cleared and the waiting record of a changeover is asked again and answered NO_CLEAN; else the pending
is kept, and a running sweep runs on unless the halt aborts it. A change of a key input changes nothing but the terminal and KEY_INVALID;
the tier follows the table of R32. At each of the transitions, into ACTIVE and into LATCHED, the action in force moves the line (R146). The
clause on HALT leaves out the head and the rest of the line in one case: TRAY_FULL with HALT, no sweep running and CHANGEOVER pending, where
the end of the hold stands beside the halt (log entry 47); that a sweep aborted by the halt of TRAY_FULL keeps its CHANGEOVER pending is the
model's reading (log entry 53). A change of an input that no point holds does nothing (log entry 11). -/
def Obligations.SwitchInputsTaken : Prop :=
  ∀ (high : Bool) (s : State),
    (∀ row ∈ ([(.guardOpen, .guardDoorChange high, .guardDoor, !high), (.trayFull, .trayFullChange high, .trayFull, high)] :
        List (FaultKind × Instr × Func × Bool)),
      let k := row.1
      let c := row.2.1
      let f := row.2.2.1
      let present := row.2.2.2
      (¬Held s f → exec c s = .next s) ∧
      (Held s f → ∃ t, exec c s = .next t ∧ Aside s t ∧
        (present = true → (faultEntry s k).state ≠ .active →
          (faultEntry t k).state = .active ∧ (faultEntry t k).count = min ((faultEntry s k).count + 1) 255 ∧
          (faultEntry t k).lastStamp = some ⟨s.shift.clock, s.head.stamp⟩ ∧ (faultEntry t k).lastLoaf = none ∧
          ((faultEntry s k).action = .halt → t.sup.line = .halted ∧
            (s.sup.line ≠ .halted → k = .guardOpen ∨ s.crumb.sweep ≠ none ∨ s.crumb.pending ≠ some .changeover → HaltedFrom s t) ∧
            (s.sup.line ≠ .halted → Listening s → Report.line .halted ∈ t.link.queue ∧ (s.crumb.sweep ≠ none →
              ∀ reason ∈ s.crumb.pending, Report.sweep reason .aborted s.crumb.trayLoad ∈ t.link.queue))) ∧
          (Listening s → Report.fault k .active (faultEntry t k).count ∈ t.link.queue) ∧
          ((∀ j, (faultEntry s j).state = .inactive) →
            t.sup.firstFault = some ⟨k, ⟨s.shift.clock, s.head.stamp⟩, none, s.sup.line⟩)) ∧
        (present = false → (faultEntry s k).state = .active → (faultEntry t k).state = .latched ∧
          (faultEntry t k).count = (faultEntry s k).count ∧
          (Listening s → Report.fault k .latched (faultEntry s k).count ∈ t.link.queue) ∧
          ((faultEntry s k).action = .halt → s.sup.line ≠ .halted → HaltedFrom s t)) ∧
        (BeltRuns s → (present = true ↔ (faultEntry s k).state ≠ .active) → ActedOnLine (faultEntry s k).action s t) ∧
        (present = false → (faultEntry s k).state ≠ .active → Noticed (driveInput f high s) t))) ∧
    (high = true → Held s .trayFull → (faultEntry s .trayFull).state ≠ .active → BeltRuns s → ∃ t, exec (.trayFullChange high) s = .next t ∧
      let halts := s.sup.line ≠ .halted ∧ (faultEntry s .trayFull).action = .halt
      (s.crumb.sweep ≠ none → t.crumb.pending = s.crumb.pending ∧ t.crumb.sweep = if halts then none else s.crumb.sweep) ∧
      (s.crumb.sweep = none → sweepsSuspended s = false → t.crumb.sweep = none ∧
        t.crumb.pending = if s.crumb.pending = some .changeover then none else s.crumb.pending) ∧
      (s.crumb.sweep = none → sweepsSuspended s = false → ¬halts → s.sup.line = .running ∨ s.sup.line = .draining →
          s.head.state = .empty → s.head.pusher.natAbs ≤ 2 → inputHigh s .stopEye = true →
        ∀ r ∈ oldestIn s .infeed, r.measured ≠ none → r.mark = none → ∀ sn ∈ r.snapshot, sn.figures.clearBefore = 1 →
          ∀ last ∈ s.crumb.lastAdmitted, last ≠ sn.slot →
        t.head.state = .passing ∧ t.head.tag = some r.tag ∧ t.head.knife = false ∧
          ∃ q ∈ t.track.loaves, q.tag = r.tag ∧ q.zone = .slicer ∧ q.mark = some .noClean)) ∧
    (∀ key, (¬Held s (.key key) → exec (.keyInputChange key high) s = .next s) ∧
      (Held s (.key key) → ∃ t, exec (.keyInputChange key high) s = .next t ∧ Noticed (driveInput (.key key) high s) t ∧
        inputHigh t (.key key) = high ∧
        (warnEntry t .keyInvalid).present = decide (Held t (.key .a) ∧ Held t (.key .b) ∧ inputHigh t (.key .a) = true ∧
          inputHigh t (.key .b) = true))) ∧
    tier s = (if ¬(Held s (.key .a) ∧ Held s (.key .b)) then .engineer
      else if inputHigh s (.key .a) = true ∧ inputHigh s (.key .b) = false then .setter
      else if inputHigh s (.key .a) = false ∧ inputHigh s (.key .b) = true then .engineer else .operator)

/-! ## The shift clock and totals -/

/-- R157, R159, R164 to R166: what SET CLOCK, SET SHIFTS and CLOSE SHIFT set, refuse and close. SET CLOCK taken with the clock not set
relabels the open record; taken with it set, it closes the shift exactly where the new moment has another shift identity, and stamps the
close and the opening with the new reading, which is the model's own (log entry 31). SET SHIFTS takes one to four pairs, any other number
being refused with SYNTAX, whose start minutes rise from entry 1 modulo 1440, and always closes. SET CLOCK's reply carries the date as
yyyy-mm-dd and the time as the clock reading in seconds (R186). The list form of SET SHIFTS' reply is the model's own (log entry 18), and that
an idle transmitter sends the reply before the #S of the same event is its reading (log entry 19). The identity of a moment is pinned in
ClockTickCountsAndCloses. -/
def Obligations.ShiftRequestsClose : Prop :=
  ∀ s : State, Free s → tierOk s .setter = true →
    (∀ m : Moment, WellFormed (.setClock (some m)) = true → momentInRange m = false →
      exec (.setClock (some m)) s = .next (answered (refusal .range) s)) ∧
    (∀ m : Moment, momentInRange m = true →
      let t := { s with shift := { s.shift with clock := readingOf m, clockSet := true } }
      let letter := entryLetter s.shift.schedule (entryNow t)
      let reply := fun (l : Byte) (d : Option Nat) => accepted "SET CLOCK" [dayText (dayOfReading (readingOf m)),
        decimal (readingOf m), [l], optText dayText d]
      (s.shift.clockSet = false → exec (.setClock (some m)) s = .next (answered (reply letter (some (bakeryNow t)))
        { t with shift := { t.shift with openRecord :=
          { s.shift.openRecord with entry := entryNow t, letter := letter, bakeryDay := some (bakeryNow t) } } })) ∧
      (s.shift.clockSet = true → entryNow t = s.shift.openRecord.entry → some (bakeryNow t) = s.shift.openRecord.bakeryDay →
        exec (.setClock (some m)) s = .next (answered (reply s.shift.openRecord.letter s.shift.openRecord.bakeryDay) t)) ∧
      (s.shift.clockSet = true → entryNow t ≠ s.shift.openRecord.entry ∨ some (bakeryNow t) ≠ s.shift.openRecord.bakeryDay →
        exec (.setClock (some m)) s = .next (answered (reply letter (some (bakeryNow t)))
          (closedAs .clockSet (entryNow t) letter (some (bakeryNow t)) t)))) ∧
    (∀ ps : List ShiftPair,
      let ranged := (∀ p ∈ ps, (65 ≤ (capital p.letter).toNat ∧ (capital p.letter).toNat ≤ 90) ∧ p.hour ≤ 23 ∧ p.minute ≤ 59) ∧
        ∀ first ∈ ps.head?,
          (ps.map fun p => (p.hour * 60 + p.minute + 1440 - (first.hour * 60 + first.minute)) % 1440).Pairwise (· < ·)
      let t := { s with shift := { s.shift with schedule := ps.map entryOf } }
      let four := 1 ≤ ps.length ∧ ps.length ≤ 4
      let entries : Text := (ps.map fun p =>
        0x2C :: capital p.letter :: 0x3A :: padded 2 p.hour ++ 0x3A :: padded 2 p.minute).flatten.drop 1
      (¬four → exec (.setShifts (some ps)) s = .next (answered (refusal .malformed) s)) ∧
      (four → WellFormed (.setShifts (some ps)) = true → ¬ranged →
        exec (.setShifts (some ps)) s = .next (answered (refusal .range) s)) ∧
      (four → ranged → exec (.setShifts (some ps)) s = .next (answered (accepted "SET SHIFTS" [entries])
        (closedAs .scheduleChanged (entryNow t) (entryLetter (ps.map entryOf) (entryNow t))
          (if s.shift.clockSet then some (bakeryNow t) else none) t)))) ∧
    exec (.closeShift (some ())) s = .next (answered
      (accepted "CLOSE SHIFT" [decimal s.track.loaves.length, [s.shift.openRecord.letter]])
      (closedAs .command s.shift.openRecord.entry s.shift.openRecord.letter s.shift.openRecord.bakeryDay s))

/-- R156, R163, R164: a tick advances the clock by one second, the last second of 2099 being followed by the first of 2000, and gives one
second to the count of the line state in the record open before it; then, with the clock set, second 00 of an entry's start minute closes
the shift with cause SCHEDULE, and at any other moment, or with the clock not set, nothing more happens. R107, R108, R157, R158: the
calendar goes from day to day by the months' lengths, a moment in range is the reading of its date and time, its bakery date follows the
table of R107 inside the calendar, and its shift entry is the one whose period contains the time of day. -/
def Obligations.ClockTickCountsAndCloses : Prop :=
  (∀ s : State, s.shift.clock ≤ 3155759999 →
    let one := fun (l : LineState) (n : Nat) => if s.sup.line = l then min (n + 1) 4294967295 else n
    let r := s.shift.openRecord
    let t := { s with shift := { s.shift with
      clock := if s.shift.clock = 3155759999 then 0 else s.shift.clock + 1
      openRecord := { r with
        runSeconds := one .running r.runSeconds, drainSeconds := one .draining r.drainSeconds
        stopSeconds := one .stopped r.stopSeconds, haltSeconds := one .halted r.haltSeconds } } }
    let start := s.shift.clockSet = true ∧ ∃ e ∈ s.shift.schedule, t.shift.clock % 86400 = e.startMinute * 60
    (start → exec .clockTick s = .next (transmit
      (closedAs .schedule (entryNow t) (entryLetter s.shift.schedule (entryNow t)) (some (bakeryNow t)) t))) ∧
    (¬start → exec .clockTick s = .next t)) ∧
  (∀ s : State, ∀ first ∈ s.shift.schedule.head?,
    let day : Int := (s.shift.clock / 86400 : Nat)
    let minute := s.shift.clock % 86400 / 60
    let past := fun from' at' => (at' + 1440 - from') % 1440
    ((bakeryNow s : Nat) : Int) = max 0 (min 36524
      (if 720 ≤ first.startMinute then if minute < first.startMinute then day else day + 1
        else if minute < first.startMinute then day - 1 else day)) ∧
    (s.shift.schedule.length ≤ 4 → (∀ e ∈ s.shift.schedule, e.startMinute ≤ 1439) →
      (s.shift.schedule.map fun e => past first.startMinute e.startMinute).Pairwise (· < ·) →
      1 ≤ entryNow s ∧ entryNow s ≤ s.shift.schedule.length ∧
      ∀ e ∈ s.shift.schedule[entryNow s - 1]?, entryLetter s.shift.schedule (entryNow s) = e.letter ∧
        (s.shift.schedule.length = 1 ∨
          past e.startMinute minute < past e.startMinute ((s.shift.schedule[entryNow s]?.getD first).startMinute)))) ∧
  (let long := fun year month : Nat =>
    if month = 2 then if year % 4 = 0 then 29 else 28
    else if month = 4 ∨ month = 6 ∨ month = 9 ∨ month = 11 then 30 else 31
  dateOfDay 0 = ⟨2000, 1, 1⟩ ∧
    (∀ n, n < 36524 → dateOfDay (n + 1) =
      if (dateOfDay n).day < long (dateOfDay n).year (dateOfDay n).month then { dateOfDay n with day := (dateOfDay n).day + 1 }
      else if (dateOfDay n).month < 12 then ⟨(dateOfDay n).year, (dateOfDay n).month + 1, 1⟩ else ⟨(dateOfDay n).year + 1, 1, 1⟩) ∧
    ∀ m : Moment,
      (momentInRange m = true ↔ (2000 ≤ m.year ∧ m.year ≤ 2099) ∧ (1 ≤ m.month ∧ m.month ≤ 12) ∧
        (1 ≤ m.day ∧ m.day ≤ long m.year m.month) ∧ m.hour ≤ 23 ∧ m.minute ≤ 59 ∧ m.second ≤ 59) ∧
      (momentInRange m = true → dateOfDay (readingOf m / 86400) = ⟨m.year, m.month, m.day⟩ ∧
        readingOf m % 86400 = m.hour * 3600 + m.minute * 60 + m.second ∧ readingOf m ≤ 3155759999))

/-! ## The points -/

/-- R170, R172, R173: SET POINT's refusals in their order; past them the point takes its configuration, with no pull-up on an output and no
edge select or report outside IN, its latch clear and its written level low; no other point changes. The guard, the tray and the key switch
are taken as levels: GUARD_OPEN stands ACTIVE exactly while the guard function is held and low, TRAY_FULL while the tray function is high,
KEY_INVALID is present while both keys are held and on. R171: a request that leaves an input function on its point and moves the level
there, by the pull-up of an undriven terminal, hands the owner that change, any other hands no edge. That the written level of a point
outside OUT is low is the model's own (log entry 26), that a change in IN takes no edge (log entry 42), and that the reply is the point and
its five values (log entry 43). -/
def Obligations.PointTakesConfiguration : Prop :=
  ∀ (p : PointNo) (m : PointMode) (d : DriveKind) (pull : Bool) (e : EdgeSelect) (rep : Bool) (s : State), Free s → pointsLawful s →
    let run := exec (.setPoint (some ⟨p.val, some m, some d, if pull then 1 else 0, some e, if rep then 1 else 0⟩)) s
    let answer := fun c => run = .next (answered (refusal c) s)
    let f := functionOf p m
    let guarded := s.recipes.lockdown = true ∧
      pointFunction s p ∈ [some (Func.key .a), some (Func.key .b), some Func.guardDoor]
    let noFunction := m = .func2 ∧ func2Of p.val = none
    let noStationB := s.member = .bl320 ∧ f ∈ [some (Func.bagEye .b), some (Func.blower .b), some (Func.scoop .b), some (Func.tie .b)]
    let inUse := ∃ g ∈ f, ∃ q, q ≠ p ∧ pointFunction s q = some g
    let drives : Bool := decide (m = .output ∨ ∃ g ∈ f, isInput g = false)
    (tierOk s .engineer = false → answer .tier) ∧
    (tierOk s .engineer = true → moving s = true → answer .state) ∧
    (tierOk s .engineer = true → moving s = false → guarded → answer .locked) ∧
    (tierOk s .engineer = true → moving s = false → ¬guarded → noFunction → answer .notAvailable) ∧
    (tierOk s .engineer = true → moving s = false → ¬guarded → ¬noFunction → noStationB → answer .notFitted) ∧
    (tierOk s .engineer = true → moving s = false → ¬guarded → ¬noFunction → ¬noStationB →
      (inUse → answer .inUse) ∧
      (¬inUse →
        let point : Point := { s.points[p] with
          mode := m, drive := d, pullUp := pull && !drives, edge := if m = .input then e else .never, report := rep && decide (m = .input)
          latch := false, written := false }
        let level := fun q : Point => if q.driven = false ∧ q.pullUp = true then true else q.signal
        let moved := pointFunction s p = f ∧ drives = false ∧ m ≠ .input ∧ level point ≠ level s.points[p]
        ∃ t, run = .next (answered (accepted "SET POINT" [decimal p.val, codes (pointModeText m), codes (driveText d),
          flagText point.pullUp, codes (edgeText point.edge), flagText point.report]) t) ∧ t.points = s.points.set p point ∧
        (¬moved → Aside s t ∧ t.track.loaves.map Loaf.tag = s.track.loaves.map Loaf.tag) ∧
        (moved → ∀ g ∈ f, let taken := inputChanged g (level point) { s with points := s.points.set p point }
          Aside taken t ∧ t.track.loaves.map Loaf.tag = taken.track.loaves.map Loaf.tag) ∧
        ((faultEntry t .guardOpen).state = .active ↔ Held t .guardDoor ∧ inputHigh t .guardDoor = false) ∧
        ((faultEntry t .trayFull).state = .active ↔ inputHigh t .trayFull = true) ∧
        ((warnEntry t .keyInvalid).present = true ↔ Held t (.key .a) ∧ Held t (.key .b) ∧ inputHigh t (.key .a) = true ∧
          inputHigh t (.key .b) = true)))

/-- R170, R171, R174 to R176: a change at the terminal of a point in IN sets its latch where the edge select takes the edge, and #E, which
names the edge and the level, waits in the queue of a busy transmitter exactly where its report is on. Outside IN no latch is set, no #E
joins the queue, and a change of level at a held input function is handed to its owner: the command does what the owner's handler does, and
where one point alone holds the function it is the function's own edge command. A terminal let go with the pull-up on reads high; the command's form is log
entry 35, and the level of one let go without it is the free value of log entry 9. A push-pull point drives both levels, an open-drain one
pulls low and lets go, an input lets its terminal go; an output function's level is high while its owner asserts it, the blower and the
scoop as R79 and R88 say, TREND low at the duty 0 and high at 1023 (R136). TAKE EDGES lists the latched points in ascending order and clears
every latch. WRITE OUT sets the level of a point in OUT and is refused with STATE elsewhere, and the point drives what was written. -/
def Obligations.EdgesAndLevelsTaken : Prop :=
  ∀ (p : PointNo) (s : State),
    (∀ sig : Signal, ∃ t, exec (.plainInputEdge p sig) s = .next t ∧
      let level := fun q : Point => if q.driven = false ∧ q.pullUp = true then true else q.signal
      let before := level s.points[p]
      let after := level t.points[p]
      let changed := { s with
        points := s.points.set p { s.points[p] with driven := decide (sig ≠ .undriven), signal := t.points[p].signal }, fresh := t.fresh }
      (sig = .low → after = false) ∧ (sig = .high → after = true) ∧ (sig = .undriven → s.points[p].pullUp = true → after = true) ∧
      (sig ≠ .undriven → t.points[p].signal = after ∧ t.fresh = s.fresh) ∧
      (s.points[p].mode = .input →
        let taken := before ≠ after ∧ (s.points[p].edge = .both ∨ (s.points[p].edge = .rise ∧ after = true) ∨
          (s.points[p].edge = .fall ∧ after = false))
        let v := { changed with points := changed.points.set p { changed.points[p] with latch := s.points[p].latch || decide taken } }
        pointLevel t p = after ∧ Noticed (if taken ∧ s.points[p].report = true then report (.edge p after after) v else v) t ∧
          (Listening s → ∀ (q : PointNo) (rise high : Bool), Report.edge q rise high ∈ t.link.queue ↔
            taken ∧ s.points[p].report = true ∧ q = p ∧ rise = after ∧ high = after)) ∧
      (s.points[p].mode ≠ .input → (before = after ∨ ∀ f ∈ pointFunction s p, isInput f = false) → Noticed changed t) ∧
      (s.points[p].mode ≠ .input → before ≠ after → ∀ f ∈ pointFunction s p, isInput f = true →
        Noticed (inputChanged f after changed) t) ∧
      (s.points[p].mode ≠ .input → t.points = changed.points ∧
        ∀ (q : PointNo) (rise high : Bool), Report.edge q rise high ∈ t.link.queue → Report.edge q rise high ∈ s.link.queue)) ∧
    (∀ f ∈ pointFunction s p, (∀ q, pointFunction s q = some f → q = p) → ∀ high : Bool,
      (if s.points[p].driven = false ∧ s.points[p].pullUp = true then true else s.points[p].signal) ≠ high → ∀ c ∈ edgeCommand f high,
        exec (.plainInputEdge p (if high then .high else .low)) s = exec c s) ∧
    (let level := pointLevel s p
      let drives := s.points[p].mode = .output ∨ ∃ g ∈ pointFunction s p, isInput g = false
      (drives → s.points[p].drive = .pushPull → terminalDrive s p = if level then .drivenHigh else .drivenLow) ∧
      (drives → s.points[p].drive = .openDrain → terminalDrive s p = if level then .letGo else .pulledLow) ∧
      (¬drives → terminalDrive s p = .letGo ∧
        level = if s.points[p].driven = false ∧ s.points[p].pullUp = true then true else s.points[p].signal) ∧
      (s.points[p].mode = .output → level = s.points[p].written) ∧
      ∀ row ∈ ([(.infeedHold, s.track.infeedHold), (.knifeRun, s.head.knife),
          (.pusherEnable, decide (s.sup.line = .running ∨ s.sup.line = .draining)),
          (.rejectGate, decide ((∃ r ∈ s.track.loaves, r.zone = .reject) ∧ s.sup.line ≠ .halted)),
          (.stationGate, s.stations.stationGate), (.airKnife, s.crumb.airKnife),
          (.vacuum, decide (∃ w ∈ s.crumb.sweep, w.timerRunning = true)),
          (.tie .a, decide (s.tyers.a.stage ≠ none)), (.tie .b, decide (s.tyers.b.stage ≠ none))] : List (Func × Bool)),
        pointFunction s p = some row.1 → level = row.2) ∧
    (∀ x, let r := stationRec s x
      (pointFunction s p = some (.blower x) → pointLevel s p = decide (s.sup.line ≠ .halted ∧
        ((r.state = .opening ∧ r.attempt ≠ none) ∨ r.state = .ready ∨ r.state = .filling ∨ r.state = .tying))) ∧
      (pointFunction s p = some (.scoop x) → pointLevel s p = decide (s.sup.line ≠ .halted ∧ r.scoopTimer ≠ none))) ∧
    (pointFunction s p = some .trend →
      (s.meas.trend.duty = 0 → pointLevel s p = false) ∧ (s.meas.trend.duty = 1023 → pointLevel s p = true)) ∧
    (Free s →
      exec (.takeEdges (some ())) s = .next (answered
        (accepted "TAKE EDGES" [listText (((List.finRange 24).filter fun q => s.points[q].latch).map fun q => decimal q.val)])
        { s with points := s.points.map fun q => { q with latch := false } }) ∧
      (tierOk s .setter = true → ∀ level : Bool,
        (s.points[p].mode = .output →
          exec (.writeOut (some ⟨p.val, if level then 1 else 0⟩)) s = .next (answered
            (accepted "WRITE OUT" [decimal p.val, flagText level])
            { s with points := s.points.set p { s.points[p] with written := level } }) ∧
          pointLevel { s with points := s.points.set p { s.points[p] with written := level } } p = level) ∧
        (s.points[p].mode ≠ .output →
          exec (.writeOut (some ⟨p.val, if level then 1 else 0⟩)) s = .next (answered (refusal .state) s))))

/-! ## The link -/

/-- R33, R179, R180: a request that arrives with no reply owed and no pending answer held is answered in one of two ways: with "!" and a code,
a refusal whatever the code, and then nothing else of the state changes, or with a reply whose first line begins with "=". One in a form that its
syntax line does not admit is refused with SYNTAX; one from a caller below its minimum tier is refused. A request that arrives while a reply is
owed or a pending answer is held is not taken: its pending answer is BUSY, unless one is already held. -/
def Obligations.RefusalsChangeNothing : Prop :=
  (∀ (c : Instr) (s : State), isRequest c = true → Free s →
    (∃ code, exec c s = .next (answered (refusal code) s)) ∨
      ∃ (x : Text) (xs : List Text) (b : Bool) (t : State), exec c s = .next (answered ⟨(0x3D :: x) :: xs, b⟩ t)) ∧
  (∀ c ∈ bareTrackForms ++ bareMachineForms ++ bareLineForms, ∀ s : State, Free s →
    exec c s = .next (answered (refusal .malformed) s)) ∧
  (∀ (c : Instr) (s : State), isRequest c = true → Free s → tierRank (tier s) < tierRank (requestTier c) →
    ∃ code, exec c s = .next (answered (refusal code) s)) ∧
  (∀ (c : Instr) (s : State), isRequest c = true → ¬Free s →
    exec c s = .next { s with link := { s.link with pendingAnswer := s.link.pendingAnswer.or (some .busy) } })

/-- R178, R179: a character is stored up to the 124th and starts the silence timer again; a line feed is ignored; a CR completes the line,
and with nothing before it does nothing. The silence timer discards a partial line; one that does not run does nothing (log entry 4). A
completed line whose frame is wrong is answered FRAME, at once or, while the link is not free, as the pending answer. A right one is handed
to its command, of which the listed lines are instances, or refused with UNKNOWN. -/
def Obligations.ReceptionTakesLines : Prop :=
  ∀ s : State,
    let empty := { s with link := { s.link with buffer := [], silence := false } }
    let holds := fun b => { s with link := { s.link with buffer := b } }
    let right := fun (b t : Text) => ∃ (hi lo : Byte) (h l : Nat), b = t ++ [0x3B, hi, lo] ∧ hexValue hi = some h ∧
      hexValue lo = some l ∧ (t.map BitVec.toNat).sum % 256 = 16 * h + l ∧ t.length ≤ 120 ∧
      ∀ c ∈ b, 32 ≤ c.toNat ∧ c.toNat ≤ 126
    (∀ c : Byte, c ≠ 0x0A → c ≠ 0x0D → exec (.characterReceived c) s = .next { s with link := { s.link with
      buffer := if s.link.buffer.length < 124 then s.link.buffer ++ [c] else s.link.buffer, silence := true } }) ∧
    exec (.characterReceived 0x0A) s = .next s ∧
    exec (.characterReceived 0x0D) s = exec .requestLine s ∧
    (s.link.buffer = [] → exec .requestLine s = .next s) ∧
    (s.link.silence = true → exec .silenceTimeout s = .next empty) ∧
    (s.link.silence = false → exec .silenceTimeout s = .next s) ∧
    (s.link.buffer ≠ [] → (∀ t, ¬right s.link.buffer t) →
      (Free s → exec .requestLine s = .next (answered (refusal .frame) empty)) ∧
      (¬Free s → exec .requestLine s =
        .next { empty with link := { empty.link with pendingAnswer := s.link.pendingAnswer.or (some .frame) } })) ∧
    (∀ t, right s.link.buffer t →
      (Free s → exec .requestLine s = .next (serve (serviceOf (splitAt 0x20 t)) empty)) ∧
      (¬Free s → exec .requestLine s =
        .next { empty with link := { empty.link with pendingAnswer := s.link.pendingAnswer.or (some .busy) } })) ∧
    (∀ v ∈ [("START;8E", Instr.start (some ())), ("set bagging 1500 40;A5", .setBagging (some ⟨1500, 40⟩)),
        ("LOAD BAGS A 400;72", .loadBags (some ⟨.a, 400⟩)), ("REJECT 63;46", .reject (some 63)),
        ("STOP DRAIN;D4", .stopDrain (some ())), ("START 1;DF", .start none)],
      exec .requestLine (holds (codes v.1)) = exec v.2 empty) ∧
    (Free s → ∀ v ∈ ["READ;1C", "SET FOO;F0", " START;AE"],
      exec .requestLine (holds (codes v)) = .next (answered (refusal .unknown) empty))

/-- R180 to R183: as a line has been sent the transmitter begins the first that exists of the next line of the owed reply, the pending
answer, the oldest URGENT report, the oldest NORMAL report; a report leaves the queue and carries "+" where a report was lost. The last line
of a reply ends it, and a pending answer sent is cleared. A report joins a queue of fewer than 16, else takes the place of the oldest NORMAL
one, or is dropped where all are URGENT. Each kind of report has its class, its enable and its fields: #F, #L, #W, #D, #X, #C, #S and #E.
With no line in sending LINE_SENT does nothing (log entry 4). -/
def Obligations.TransmitterKeepsOrder : Prop :=
  let begins := fun (l m : Link) =>
    (∀ x xs b, l.owed = some ⟨x :: xs, b⟩ → m = { l with owed := some ⟨xs, b⟩, sending := some ⟨.reply, sealLine x⟩ }) ∧
    (l.owed = none → ∀ c, l.pendingAnswer = some c → m = { l with sending := some ⟨.pendingAnswer, sealLine (0x21 :: codes (codeText c))⟩ }) ∧
    (l.owed = none → l.pendingAnswer = none → l.queue = [] → m = l) ∧
    (l.owed = none → l.pendingAnswer = none → ∀ before r after, l.queue = before ++ r :: after →
      (r.urgent = true ∧ ∀ q ∈ before, q.urgent = false) ∨ (before = [] ∧ ∀ q ∈ l.queue, q.urgent = false) →
      m = { l with
        queue := before ++ after, lost := false
        sending := some ⟨.report, sealLine (if l.lost then 0x23 :: 0x2B :: r.text else 0x23 :: r.text)⟩ })
  (∀ s : State,
    (s.link.sending = none → exec .lineSent s = .next s) ∧
    (∀ txt, s.link.sending = some ⟨.report, txt⟩ →
      ∃ m, exec .lineSent s = .next { s with link := m } ∧ begins { s.link with sending := none } m) ∧
    (∀ txt, s.link.sending = some ⟨.pendingAnswer, txt⟩ →
      ∃ m, exec .lineSent s = .next { s with link := m } ∧ begins { s.link with sending := none, pendingAnswer := none } m) ∧
    (∀ txt x xs b, s.link.sending = some ⟨.reply, txt⟩ → s.link.owed = some ⟨x :: xs, b⟩ →
      ∃ m, exec .lineSent s = .next { s with link := m } ∧ begins { s.link with sending := none } m) ∧
    (∀ txt, s.link.sending = some ⟨.reply, txt⟩ → s.link.owed = some ⟨[], false⟩ →
      ∃ m, exec .lineSent s = .next { s with link := m } ∧ begins { s.link with sending := none, owed := none } m)) ∧
  (∀ (r : Report) (s : State),
    let joins := fun q l => { s with link := { s.link with queue := q, lost := l } }
    (s.link.enables.allow r = false → report r s = s) ∧
    (s.link.enables.allow r = true → s.link.queue.length < 16 → report r s = joins (s.link.queue ++ [r]) s.link.lost) ∧
    (s.link.enables.allow r = true → 16 ≤ s.link.queue.length →
      (∀ before q after, s.link.queue = before ++ q :: after → q.urgent = false → (∀ p ∈ before, p.urgent = true) →
        report r s = joins (before ++ after ++ [r]) true) ∧
      ((∀ q ∈ s.link.queue, q.urgent = true) → report r s = joins s.link.queue true))) ∧
  (
    let kind := fun (r : Report) (urgent : Bool) (enabled : Enables → Bool) (letter : String) (fs : List Text) =>
      r.urgent = urgent ∧ (∀ e : Enables, e.allow r = enabled e) ∧ r.text = codes letter ++ (fs.map fun f => 0x20 :: f).flatten
    (∀ k st n, kind (.fault k st n) true (fun _ => true) "F" [codes (faultText k), codes (faultStateText st), decimal n]) ∧
    (∀ l, kind (.line l) true (fun _ => true) "L" [codes (lineText l)]) ∧
    (∀ w (b : Bool), kind (.warning w b) false Enables.w "W" [codes (warnText w), codes (if b then "1" else "0")]) ∧
    (∀ tag tie, kind (.done tag tie) false Enables.d "D"
      [decimal tag, match tie with | some v => codes (tieText v) | none => codes "-"]) ∧
    (∀ tag m, kind (.rejected tag (some m)) false Enables.x "X" [decimal tag, codes (markText m)]) ∧
    (∀ reason result n, kind (.sweep reason result n) false Enables.c "C"
      [codes (reasonText reason), codes (sweepText result), decimal n]) ∧
    (∀ letter day cause time out, kind (.shift letter day cause time out) false Enables.s "S"
      [[letter], match day with | some d => dayText d | none => codes "-", codes (causeText cause), decimal time, decimal out]) ∧
    (∀ (p : PointNo) (b high : Bool), kind (.edge p b high) false Enables.e "E"
      [decimal p.val, codes (if b then "RISE" else "FALL"), codes (if high then "1" else "0")]) ∧
    (Report.fault .jamOutfeed .latched 1).text = codes "F JAM_OUTFEED LATCHED 1")

/-- R22, R29, R42, R76, R96, R106, R122, R137, R153, R154, R157, R167, R176, R180, R184, R186: each reading gives the reply of its layout,
field by field in the order of R186, and changes nothing but this: READ STATUS clears the warning indications after it has read them, and READ
POINTS uses up a free value of the model's where it reads a TREND output inside its period (log entry 9). The order of the faults and of the
warnings is the model's choice (log entry 52), and so are the forms that R186 leaves open in a layout (log entries 18 and 43), the text of a
negative pusher count (log entry 8) and the clamped bakery date in READ CLOCK (log entry 30). RESET changes nothing until its reply has been
sent. -/
def Obligations.ReadsAnswerAsTheStateStands : Prop :=
  let joined := fun fs : List Text => ((fs.map fun f => 0x20 :: f).flatten.drop 1 : Text)
  let line := fun (words : String) (fs : List Text) => (⟨[0x3D :: joined (codes words :: fs)], false⟩ : Owed)
  let table := fun (words : String) (header : List Text) (follow : List (List Text)) =>
    (⟨(0x3D :: joined (codes words :: decimal follow.length :: header)) :: follow.map fun fs => 0x3D :: joined fs, false⟩ : Owed)
  let or := fun o : Option Text => o.getD (codes "-")
  let nat := fun o : Option Nat => or (o.map decimal)
  let list := fun ts : List Text => if ts = [] then codes "-" else ((ts.map fun f => 0x2C :: f).flatten.drop 1 : Text)
  let flag := fun b : Bool => codes (if b then "1" else "0")
  let time := fun m : Nat => (padded 2 (m / 60) ++ 0x3A :: padded 2 (m % 60) : Text)
  let figures := fun f : Figures =>
    [f.thickness, f.heel, f.maxSlices, f.minLength, f.maxLength, f.crumb, f.bagClass, f.shelfDays, f.clearBefore]
  let loaf := fun r : Loaf =>
    [decimal r.tag, codes (zoneText r.zone), nat (r.snapshot.map fun v => v.slot.val)] ++
    (match r.snapshot with | some v => (figures v.figures).map decimal ++ [flag v.locked] | none => List.replicate 10 (codes "-")) ++
    [decimal r.leadCount.toNat, nat (r.measured.map fun m => m.counts), nat (r.measured.map fun m => m.lmm)] ++
    (match r.plan with
      | some p => [decimal p.n, decimal p.leadHeel, decimal p.trailHeel, decimal p.cutCount, list (p.targets.map decimal),
        decimal p.ejectTarget]
      | none => List.replicate 6 (codes "-")) ++
    [nat r.cutsDone, or (r.mark.map fun m => codes (markText m)), or (r.station.map fun x => codes (stationText x)),
      or (r.tie.map fun v => codes (tieText v)),
      or (r.clipCode.map fun c => padded 2 c.day ++ 0x2E :: padded 2 c.month ++ [0x2F, c.letter]),
      nat (r.ejectCount.map fun b => b.toNat),
      or (r.check.map fun c => codes (checkText c.kind) ++ 0x3A :: decimal c.remaining)]
  let bounds : List (BoundLimit × Channel × String) := [(.knifeWarn, 0, "BLADE_DULL"), (.knifeFault, 0, "BLADE_OVERLOAD"),
    (.pusherFault, 1, "PUSHER_OVERLOAD"), (.bladeWarn, 2, "BLADE_WARM"), (.bladeFault, 2, "BLADE_HOT"), (.supplyWarn, 6, "SUPPLY_SAG"),
    (.supplyFault, 6, "SUPPLY_LOW"), (.boardFault, 7, "BOARD_HOT")]
  let set := fun cs : List Channel => if cs = [] then codes "NONE" else ((cs.map fun c => decimal c.val).flatten : Text)
  let header := fun r : ShiftRecord => [decimal r.entry, [r.letter], or (r.bakeryDay.map dayText), decimal r.openTime,
    flag r.openClockSet, decimal r.carriedIn]
  let counts := fun (m : Member) (r : ShiftRecord) =>
    [[r.loavesIn, r.bagged, r.lost, r.unrecorded].map decimal,
      [r.rejected.short, r.rejected.double, r.rejected.operator, r.rejected.miscut, r.rejected.interrupted, r.rejected.noRecipe,
        r.rejected.noClean].map decimal,
      [r.sweepsSuccess, r.sweepsWeak, r.sweepsAborted, r.bursts, r.halts].map decimal,
      [r.runSeconds, r.drainSeconds, r.stopSeconds, r.haltSeconds].map decimal] ++
    ((fittedStations m).map fun x => codes (stationText x) ::
      [(r.stations.get x).drawn, (r.stations.get x).wasted, (r.stations.get x).clipMm, (r.stations.get x).misties,
        (r.stations.get x).untied].map decimal) ++
    r.lines.map fun l => (match l.key with | some i => decimal i.val | none => codes "NONE") ::
      [l.loavesIn, l.bagged, l.rejected, l.slices].map decimal
  ∀ s : State, Free s →
    let onePart : FaultKind → Bool := fun k => s.member = .bl340 || (k ≠ .station .b && k ≠ .clipsOut .b)
    let faults := [FaultKind.guardOpen, .bladeStall, .beltStall, .jamInfeed, .jamOutfeed, .trackOverrun, .rejectMissed, .pusherFault,
      .pusherOverload, .bladeOverload, .bladeHot, .station .a, .station .b, .clipsOut .a, .clipsOut .b, .vacuumFail, .trayFull,
      .supplyLow, .boardHot].filter onePart
    let warnings := [WarnKind.trackFull, .keyInvalid, .strayEdge, .miscut, .bagsLow .a, .bagsLow .b, .bagsEmpty .a, .bagsEmpty .b,
      .noStation, .clipsLow .a, .clipsLow .b, .mistie, .sweepWeak, .crumbHigh, .bladeDull, .bladeWarm, .supplySag].filter fun w =>
        s.member = .bl340 || (w ≠ .bagsLow .b && w ≠ .bagsEmpty .b && w ≠ .clipsLow .b)
    (∀ v ∈ [(Instr.readTrack (some ()), table "READ TRACK" [] (s.track.loaves.map loaf)),
        (.readAccess (some ()), line "READ ACCESS" [codes (tierText (tier s)), flag (isHeld s (.key .a)), flag (isHeld s (.key .b)),
          flag (warnEntry s .keyInvalid).present, nat (s.recipes.runRecipe.map fun i => i.val), flag s.recipes.lockdown,
          flag s.recipes.bypass, flag s.recipes.frozen,
          list (((List.finRange 16).filter fun i => s.recipes.slots[i].any fun r => r.locked).map fun i => decimal i.val)]),
        (.readSlicer (some ()), line "READ SLICER" [codes (headText s.head.state),
          or (s.head.pausedFrom.map fun h => codes (headText h)), nat s.head.tag, nat s.head.nextCut,
          nat (s.head.tag.bind fun tag => (findLoaf s tag).bind fun r => r.cutsDone), signedText s.head.target,
          signedText s.head.pusher, flag (decide (s.head.pusher.natAbs ≤ 2)), flag s.head.knife, flag s.head.park,
          codes (bladeText s.head.phase), decimal s.head.stamp.toNat, nat (s.head.previous.map fun v => v.1),
          nat (s.head.previous.map fun v => v.2), decimal s.head.miscuts]),
        (.readStations (some ()), table "READ STATIONS" [codes (policyText s.stations.policy), codes (stationText s.stations.lastAssigned),
          decimal s.stations.times.openTimeout, decimal s.stations.times.scoopTime, flag s.stations.stationGate, flag (rejectGate s)]
          ((fittedStations s.member).map fun x => [codes (stationText x), codes (stationStateText (stationRec s x).state),
            decimal (stationRec s x).bagClass, flag (stationRec s x).inServiceFlag, flag (faultHold s x), flag (stationRec s x).held,
            decimal (stationRec s x).magazine, nat (stationRec s x).attempt, nat (stationRec s x).tag,
            decimal (stationRec s x).misties])),
        (.readTyers (some ()), table "READ TYERS" [flag s.options.printer] ((fittedStations s.member).map fun x =>
          [codes (stationText x), flag (tyerFitted s x)] ++
          (if tyerFitted s x then [(tyerOf s x).spool, (tyerOf s x).settings.s, (tyerOf s x).settings.m, (tyerOf s x).settings.l,
            (tyerOf s x).settings.xl, (tyerOf s x).settings.strike].map decimal else List.replicate 6 (decimal 0)) ++
          [or ((tyerOf s x).stage.map fun _ => codes "STRIKING"), flag (tyerOf s x).clipsOut])),
        (.readCrumb (some ()), line "READ CRUMB" [decimal s.crumb.bladeLoad, decimal s.crumb.trayLoad, flag s.crumb.bursting,
          or (s.crumb.pending.map fun r => codes (reasonText r)), flag s.crumb.sweep.isSome,
          or (s.crumb.sweep.map fun w => flag w.judged.isSome), flag (sweepsSuspended s),
          nat (s.crumb.lastAdmitted.map fun i => i.val), decimal s.crumb.weakCount, decimal s.crumb.settings.bladeThreshold,
          decimal s.crumb.settings.step, decimal s.crumb.settings.trayThreshold, decimal s.crumb.settings.sweepTime,
          decimal s.crumb.settings.pressure]),
        (.readChannels (some ()), table "READ CHANNELS" [set s.meas.sampling.cutSet, set s.meas.sampling.retSet,
          codes (modeText s.meas.sampling.mode), decimal s.meas.sampling.edgeDelay, decimal s.meas.sampling.hybridPeriod,
          decimal s.meas.trend.channel.val, decimal s.meas.trend.frequency, flag (decide (s.head.phase ≠ .idle))]
          ((List.finRange 8).map fun c : Channel => [decimal c.val, decimal s.meas.samples[c].value, decimal s.meas.samples[c].stamp.toNat,
            codes (samplePhaseText s.meas.samples[c].phase)] ++
            (if s.member = .bl320 ∧ c = 5 then List.replicate 4 (decimal 0) else [s.meas.limits[c].faultLow, s.meas.limits[c].warnLow,
              s.meas.limits[c].warnHigh, s.meas.limits[c].faultHigh].map decimal) ++
            [decimal s.meas.limits[c].deglitch,
              list ((bounds.filter fun v => v.2.1 = c && s.meas.bounds[boundIndex v.1].present).map fun v => codes v.2.2)])),
        (.readFaults (some ()), table "READ FAULTS" [] ((faults.map fun k => [codes (faultText k),
          codes (faultStateText (faultEntry s k).state), codes (actionText (faultEntry s k).action),
          list ((allowedActions k).map fun a => codes (actionText a)), decimal (faultEntry s k).count,
          nat ((faultEntry s k).lastStamp.map fun v => v.clock), nat ((faultEntry s k).lastStamp.map fun v => v.rev.toNat),
          nat (faultEntry s k).lastLoaf, flag (faultEntry s k).mask]) ++
          warnings.map fun w => [codes (warnText w), flag (warnEntry s w).mask])),
        (.readClock (some ()), line "READ CLOCK" [dayText (dayOfReading s.shift.clock), decimal s.shift.clock,
          decimal s.shift.clock, flag s.shift.clockSet, list (s.shift.schedule.map fun e => e.letter :: 0x3A :: time e.startMinute),
          decimal (entryNow s), dayText (bakeryNow s)]),
        (.readTotals (some ()), table "READ TOTALS" (header s.shift.openRecord ++ [decimal s.track.loaves.length])
          (counts s.member s.shift.openRecord)),
        (.ident (some ()), line "IDENT" [codes (memberText s.member), codes "C", flag s.options.printer,
          flag s.options.tyers.a, flag s.options.tyers.b, codes (resetText s.sup.resetCause)])],
      exec v.1 s = .next (answered v.2 s)) ∧
    (∀ n : Nat,
      (15 < n → exec (.readRecipe (some n)) s = .next (answered (refusal .range) s)) ∧
      (∀ i : Slot, i.val = n → s.recipes.slots[i] = none → exec (.readRecipe (some n)) s = .next (answered (refusal .noSuch) s)) ∧
      (∀ (i : Slot) (r : Recipe), i.val = n → s.recipes.slots[i] = some r →
        exec (.readRecipe (some n)) s = .next (answered (line "READ RECIPE" (decimal n :: r.name ::
          ((figures { r.figures with shelfDays := if s.options.printer then r.figures.shelfDays else 0 }).map decimal ++
          [flag r.locked, flag (decide (s.recipes.runRecipe = some i))]))) s)) ∧
      (7 < n → exec (.readHistory (some n)) s = .next (answered (refusal .range) s)) ∧
      (n ≤ 7 → s.shift.history.length ≤ n → exec (.readHistory (some n)) s = .next (answered (refusal .noSuch) s)) ∧
      (∀ c, n ≤ 7 → s.shift.history[n]? = some c → exec (.readHistory (some n)) s = .next (answered
        (table "READ HISTORY" (header c.record ++ [decimal c.carriedOut, decimal c.closeTime, flag c.closeClockSet,
          codes (causeText c.cause)]) (counts s.member c.record)) s))) ∧
    exec (.readStatus (some ())) s = .next (answered
      (table "READ STATUS" [codes (lineText s.sup.line), codes (resetText s.sup.resetCause)]
        ((match s.sup.firstFault with
          | some r => [codes (faultText r.kind), decimal r.stamp.clock, decimal r.stamp.rev.toNat, nat r.loaf, codes (lineText r.line)]
          | none => [codes "-"]) ::
        (faults.map fun k => [codes (faultText k), codes (faultStateText (faultEntry s k).state)]) ++
        warnings.map fun w => [codes (warnText w), flag (warnEntry s w).present, flag (warnEntry s w).indication]))
      { s with sup := { s.sup with warnings := s.sup.warnings.map fun e => { e with indication := false } } }) ∧
    (∃ n, exec (.readPoints (some ())) s = .next (answered
      (table "READ POINTS" [] ((List.finRange 24).map fun p : PointNo => [decimal p.val, codes (pointModeText s.points[p].mode),
        or ((pointFunction s p).map fun f => codes (funcText f)), codes (driveText s.points[p].drive), flag s.points[p].pullUp,
        codes (edgeText s.points[p].edge), flag s.points[p].report, flag (pointLevel s p)])) { s with fresh := n })) ∧
    (tierOk s .engineer = true → exec (.reset (some ())) s = .next (answered ⟨[codes "=RESET"], true⟩ s))

/-! ## The resets -/

/-- R23, R43, R77, R97, R110, R123, R138, R154, R155, R168, R177, R185: POWER_ON brings every block to its power-on values, the straps read
first; then the stations and the fitted tyers present BAGS_LOW_x, BAGS_EMPTY_x and CLIPS_LOW_x, and no other warning, each indicated and
none masked. That the inputs stay as they stand (log entry 2), the values of station B on the BL-320 (log entry 32), the cut time and the
delays absent (log entry 36) and TREND's value, duty and period (log entry 23) are the model's own. -/
def Obligations.PowerOnSetsEveryBlock : Prop :=
  ∀ (p : Straps) (s : State), ∃ u t : State, exec (.powerOn p) s = .next t ∧ Noticed u t ∧
    u.member = s.member ∧ u.fresh = s.fresh ∧ u.pending = s.pending ∧
    u.options = ⟨p.opt0, ⟨p.opt1, decide (s.member = .bl340) && p.opt2⟩⟩ ∧
    u.track = ⟨[], 1, 0, 2, ⟨500, 450, 900, 1500, 800, 1250⟩, true⟩ ∧
    u.recipes = ⟨Vector.replicate 16 none, none, false, false, false⟩ ∧
    u.head = ⟨.empty, none, none, 0, none, 0, false, s.head.park, s.head.phaseInput, .idle, 0, none, none, none, 0⟩ ∧
    (∀ x, stationRec u x = ⟨.empty, 1, true, 0, 0, none, none, false, none, none, none, none⟩) ∧
    u.stations.policy = .alternate ∧ u.stations.lastAssigned = .b ∧ u.stations.times = ⟨400, 150⟩ ∧ u.stations.stationGate = false ∧
    (∀ x, tyerOf u x = ⟨0, ⟨60, 70, 80, 90, 60⟩, none, none, false⟩) ∧
    u.crumb = ⟨0, 0, ⟨2000, 500, 20000, 3, 400⟩, false, false, none, none, none, 0⟩ ∧
    u.meas = ⟨Vector.replicate 8 ⟨0, 0, .idle⟩,
      #v[⟨0, 0, 650, 820, 4⟩, ⟨0, 0, 700, 880, 3⟩, ⟨0, 0, 480, 560, 8⟩, ⟨0, 0, 1023, 1023, 1⟩, ⟨0, 300, 1023, 1023, 1⟩,
        ⟨0, 300, 1023, 1023, 1⟩, ⟨640, 700, 1023, 1023, 6⟩, ⟨0, 0, 600, 680, 8⟩],
      Vector.replicate 8 ⟨false, 0⟩, ⟨[0, 1], [1, 2, 3, 6, 7], .hybrid, 500, 200⟩, some 0, some 1, none, [], none, false, none, false,
      true, [], ⟨0, 200, 0, 0, 200⟩⟩ ∧
    u.sup.line = .stopped ∧ u.sup.firstFault = none ∧ u.sup.resetCause = .powerOn ∧ u.sup.beltWatch = false ∧
    (∀ k, faultEntry u k = ⟨.inactive, defaultAction s.member k, 0, none, none, false⟩) ∧
    (∀ w, ∃ b : Bool, warnEntry t w = ⟨b, b, false⟩ ∧ (b = true ↔ ∃ x, stationFitted s.member x = true ∧
      (w = .bagsLow x ∨ w = .bagsEmpty x ∨ (w = .clipsLow x ∧ u.options.tyers.get x = true)))) ∧
    u.shift = ⟨0, false, [⟨0x41, 360⟩], freshRecord 1 0x41 none 0 false 0, []⟩ ∧
    (∀ q : PointNo, u.points[q] = ⟨.input, .pushPull, false, .never, false, false, false, s.points[q].driven, s.points[q].signal⟩) ∧
    u.link = ⟨[], false, none, none, [], false, ⟨true, true, true, true, true, true⟩, none⟩

/-- R23, R43, R77, R97, R110, R123, R138, R154, R155, R168, R177, R185: what both warm resets keep, clear and count. The reset line gives
the straps, the settings of measurement, the fault actions and masks, the points and the report enables their power-on values; the RESET
message, which takes place as the last line of its reply has been sent, keeps them. At both a fitted station restarts and counts wasted the
bag that it held: with no point left to hold its functions after the reset line, and drawing its next bag after the RESET message where they
are held (R80), the station being held where GUARD_OPEN or TRAY_FULL, present once the reset is settled, halts the line (R94, R154). That the
inputs stay as they stand (log entry 2) and the cut time and the delays are absent (log entry 36) is the model's own. -/
def Obligations.WarmResetsKeepAndClear : Prop :=
  let bagsCounted := fun (s : State) (x : Station) (draws : Bool) =>
    let c := s.shift.openRecord.stations.get x
    { c with
      wasted := if holdsBag (stationRec s x) then min (c.wasted + 1) 4294967295 else c.wasted
      drawn := if draws = true ∧ (stationRec s x).inServiceFlag = true ∧ 1 ≤ (stationRec s x).magazine then min (c.drawn + 1) 4294967295
        else c.drawn }
  let both := fun (cause : ResetCause) (s t : State) =>
    t.member = s.member ∧ t.track = { s.track with loaves := [], infeedHold := true } ∧ t.recipes = s.recipes ∧
    t.head = ⟨.empty, none, none, 0, none, s.head.pusher, false, s.head.park, s.head.phaseInput, .idle, s.head.stamp, none, none, none, 0⟩ ∧
    (∀ x, (stationRec t x).bagClass = (stationRec s x).bagClass ∧ (stationRec t x).inServiceFlag = (stationRec s x).inServiceFlag ∧
      (stationRec t x).misties = 0 ∧ (stationRec t x).tag = none) ∧
    t.stations.policy = s.stations.policy ∧ t.stations.lastAssigned = s.stations.lastAssigned ∧ t.stations.times = s.stations.times ∧
    (∀ x, tyerOf t x = ⟨(tyerOf s x).spool, (tyerOf s x).settings, none, none, false⟩) ∧
    t.crumb = { s.crumb with
      bursting := decide (s.crumb.settings.bladeThreshold ≤ s.crumb.bladeLoad), airKnife := false, pending := none, sweep := none
      weakCount := 0 } ∧
    t.meas.samples = s.meas.samples ∧ t.meas.bounds = Vector.replicate 8 ⟨false, 0⟩ ∧ t.meas.converter = none ∧ t.meas.requests = [] ∧
    t.meas.idleTimer = true ∧ t.meas.cutPointer = t.meas.sampling.cutSet.head? ∧ t.meas.retPointer = t.meas.sampling.retSet.head? ∧
    t.sup.resetCause = cause ∧ t.sup.beltWatch = false ∧
    t.shift.clock = s.shift.clock ∧ t.shift.clockSet = s.shift.clockSet ∧ t.shift.schedule = s.shift.schedule ∧
    t.shift.history = s.shift.history ∧
    loafCounts t.shift.openRecord = { loafCounts s.shift.openRecord with
      lost := min (s.shift.openRecord.lost + s.track.loaves.length) 4294967295 } ∧
    t.shift.openRecord.sweepsAborted = (if s.crumb.sweep.isSome then min (s.shift.openRecord.sweepsAborted + 1) 4294967295
      else s.shift.openRecord.sweepsAborted) ∧
    t.link.buffer = [] ∧ t.link.silence = false ∧ t.link.owed = none ∧ t.link.pendingAnswer = none
  (∀ (p : Straps) (s : State), ∃ t, exec (.resetLine p) s = .next t ∧ both .resetLine s t ∧
    t.options = ⟨p.opt0, ⟨p.opt1, decide (s.member = .bl340) && p.opt2⟩⟩ ∧
    (∀ x, stationFitted s.member x = true → stationRec t x = restartedRec s x false ∧
      t.shift.openRecord.stations.get x = bagsCounted s x false) ∧
    t.meas.sampling = ⟨[0, 1], [1, 2, 3, 6, 7], .hybrid, 500, 200⟩ ∧ t.meas.limits = defaultLimits ∧ t.meas.trend.channel = 0 ∧
    t.meas.trend.frequency = 200 ∧ t.sup.line = .stopped ∧ t.sup.firstFault = s.sup.firstFault ∧
    (∀ k, faultEntry t k =
      { faultEntry s k with state := .inactive, action := defaultAction s.member k, mask := false }) ∧
    (∀ w, warnEntry t w = ⟨warnCondition t w, warnCondition t w, false⟩) ∧
    (∀ q : PointNo, t.points[q] = ⟨.input, .pushPull, false, .never, false, false, false, s.points[q].driven, s.points[q].signal⟩) ∧
    t.link.enables = ⟨true, true, true, true, true, true⟩) ∧
  (∀ (txt : Text) (s : State), s.link.sending = some ⟨.reply, txt⟩ → s.link.owed = some ⟨[], true⟩ →
    ∃ t, exec .lineSent s = .next t ∧ both .message s t ∧ t.options = s.options ∧ t.meas.sampling = s.meas.sampling ∧
      (∀ x, stationFitted s.member x = true →
        let draws := isHeld s (.bagEye x) && isHeld s (.blower x)
        let r := restartedRec s x draws
        stationRec t x = (if t.sup.line = .halted ∧ holdsAtHalt r.state = true then { r with held := true, bagTimer := none } else r) ∧
        t.shift.openRecord.stations.get x = bagsCounted s x draws) ∧
      t.meas.limits = s.meas.limits ∧ t.meas.trend.channel = s.meas.trend.channel ∧ t.meas.trend.frequency = s.meas.trend.frequency ∧
      (∀ k, (faultEntry t k).action = (faultEntry s k).action ∧ (faultEntry t k).mask = (faultEntry s k).mask ∧
        (k ≠ .guardOpen → k ≠ .trayFull → faultEntry t k = { faultEntry s k with state := .inactive })) ∧
      ((faultEntry t .guardOpen).state = if isHeld t .guardDoor && !inputHigh t .guardDoor then .active else .inactive) ∧
      ((faultEntry t .trayFull).state = if inputHigh t .trayFull then .active else .inactive) ∧
      (¬(Held t .guardDoor ∧ inputHigh t .guardDoor = false) → inputHigh t .trayFull = false →
        t.sup.line = .stopped ∧ t.sup.firstFault = s.sup.firstFault) ∧
      t.points = s.points.map (fun q => { q with latch := false }) ∧ t.link.enables = s.link.enables)
end

