-- ==== Sys2Proof/Laws/State.lean ====
section
/-! SUPPORT. One lemma per field per update of `State`, each true by definition: a later proof cites these and unfolds no update. -/

namespace Sys2Proof.Machine

@[simp] theorem State.setOptions_member (s : State) (v) : (s.setOptions v).member = s.member := rfl
@[simp] theorem State.setOptions_options (s : State) (v) : (s.setOptions v).options = v := rfl
@[simp] theorem State.setOptions_track (s : State) (v) : (s.setOptions v).track = s.track := rfl
@[simp] theorem State.setOptions_recipes (s : State) (v) : (s.setOptions v).recipes = s.recipes := rfl
@[simp] theorem State.setOptions_head (s : State) (v) : (s.setOptions v).head = s.head := rfl
@[simp] theorem State.setOptions_stations (s : State) (v) : (s.setOptions v).stations = s.stations := rfl
@[simp] theorem State.setOptions_tyers (s : State) (v) : (s.setOptions v).tyers = s.tyers := rfl
@[simp] theorem State.setOptions_crumb (s : State) (v) : (s.setOptions v).crumb = s.crumb := rfl
@[simp] theorem State.setOptions_meas (s : State) (v) : (s.setOptions v).meas = s.meas := rfl
@[simp] theorem State.setOptions_sup (s : State) (v) : (s.setOptions v).sup = s.sup := rfl
@[simp] theorem State.setOptions_shift (s : State) (v) : (s.setOptions v).shift = s.shift := rfl
@[simp] theorem State.setOptions_points (s : State) (v) : (s.setOptions v).points = s.points := rfl
@[simp] theorem State.setOptions_link (s : State) (v) : (s.setOptions v).link = s.link := rfl
@[simp] theorem State.setOptions_fresh (s : State) (v) : (s.setOptions v).fresh = s.fresh := rfl
@[simp] theorem State.setOptions_pending (s : State) (v) : (s.setOptions v).pending = s.pending := rfl

@[simp] theorem State.setTrack_member (s : State) (v) : (s.setTrack v).member = s.member := rfl
@[simp] theorem State.setTrack_options (s : State) (v) : (s.setTrack v).options = s.options := rfl
@[simp] theorem State.setTrack_track (s : State) (v) : (s.setTrack v).track = v := rfl
@[simp] theorem State.setTrack_recipes (s : State) (v) : (s.setTrack v).recipes = s.recipes := rfl
@[simp] theorem State.setTrack_head (s : State) (v) : (s.setTrack v).head = s.head := rfl
@[simp] theorem State.setTrack_stations (s : State) (v) : (s.setTrack v).stations = s.stations := rfl
@[simp] theorem State.setTrack_tyers (s : State) (v) : (s.setTrack v).tyers = s.tyers := rfl
@[simp] theorem State.setTrack_crumb (s : State) (v) : (s.setTrack v).crumb = s.crumb := rfl
@[simp] theorem State.setTrack_meas (s : State) (v) : (s.setTrack v).meas = s.meas := rfl
@[simp] theorem State.setTrack_sup (s : State) (v) : (s.setTrack v).sup = s.sup := rfl
@[simp] theorem State.setTrack_shift (s : State) (v) : (s.setTrack v).shift = s.shift := rfl
@[simp] theorem State.setTrack_points (s : State) (v) : (s.setTrack v).points = s.points := rfl
@[simp] theorem State.setTrack_link (s : State) (v) : (s.setTrack v).link = s.link := rfl
@[simp] theorem State.setTrack_fresh (s : State) (v) : (s.setTrack v).fresh = s.fresh := rfl
@[simp] theorem State.setTrack_pending (s : State) (v) : (s.setTrack v).pending = s.pending := rfl

@[simp] theorem State.setRecipes_member (s : State) (v) : (s.setRecipes v).member = s.member := rfl
@[simp] theorem State.setRecipes_options (s : State) (v) : (s.setRecipes v).options = s.options := rfl
@[simp] theorem State.setRecipes_track (s : State) (v) : (s.setRecipes v).track = s.track := rfl
@[simp] theorem State.setRecipes_recipes (s : State) (v) : (s.setRecipes v).recipes = v := rfl
@[simp] theorem State.setRecipes_head (s : State) (v) : (s.setRecipes v).head = s.head := rfl
@[simp] theorem State.setRecipes_stations (s : State) (v) : (s.setRecipes v).stations = s.stations := rfl
@[simp] theorem State.setRecipes_tyers (s : State) (v) : (s.setRecipes v).tyers = s.tyers := rfl
@[simp] theorem State.setRecipes_crumb (s : State) (v) : (s.setRecipes v).crumb = s.crumb := rfl
@[simp] theorem State.setRecipes_meas (s : State) (v) : (s.setRecipes v).meas = s.meas := rfl
@[simp] theorem State.setRecipes_sup (s : State) (v) : (s.setRecipes v).sup = s.sup := rfl
@[simp] theorem State.setRecipes_shift (s : State) (v) : (s.setRecipes v).shift = s.shift := rfl
@[simp] theorem State.setRecipes_points (s : State) (v) : (s.setRecipes v).points = s.points := rfl
@[simp] theorem State.setRecipes_link (s : State) (v) : (s.setRecipes v).link = s.link := rfl
@[simp] theorem State.setRecipes_fresh (s : State) (v) : (s.setRecipes v).fresh = s.fresh := rfl
@[simp] theorem State.setRecipes_pending (s : State) (v) : (s.setRecipes v).pending = s.pending := rfl

@[simp] theorem State.setHead_member (s : State) (v) : (s.setHead v).member = s.member := rfl
@[simp] theorem State.setHead_options (s : State) (v) : (s.setHead v).options = s.options := rfl
@[simp] theorem State.setHead_track (s : State) (v) : (s.setHead v).track = s.track := rfl
@[simp] theorem State.setHead_recipes (s : State) (v) : (s.setHead v).recipes = s.recipes := rfl
@[simp] theorem State.setHead_head (s : State) (v) : (s.setHead v).head = v := rfl
@[simp] theorem State.setHead_stations (s : State) (v) : (s.setHead v).stations = s.stations := rfl
@[simp] theorem State.setHead_tyers (s : State) (v) : (s.setHead v).tyers = s.tyers := rfl
@[simp] theorem State.setHead_crumb (s : State) (v) : (s.setHead v).crumb = s.crumb := rfl
@[simp] theorem State.setHead_meas (s : State) (v) : (s.setHead v).meas = s.meas := rfl
@[simp] theorem State.setHead_sup (s : State) (v) : (s.setHead v).sup = s.sup := rfl
@[simp] theorem State.setHead_shift (s : State) (v) : (s.setHead v).shift = s.shift := rfl
@[simp] theorem State.setHead_points (s : State) (v) : (s.setHead v).points = s.points := rfl
@[simp] theorem State.setHead_link (s : State) (v) : (s.setHead v).link = s.link := rfl
@[simp] theorem State.setHead_fresh (s : State) (v) : (s.setHead v).fresh = s.fresh := rfl
@[simp] theorem State.setHead_pending (s : State) (v) : (s.setHead v).pending = s.pending := rfl

@[simp] theorem State.setStations_member (s : State) (v) : (s.setStations v).member = s.member := rfl
@[simp] theorem State.setStations_options (s : State) (v) : (s.setStations v).options = s.options := rfl
@[simp] theorem State.setStations_track (s : State) (v) : (s.setStations v).track = s.track := rfl
@[simp] theorem State.setStations_recipes (s : State) (v) : (s.setStations v).recipes = s.recipes := rfl
@[simp] theorem State.setStations_head (s : State) (v) : (s.setStations v).head = s.head := rfl
@[simp] theorem State.setStations_stations (s : State) (v) : (s.setStations v).stations = v := rfl
@[simp] theorem State.setStations_tyers (s : State) (v) : (s.setStations v).tyers = s.tyers := rfl
@[simp] theorem State.setStations_crumb (s : State) (v) : (s.setStations v).crumb = s.crumb := rfl
@[simp] theorem State.setStations_meas (s : State) (v) : (s.setStations v).meas = s.meas := rfl
@[simp] theorem State.setStations_sup (s : State) (v) : (s.setStations v).sup = s.sup := rfl
@[simp] theorem State.setStations_shift (s : State) (v) : (s.setStations v).shift = s.shift := rfl
@[simp] theorem State.setStations_points (s : State) (v) : (s.setStations v).points = s.points := rfl
@[simp] theorem State.setStations_link (s : State) (v) : (s.setStations v).link = s.link := rfl
@[simp] theorem State.setStations_fresh (s : State) (v) : (s.setStations v).fresh = s.fresh := rfl
@[simp] theorem State.setStations_pending (s : State) (v) : (s.setStations v).pending = s.pending := rfl

@[simp] theorem State.setTyers_member (s : State) (v) : (s.setTyers v).member = s.member := rfl
@[simp] theorem State.setTyers_options (s : State) (v) : (s.setTyers v).options = s.options := rfl
@[simp] theorem State.setTyers_track (s : State) (v) : (s.setTyers v).track = s.track := rfl
@[simp] theorem State.setTyers_recipes (s : State) (v) : (s.setTyers v).recipes = s.recipes := rfl
@[simp] theorem State.setTyers_head (s : State) (v) : (s.setTyers v).head = s.head := rfl
@[simp] theorem State.setTyers_stations (s : State) (v) : (s.setTyers v).stations = s.stations := rfl
@[simp] theorem State.setTyers_tyers (s : State) (v) : (s.setTyers v).tyers = v := rfl
@[simp] theorem State.setTyers_crumb (s : State) (v) : (s.setTyers v).crumb = s.crumb := rfl
@[simp] theorem State.setTyers_meas (s : State) (v) : (s.setTyers v).meas = s.meas := rfl
@[simp] theorem State.setTyers_sup (s : State) (v) : (s.setTyers v).sup = s.sup := rfl
@[simp] theorem State.setTyers_shift (s : State) (v) : (s.setTyers v).shift = s.shift := rfl
@[simp] theorem State.setTyers_points (s : State) (v) : (s.setTyers v).points = s.points := rfl
@[simp] theorem State.setTyers_link (s : State) (v) : (s.setTyers v).link = s.link := rfl
@[simp] theorem State.setTyers_fresh (s : State) (v) : (s.setTyers v).fresh = s.fresh := rfl
@[simp] theorem State.setTyers_pending (s : State) (v) : (s.setTyers v).pending = s.pending := rfl

@[simp] theorem State.setCrumb_member (s : State) (v) : (s.setCrumb v).member = s.member := rfl
@[simp] theorem State.setCrumb_options (s : State) (v) : (s.setCrumb v).options = s.options := rfl
@[simp] theorem State.setCrumb_track (s : State) (v) : (s.setCrumb v).track = s.track := rfl
@[simp] theorem State.setCrumb_recipes (s : State) (v) : (s.setCrumb v).recipes = s.recipes := rfl
@[simp] theorem State.setCrumb_head (s : State) (v) : (s.setCrumb v).head = s.head := rfl
@[simp] theorem State.setCrumb_stations (s : State) (v) : (s.setCrumb v).stations = s.stations := rfl
@[simp] theorem State.setCrumb_tyers (s : State) (v) : (s.setCrumb v).tyers = s.tyers := rfl
@[simp] theorem State.setCrumb_crumb (s : State) (v) : (s.setCrumb v).crumb = v := rfl
@[simp] theorem State.setCrumb_meas (s : State) (v) : (s.setCrumb v).meas = s.meas := rfl
@[simp] theorem State.setCrumb_sup (s : State) (v) : (s.setCrumb v).sup = s.sup := rfl
@[simp] theorem State.setCrumb_shift (s : State) (v) : (s.setCrumb v).shift = s.shift := rfl
@[simp] theorem State.setCrumb_points (s : State) (v) : (s.setCrumb v).points = s.points := rfl
@[simp] theorem State.setCrumb_link (s : State) (v) : (s.setCrumb v).link = s.link := rfl
@[simp] theorem State.setCrumb_fresh (s : State) (v) : (s.setCrumb v).fresh = s.fresh := rfl
@[simp] theorem State.setCrumb_pending (s : State) (v) : (s.setCrumb v).pending = s.pending := rfl

@[simp] theorem State.setMeas_member (s : State) (v) : (s.setMeas v).member = s.member := rfl
@[simp] theorem State.setMeas_options (s : State) (v) : (s.setMeas v).options = s.options := rfl
@[simp] theorem State.setMeas_track (s : State) (v) : (s.setMeas v).track = s.track := rfl
@[simp] theorem State.setMeas_recipes (s : State) (v) : (s.setMeas v).recipes = s.recipes := rfl
@[simp] theorem State.setMeas_head (s : State) (v) : (s.setMeas v).head = s.head := rfl
@[simp] theorem State.setMeas_stations (s : State) (v) : (s.setMeas v).stations = s.stations := rfl
@[simp] theorem State.setMeas_tyers (s : State) (v) : (s.setMeas v).tyers = s.tyers := rfl
@[simp] theorem State.setMeas_crumb (s : State) (v) : (s.setMeas v).crumb = s.crumb := rfl
@[simp] theorem State.setMeas_meas (s : State) (v) : (s.setMeas v).meas = v := rfl
@[simp] theorem State.setMeas_sup (s : State) (v) : (s.setMeas v).sup = s.sup := rfl
@[simp] theorem State.setMeas_shift (s : State) (v) : (s.setMeas v).shift = s.shift := rfl
@[simp] theorem State.setMeas_points (s : State) (v) : (s.setMeas v).points = s.points := rfl
@[simp] theorem State.setMeas_link (s : State) (v) : (s.setMeas v).link = s.link := rfl
@[simp] theorem State.setMeas_fresh (s : State) (v) : (s.setMeas v).fresh = s.fresh := rfl
@[simp] theorem State.setMeas_pending (s : State) (v) : (s.setMeas v).pending = s.pending := rfl

@[simp] theorem State.setSup_member (s : State) (v) : (s.setSup v).member = s.member := rfl
@[simp] theorem State.setSup_options (s : State) (v) : (s.setSup v).options = s.options := rfl
@[simp] theorem State.setSup_track (s : State) (v) : (s.setSup v).track = s.track := rfl
@[simp] theorem State.setSup_recipes (s : State) (v) : (s.setSup v).recipes = s.recipes := rfl
@[simp] theorem State.setSup_head (s : State) (v) : (s.setSup v).head = s.head := rfl
@[simp] theorem State.setSup_stations (s : State) (v) : (s.setSup v).stations = s.stations := rfl
@[simp] theorem State.setSup_tyers (s : State) (v) : (s.setSup v).tyers = s.tyers := rfl
@[simp] theorem State.setSup_crumb (s : State) (v) : (s.setSup v).crumb = s.crumb := rfl
@[simp] theorem State.setSup_meas (s : State) (v) : (s.setSup v).meas = s.meas := rfl
@[simp] theorem State.setSup_sup (s : State) (v) : (s.setSup v).sup = v := rfl
@[simp] theorem State.setSup_shift (s : State) (v) : (s.setSup v).shift = s.shift := rfl
@[simp] theorem State.setSup_points (s : State) (v) : (s.setSup v).points = s.points := rfl
@[simp] theorem State.setSup_link (s : State) (v) : (s.setSup v).link = s.link := rfl
@[simp] theorem State.setSup_fresh (s : State) (v) : (s.setSup v).fresh = s.fresh := rfl
@[simp] theorem State.setSup_pending (s : State) (v) : (s.setSup v).pending = s.pending := rfl

@[simp] theorem State.setShift_member (s : State) (v) : (s.setShift v).member = s.member := rfl
@[simp] theorem State.setShift_options (s : State) (v) : (s.setShift v).options = s.options := rfl
@[simp] theorem State.setShift_track (s : State) (v) : (s.setShift v).track = s.track := rfl
@[simp] theorem State.setShift_recipes (s : State) (v) : (s.setShift v).recipes = s.recipes := rfl
@[simp] theorem State.setShift_head (s : State) (v) : (s.setShift v).head = s.head := rfl
@[simp] theorem State.setShift_stations (s : State) (v) : (s.setShift v).stations = s.stations := rfl
@[simp] theorem State.setShift_tyers (s : State) (v) : (s.setShift v).tyers = s.tyers := rfl
@[simp] theorem State.setShift_crumb (s : State) (v) : (s.setShift v).crumb = s.crumb := rfl
@[simp] theorem State.setShift_meas (s : State) (v) : (s.setShift v).meas = s.meas := rfl
@[simp] theorem State.setShift_sup (s : State) (v) : (s.setShift v).sup = s.sup := rfl
@[simp] theorem State.setShift_shift (s : State) (v) : (s.setShift v).shift = v := rfl
@[simp] theorem State.setShift_points (s : State) (v) : (s.setShift v).points = s.points := rfl
@[simp] theorem State.setShift_link (s : State) (v) : (s.setShift v).link = s.link := rfl
@[simp] theorem State.setShift_fresh (s : State) (v) : (s.setShift v).fresh = s.fresh := rfl
@[simp] theorem State.setShift_pending (s : State) (v) : (s.setShift v).pending = s.pending := rfl

@[simp] theorem State.setPoints_member (s : State) (v) : (s.setPoints v).member = s.member := rfl
@[simp] theorem State.setPoints_options (s : State) (v) : (s.setPoints v).options = s.options := rfl
@[simp] theorem State.setPoints_track (s : State) (v) : (s.setPoints v).track = s.track := rfl
@[simp] theorem State.setPoints_recipes (s : State) (v) : (s.setPoints v).recipes = s.recipes := rfl
@[simp] theorem State.setPoints_head (s : State) (v) : (s.setPoints v).head = s.head := rfl
@[simp] theorem State.setPoints_stations (s : State) (v) : (s.setPoints v).stations = s.stations := rfl
@[simp] theorem State.setPoints_tyers (s : State) (v) : (s.setPoints v).tyers = s.tyers := rfl
@[simp] theorem State.setPoints_crumb (s : State) (v) : (s.setPoints v).crumb = s.crumb := rfl
@[simp] theorem State.setPoints_meas (s : State) (v) : (s.setPoints v).meas = s.meas := rfl
@[simp] theorem State.setPoints_sup (s : State) (v) : (s.setPoints v).sup = s.sup := rfl
@[simp] theorem State.setPoints_shift (s : State) (v) : (s.setPoints v).shift = s.shift := rfl
@[simp] theorem State.setPoints_points (s : State) (v) : (s.setPoints v).points = v := rfl
@[simp] theorem State.setPoints_link (s : State) (v) : (s.setPoints v).link = s.link := rfl
@[simp] theorem State.setPoints_fresh (s : State) (v) : (s.setPoints v).fresh = s.fresh := rfl
@[simp] theorem State.setPoints_pending (s : State) (v) : (s.setPoints v).pending = s.pending := rfl

@[simp] theorem State.setLink_member (s : State) (v) : (s.setLink v).member = s.member := rfl
@[simp] theorem State.setLink_options (s : State) (v) : (s.setLink v).options = s.options := rfl
@[simp] theorem State.setLink_track (s : State) (v) : (s.setLink v).track = s.track := rfl
@[simp] theorem State.setLink_recipes (s : State) (v) : (s.setLink v).recipes = s.recipes := rfl
@[simp] theorem State.setLink_head (s : State) (v) : (s.setLink v).head = s.head := rfl
@[simp] theorem State.setLink_stations (s : State) (v) : (s.setLink v).stations = s.stations := rfl
@[simp] theorem State.setLink_tyers (s : State) (v) : (s.setLink v).tyers = s.tyers := rfl
@[simp] theorem State.setLink_crumb (s : State) (v) : (s.setLink v).crumb = s.crumb := rfl
@[simp] theorem State.setLink_meas (s : State) (v) : (s.setLink v).meas = s.meas := rfl
@[simp] theorem State.setLink_sup (s : State) (v) : (s.setLink v).sup = s.sup := rfl
@[simp] theorem State.setLink_shift (s : State) (v) : (s.setLink v).shift = s.shift := rfl
@[simp] theorem State.setLink_points (s : State) (v) : (s.setLink v).points = s.points := rfl
@[simp] theorem State.setLink_link (s : State) (v) : (s.setLink v).link = v := rfl
@[simp] theorem State.setLink_fresh (s : State) (v) : (s.setLink v).fresh = s.fresh := rfl
@[simp] theorem State.setLink_pending (s : State) (v) : (s.setLink v).pending = s.pending := rfl

@[simp] theorem State.setFresh_member (s : State) (v) : (s.setFresh v).member = s.member := rfl
@[simp] theorem State.setFresh_options (s : State) (v) : (s.setFresh v).options = s.options := rfl
@[simp] theorem State.setFresh_track (s : State) (v) : (s.setFresh v).track = s.track := rfl
@[simp] theorem State.setFresh_recipes (s : State) (v) : (s.setFresh v).recipes = s.recipes := rfl
@[simp] theorem State.setFresh_head (s : State) (v) : (s.setFresh v).head = s.head := rfl
@[simp] theorem State.setFresh_stations (s : State) (v) : (s.setFresh v).stations = s.stations := rfl
@[simp] theorem State.setFresh_tyers (s : State) (v) : (s.setFresh v).tyers = s.tyers := rfl
@[simp] theorem State.setFresh_crumb (s : State) (v) : (s.setFresh v).crumb = s.crumb := rfl
@[simp] theorem State.setFresh_meas (s : State) (v) : (s.setFresh v).meas = s.meas := rfl
@[simp] theorem State.setFresh_sup (s : State) (v) : (s.setFresh v).sup = s.sup := rfl
@[simp] theorem State.setFresh_shift (s : State) (v) : (s.setFresh v).shift = s.shift := rfl
@[simp] theorem State.setFresh_points (s : State) (v) : (s.setFresh v).points = s.points := rfl
@[simp] theorem State.setFresh_link (s : State) (v) : (s.setFresh v).link = s.link := rfl
@[simp] theorem State.setFresh_fresh (s : State) (v) : (s.setFresh v).fresh = v := rfl
@[simp] theorem State.setFresh_pending (s : State) (v) : (s.setFresh v).pending = s.pending := rfl

@[simp] theorem State.setPending_member (s : State) (v) : (s.setPending v).member = s.member := rfl
@[simp] theorem State.setPending_options (s : State) (v) : (s.setPending v).options = s.options := rfl
@[simp] theorem State.setPending_track (s : State) (v) : (s.setPending v).track = s.track := rfl
@[simp] theorem State.setPending_recipes (s : State) (v) : (s.setPending v).recipes = s.recipes := rfl
@[simp] theorem State.setPending_head (s : State) (v) : (s.setPending v).head = s.head := rfl
@[simp] theorem State.setPending_stations (s : State) (v) : (s.setPending v).stations = s.stations := rfl
@[simp] theorem State.setPending_tyers (s : State) (v) : (s.setPending v).tyers = s.tyers := rfl
@[simp] theorem State.setPending_crumb (s : State) (v) : (s.setPending v).crumb = s.crumb := rfl
@[simp] theorem State.setPending_meas (s : State) (v) : (s.setPending v).meas = s.meas := rfl
@[simp] theorem State.setPending_sup (s : State) (v) : (s.setPending v).sup = s.sup := rfl
@[simp] theorem State.setPending_shift (s : State) (v) : (s.setPending v).shift = s.shift := rfl
@[simp] theorem State.setPending_points (s : State) (v) : (s.setPending v).points = s.points := rfl
@[simp] theorem State.setPending_link (s : State) (v) : (s.setPending v).link = s.link := rfl
@[simp] theorem State.setPending_fresh (s : State) (v) : (s.setPending v).fresh = s.fresh := rfl
@[simp] theorem State.setPending_pending (s : State) (v) : (s.setPending v).pending = v := rfl

end Sys2Proof.Machine
end

