-- ==== Sys2Proof/Laws/Kept.lean ====
section
/-! SUPPORT. What an inner operation of the line leaves alone: the relation `Kept`, its composition, and the operations that change one
block at a time. -/

namespace Sys2Proof.Laws

open Sys2Proof.Machine Sys2Proof.Safety

/-- What every operation inside an event keeps, whatever it does to the line: the recipe table, the points, the clock, the history and the
loaf counts, the number of records; and the laws of marks, faults, loads and the queue, which no #E joins: a point in IN alone reports one
(R174). -/
structure Kept (s t : State) : Prop where
  member : t.member = s.member
  options : t.options = s.options
  recipes : t.recipes = s.recipes
  points : t.points = s.points
  fresh : t.fresh = s.fresh
  pending : t.pending = s.pending
  clock : t.shift.clock = s.shift.clock
  clockSet : t.shift.clockSet = s.shift.clockSet
  schedule : t.shift.schedule = s.shift.schedule
  history : t.shift.history = s.shift.history
  counts : loafCounts t.shift.openRecord = loafCounts s.shift.openRecord
  length : t.track.loaves.length = s.track.loaves.length
  limit : t.track.limit = s.track.limit
  geometry : t.track.geometry = s.track.geometry
  marked : rejectMarked s → rejectMarked t
  buffer : t.link.buffer = s.link.buffer
  enables : t.link.enables = s.link.enables
  queue : s.link.queue.length ≤ Config.queueCapacity → t.link.queue.length ≤ Config.queueCapacity
  edges : ∀ p rise high, Report.edge p rise high ∈ t.link.queue → Report.edge p rise high ∈ s.link.queue
  faults : faultsLawful s → faultsLawful t
  loads : loadsBounded s → loadsBounded t

theorem Kept.refl (s : State) : Kept s s := by
  constructor <;> first | rfl | exact id | exact fun _ _ _ => id

theorem Kept.trans {s t u : State} (h : Kept s t) (k : Kept t u) : Kept s u where
  member := k.member.trans h.member
  options := k.options.trans h.options
  recipes := k.recipes.trans h.recipes
  points := k.points.trans h.points
  fresh := k.fresh.trans h.fresh
  pending := k.pending.trans h.pending
  clock := k.clock.trans h.clock
  clockSet := k.clockSet.trans h.clockSet
  schedule := k.schedule.trans h.schedule
  history := k.history.trans h.history
  counts := k.counts.trans h.counts
  length := k.length.trans h.length
  limit := k.limit.trans h.limit
  geometry := k.geometry.trans h.geometry
  marked := k.marked ∘ h.marked
  buffer := k.buffer.trans h.buffer
  enables := k.enables.trans h.enables
  queue := k.queue ∘ h.queue
  edges := fun p a b m => h.edges p a b (k.edges p a b m)
  faults := k.faults ∘ h.faults
  loads := k.loads ∘ h.loads

/-- The line state, KNIFE_RUN, the context's state, INFEED_HOLD, the belt watch and the number of records in INFEED, as an operation that
moves none of them keeps them. -/
structure Level (s t : State) : Prop where
  line : t.sup.line = s.sup.line
  knife : t.head.knife = s.head.knife
  state : t.head.state = s.head.state
  hold : t.track.infeedHold = s.track.infeedHold
  watch : t.sup.beltWatch = s.sup.beltWatch
  infeed : zoneCount t .infeed = zoneCount s .infeed

theorem Level.refl (s : State) : Level s s := ⟨rfl, rfl, rfl, rfl, rfl, rfl⟩

theorem Level.trans {s t u : State} (h : Level s t) (k : Level t u) : Level s u where
  line := k.line.trans h.line
  knife := k.knife.trans h.knife
  state := k.state.trans h.state
  hold := k.hold.trans h.hold
  watch := k.watch.trans h.watch
  infeed := k.infeed.trans h.infeed

/-- The line laws carried over. -/
structure Obeys (s t : State) : Prop where
  knife : knifeLaw s → knifeLaw t
  hold : holdLaw s → holdLaw t
  watch : watchLaw s → watchLaw t
  drain : drainLaw s → drainLaw t

theorem Obeys.refl (s : State) : Obeys s s := ⟨id, id, id, id⟩

theorem Obeys.trans {s t u : State} (h : Obeys s t) (k : Obeys t u) : Obeys s u :=
  ⟨k.knife ∘ h.knife, k.hold ∘ h.hold, k.watch ∘ h.watch, k.drain ∘ h.drain⟩

/-- The hold's condition as the track and supervision give it (R8). -/
theorem holdOwed_eq (s : State) : holdOwed s = holdCondition s := rfl

theorem drainLaw_iff (s : State) : drainLaw s ↔ (s.sup.line = .draining → s.track.loaves.length ≠ 0) := by
  unfold drainLaw
  rw [Ne, Ne, List.length_eq_zero_iff]

/-- An operation that keeps the records' number and moves no level carries the line laws over. -/
theorem Level.obeys {s t : State} (k : Kept s t) (h : Level s t) : Obeys s t := by
  constructor
  · unfold knifeLaw moving
    rw [h.line, h.knife, h.state]
    exact id
  · unfold holdLaw
    rw [holdOwed_eq, holdOwed_eq]
    unfold holdCondition
    rw [h.line, h.hold, h.infeed, k.length, k.limit]
    exact id
  · unfold watchLaw
    rw [h.hold, h.watch]
    exact id
  · rw [drainLaw_iff, drainLaw_iff, h.line, k.length]
    exact id

/-- An operation that keeps what `Kept` says and carries the line laws over. -/
structure Steady (s t : State) : Prop where
  kept : Kept s t
  obeys : Obeys s t

theorem Steady.refl (s : State) : Steady s s := ⟨Kept.refl s, Obeys.refl s⟩

theorem Steady.trans {s t u : State} (h : Steady s t) (k : Steady t u) : Steady s u :=
  ⟨h.kept.trans k.kept, h.obeys.trans k.obeys⟩

/-- An operation that moves no level is steady. -/
theorem Kept.steady {s t : State} (k : Kept s t) (h : Level s t) : Steady s t := ⟨k, h.obeys k⟩

/-- Either of two steady outcomes. -/
theorem Steady.ite {s t u : State} {p : Prop} [Decidable p] (h : Steady s t) (k : Steady s u) : Steady s (if p then t else u) := by
  split
  · exact h
  · exact k

/-! ## The report queue and the supervision tables -/

/-- A queue within its capacity stays so (R182). -/
theorem push_queue (r : Report) (l : Link) (h : l.queue.length ≤ Config.queueCapacity) :
    (l.push r).queue.length ≤ Config.queueCapacity := by
  unfold Link.push
  split
  · rename_i hl
    show (l.queue ++ [r]).length ≤ _
    rw [List.length_append, List.length_singleton]
    exact hl
  · split
    · rename_i old hold
      have hm : old ∈ l.queue := List.mem_of_find?_eq_some hold
      have hp : 0 < l.queue.length := List.length_pos_of_mem hm
      show (l.queue.erase old ++ [r]).length ≤ _
      rw [List.length_append, List.length_singleton, List.length_erase_of_mem hm]
      omega
    · exact h

/-- What a push leaves in the queue stood there or is the report pushed. -/
theorem push_mem {r q : Report} {l : Link} (h : q ∈ (l.push r).queue) : q ∈ l.queue ∨ q = r := by
  unfold Link.push at h
  split at h
  · simpa using h
  · split at h
    · rcases List.mem_append.mp h with h | h
      · exact Or.inl (List.mem_of_mem_erase h)
      · exact Or.inr (by simpa using h)
    · exact Or.inl h

@[simp] theorem push_buffer (r : Report) (l : Link) : (l.push r).buffer = l.buffer := by
  unfold Link.push
  repeat' split
  all_goals rfl

@[simp] theorem push_enables (r : Report) (l : Link) : (l.push r).enables = l.enables := by
  unfold Link.push
  repeat' split
  all_goals rfl

/-- Queueing a report changes the link alone. -/
theorem report_eq (r : Report) (s : State) : report r s = s.setLink (report r s).link := by
  unfold report
  split <;> rfl

/-- The report is an #E. -/
def isEdge : Report → Bool
  | .edge _ _ _ => true
  | _ => false

/-- Queueing a report that is no #E keeps everything but the queue. -/
theorem report_kept (r : Report) (s : State) (hr : isEdge r = false := by rfl) : Kept s (report r s) := by
  unfold report
  split
  · refine { Kept.refl s with buffer := ?_, enables := ?_, queue := ?_, edges := fun p a b m => (push_mem m).resolve_right ?_ }
    · simp
    · simp
    · exact push_queue r s.link
    · intro e
      rw [← e] at hr
      cases hr
  · exact Kept.refl s

theorem report_level (r : Report) (s : State) : Level s (report r s) := by
  rw [report_eq]
  exact ⟨rfl, rfl, rfl, rfl, rfl, rfl⟩

theorem report_steady (r : Report) (s : State) (hr : isEdge r = false := by rfl) : Steady s (report r s) :=
  (report_kept r s hr).steady (report_level r s)

/-- A warning's flag moves without touching the line (R150). -/
theorem warn_steady (w : WarnKind) (p : Bool) (s : State) : Steady s (warn w p s) := by
  unfold warn
  simp only
  split
  · exact Steady.refl s
  · refine Steady.trans (t := setWarning w { warnEntry s w with present := p, indication := (warnEntry s w).indication || p } s) ?_ (report_steady _ _)
    exact Kept.steady { Kept.refl s with } ⟨rfl, rfl, rfl, rfl, rfl, rfl⟩

theorem evaluate_steady (w : WarnKind) (s : State) : Steady s (evaluate w s) := warn_steady w _ s

/-- A count of the open record that is none of the loaf counts. -/
theorem countShift_steady (f : ShiftRecord → ShiftRecord) (s : State)
    (h : loafCounts (f s.shift.openRecord) = loafCounts s.shift.openRecord) : Steady s (countShift f s) :=
  Kept.steady { Kept.refl s with counts := h } ⟨rfl, rfl, rfl, rfl, rfl, rfl⟩

theorem countStation_steady (x : Station) (f : StationCounts → StationCounts) (s : State) : Steady s (countStation x f s) :=
  countShift_steady _ s rfl

/-! ## Fault entries -/

/-- A fault entry in a table where another entry, or the same, has been replaced. -/
theorem faultEntry_setFault (k j : FaultKind) (e : FaultEntry) (s : State) :
    faultEntry (setFault k e s) j = if faultIndex k = faultIndex j then e else faultEntry s j := by
  unfold faultEntry setFault
  simp only [State.setSup_sup, Fin.getElem_fin, Vector.getElem_set, Fin.ext_iff]

/-- Different kinds stand at different places of the table. -/
theorem faultIndex_injective : ∀ {k j : FaultKind}, faultIndex k = faultIndex j → k = j := by
  intro k j
  rcases k with _ | _ | _ | _ | _ | _ | _ | _ | _ | _ | _ | (_ | _) | (_ | _) | _ | _ | _ | _ <;>
    rcases j with _ | _ | _ | _ | _ | _ | _ | _ | _ | _ | _ | (_ | _) | (_ | _) | _ | _ | _ | _ <;>
    first
    | (intro _; rfl)
    | (intro h; exact absurd h (by decide))

/-- A lawful entry in place of another keeps the table lawful. -/
theorem setFault_lawful (k : FaultKind) (e : FaultEntry) (s : State) (h : faultsLawful s)
    (he : (eventFault k = true → e.state ≠ .active) ∧ e.count ≤ Config.occurrenceCap) : faultsLawful (setFault k e s) := by
  intro j
  rw [faultEntry_setFault]
  split
  · rename_i hi
    rw [← faultIndex_injective hi]
    exact he
  · exact h j

theorem setFault_steady (k : FaultKind) (e : FaultEntry) (s : State)
    (he : faultsLawful s → (eventFault k = true → e.state ≠ .active) ∧ e.count ≤ Config.occurrenceCap) :
    Steady s (setFault k e s) :=
  Kept.steady { Kept.refl s with faults := fun h => setFault_lawful k e s h (he h) } ⟨rfl, rfl, rfl, rfl, rfl, rfl⟩

theorem recordFirst_steady (k : FaultKind) (loaf : Option Nat) (s : State) : Steady s (recordFirst k loaf s) := by
  unfold recordFirst
  split
  · exact Kept.steady { Kept.refl s with } ⟨rfl, rfl, rfl, rfl, rfl, rfl⟩
  · exact Steady.refl s

/-- An occurrence into a state that the kind may take. -/
theorem faultOccurs_steady (k : FaultKind) (st : FaultState) (loaf : Option Nat) (s : State)
    (h : eventFault k = true → st ≠ .active) : Steady s (faultOccurs k st loaf s) := by
  unfold faultOccurs
  refine (recordFirst_steady k loaf s).trans (Steady.trans (setFault_steady k _ _ fun _ => ⟨h, ?_⟩) (report_steady _ _))
  exact Nat.min_le_right _ _

theorem faultMoves_steady (k : FaultKind) (st : FaultState) (s : State) (h : eventFault k = true → st ≠ .active) :
    Steady s (faultMoves k st s) := by
  exact (setFault_steady k { faultEntry s k with state := st } s fun l => ⟨h, (l k).2⟩).trans
    (report_steady (.fault k st (faultEntry s k).count) _)

end Sys2Proof.Laws
end

