-- ==== Sys2Proof/Laws/Line.lean ====
section
/-! SUPPORT. What each operation of Ops, Converter and Line keeps: the records, the converter, the head, the stations, the changes of the
line state, a fault and its action. -/

namespace Sys2Proof.Laws

open Sys2Proof.Machine Sys2Proof.Safety

/-! ## Records -/

@[simp] theorem modifyFirst_length (p : Loaf → Bool) (f : Loaf → Loaf) (ls : List Loaf) :
    (modifyFirst p f ls).length = ls.length := by
  induction ls with
  | nil => rfl
  | cons r rs ih =>
    unfold modifyFirst
    split
    · rfl
    · simp [ih]

/-- A record after a change to the first that meets a test: an old one, or the changed one. -/
theorem mem_modifyFirst {p : Loaf → Bool} {f : Loaf → Loaf} {ls : List Loaf} {r : Loaf} (h : r ∈ modifyFirst p f ls) :
    r ∈ ls ∨ ∃ o, ls.find? p = some o ∧ r = f o := by
  induction ls with
  | nil => exact Or.inl h
  | cons a as ih =>
    unfold modifyFirst at h
    split at h
    · rename_i hp
      rcases List.mem_cons.mp h with rfl | h
      · exact Or.inr ⟨a, by simp [hp], rfl⟩
      · exact Or.inl (List.mem_cons_of_mem _ h)
    · rename_i hp
      rcases List.mem_cons.mp h with rfl | h
      · exact Or.inl List.mem_cons_self
      · rcases ih h with h | ⟨o, ho, rfl⟩
        · exact Or.inl (List.mem_cons_of_mem _ h)
        · exact Or.inr ⟨o, by simp [hp, ho], rfl⟩

/-- A change of one record that moves none into or out of a zone keeps the number of records in the zone. -/
theorem modifyFirst_zone (z : Zone) (p : Loaf → Bool) (f : Loaf → Loaf) (ls : List Loaf)
    (h : ∀ r, p r = true → ((f r).zone = z ↔ r.zone = z)) :
    ((modifyFirst p f ls).filter fun r => decide (r.zone = z)).length = (ls.filter fun r => decide (r.zone = z)).length := by
  induction ls with
  | nil => rfl
  | cons r rs ih =>
    unfold modifyFirst
    split
    · rename_i hp
      have hd : decide ((f r).zone = z) = decide (r.zone = z) := decide_eq_decide.mpr (h r hp)
      rw [List.filter_cons, List.filter_cons, hd]
      split <;> rfl
    · rw [List.filter_cons, List.filter_cons]
      split
      · rw [List.length_cons, List.length_cons, ih]
      · exact ih

/-- A change of the list of records that keeps their number and the marks in REJECT. -/
theorem setLoaves_kept (ls : List Loaf) (s : State) (hl : ls.length = s.track.loaves.length)
    (hm : rejectMarked s → ∀ r ∈ ls, r.zone = .reject → r.mark.isSome) : Kept s (setLoaves ls s) :=
  { Kept.refl s with length := hl, marked := hm }

/-- The same with as many records in INFEED as before. -/
theorem setLoaves_steady (ls : List Loaf) (s : State) (hl : ls.length = s.track.loaves.length)
    (hm : rejectMarked s → ∀ r ∈ ls, r.zone = .reject → r.mark.isSome)
    (hi : (ls.filter fun r => decide (r.zone = .infeed)).length = zoneCount s .infeed) : Steady s (setLoaves ls s) :=
  (setLoaves_kept ls s hl hm).steady ⟨rfl, rfl, rfl, rfl, rfl, hi⟩

/-- A change to one record that brings no unmarked record into REJECT. -/
theorem modifyLoaf_steady (tag : Nat) (f : Loaf → Loaf) (s : State)
    (h : ∀ r, (r.zone = .reject → r.mark.isSome) → (f r).zone = .reject → (f r).mark.isSome)
    (hz : ∀ r, (f r).zone = r.zone) : Steady s (modifyLoaf tag f s) := by
  refine setLoaves_steady _ s (modifyFirst_length _ _ _) (fun hm r hr => ?_) (modifyFirst_zone _ _ _ _ fun r _ => by rw [hz])
  rcases mem_modifyFirst hr with hr | ⟨o, ho, rfl⟩
  · exact hm r hr
  · exact h o (hm o (List.mem_of_find?_eq_some ho))

/-- A zone move out of REJECT's reach, or one whose record carries a mark. -/
theorem moveLoaf_kept (z : Zone) (tag : Nat) (f : Loaf → Loaf) (s : State)
    (h : ∀ o, s.track.loaves.find? (fun r => decide (r.tag = tag) && decide (r.zone = z)) = some o →
      (f o).zone = .reject → (f o).mark.isSome) : Kept s (moveLoaf z tag f s) := by
  refine setLoaves_kept _ s (modifyFirst_length _ _ _) fun hm r hr => ?_
  rcases mem_modifyFirst hr with hr | ⟨o, ho, rfl⟩
  · exact hm r hr
  · exact h o ho

/-- The same between two zones that are not INFEED. -/
theorem moveLoaf_steady (z : Zone) (tag : Nat) (f : Loaf → Loaf) (s : State)
    (h : ∀ o, s.track.loaves.find? (fun r => decide (r.tag = tag) && decide (r.zone = z)) = some o →
      (f o).zone = .reject → (f o).mark.isSome)
    (hz : z ≠ .infeed) (hf : ∀ r, (f r).zone ≠ .infeed) : Steady s (moveLoaf z tag f s) := by
  refine (moveLoaf_kept z tag f s h).steady ⟨rfl, rfl, rfl, rfl, rfl, modifyFirst_zone _ _ _ _ fun r hp => ?_⟩
  simp only [Bool.and_eq_true, decide_eq_true_eq] at hp
  rw [hp.2]
  exact ⟨fun k => absurd k (hf r), fun k => absurd k hz⟩

theorem withMark_isSome (m : Mark) (r : Loaf) : (r.withMark m).mark.isSome := by
  unfold Loaf.withMark
  cases r.mark <;> rfl

theorem modifyLoaf_mark_steady (tag : Nat) (m : Mark) (s : State) : Steady s (modifyLoaf tag (Loaf.withMark m) s) :=
  modifyLoaf_steady tag _ s (fun r _ _ => withMark_isSome m r) fun _ => rfl

/-! ## Updates of one block -/

/-- An update of the context that moves neither KNIFE_RUN nor the state. -/
theorem setHead_steady (h : Head) (s : State) (hk : h.knife = s.head.knife) (hs : h.state = s.head.state) : Steady s (s.setHead h) :=
  Kept.steady { Kept.refl s with } ⟨rfl, hk, hs, rfl, rfl, rfl⟩

theorem setHead_kept (h : Head) (s : State) : Kept s (s.setHead h) := { Kept.refl s with }

theorem setStations_steady (v : Stations) (s : State) : Steady s (s.setStations v) :=
  Kept.steady { Kept.refl s with } ⟨rfl, rfl, rfl, rfl, rfl, rfl⟩

theorem setTyers_steady (v : PerStation Tyer) (s : State) : Steady s (s.setTyers v) :=
  Kept.steady { Kept.refl s with } ⟨rfl, rfl, rfl, rfl, rfl, rfl⟩

theorem setMeas_steady (m : Meas) (s : State) : Steady s (s.setMeas m) :=
  Kept.steady { Kept.refl s with } ⟨rfl, rfl, rfl, rfl, rfl, rfl⟩

/-- An update of crumb control that keeps both loads in range. -/
theorem setCrumb_steady (c : Crumb) (s : State)
    (h : loadsBounded s → c.bladeLoad ≤ Config.loadCap ∧ c.trayLoad ≤ Config.loadCap) : Steady s (s.setCrumb c) :=
  Kept.steady { Kept.refl s with loads := h } ⟨rfl, rfl, rfl, rfl, rfl, rfl⟩

theorem setStation_steady (x : Station) (r : StationRec) (s : State) : Steady s (setStation x r s) := setStations_steady _ s

theorem setTyer_steady (x : Station) (t : Tyer) (s : State) : Steady s (setTyer x t s) := setTyers_steady _ s

/-! ## The converter -/

theorem startConversion_steady (c : Channel) (ph : SamplePhase) (q : Option ConvRequest) (s : State) :
    Steady s (startConversion c ph q s) := setMeas_steady _ s

theorem startPhaseConversion_steady (s : State) : Steady s (startPhaseConversion s) := by
  unfold startPhaseConversion
  simp only
  repeat' split
  all_goals first
    | exact Steady.refl s
    | exact setMeas_steady _ s

theorem arbitrate_steady (s : State) : Steady s (arbitrate s) := by
  unfold arbitrate
  repeat' split
  all_goals first
    | exact Steady.refl s
    | exact startPhaseConversion_steady s
    | exact (setMeas_steady _ s).trans (startConversion_steady _ _ _ _)

theorem askConversion_steady (who : Requester) (s : State) : Steady s (askConversion who s) :=
  (setMeas_steady _ s).trans (arbitrate_steady _)

theorem dropRequests_steady (who : Requester) (s : State) : Steady s (dropRequests who s) := setMeas_steady _ s

theorem phaseBegins_steady (s : State) : Steady s (phaseBegins s) := by
  unfold phaseBegins
  simp only
  repeat' split
  all_goals first
    | exact setMeas_steady _ s
    | exact (setMeas_steady _ s).trans (arbitrate_steady _)

/-! ## KNIFE_RUN -/

/-- Asserting or releasing KNIFE_RUN keeps everything of `Kept`, the line state and the context's state, and leaves KNIFE_RUN so. -/
theorem knifeTo_spec (on : Bool) (s : State) :
    Kept s (knifeTo on s) ∧ (knifeTo on s).sup = s.sup ∧ (knifeTo on s).track = s.track ∧ (knifeTo on s).head.knife = on ∧
      (knifeTo on s).head.state = s.head.state := by
  unfold knifeTo
  split
  · rename_i h
    exact ⟨Kept.refl s, rfl, rfl, h, rfl⟩
  · split
    · rename_i h
      exact ⟨{ Kept.refl s with }, rfl, rfl, h.symm, rfl⟩
    · rename_i h
      simp only
      have hf : on = false := by simpa using h
      split
      · exact ⟨{ Kept.refl s with }, rfl, rfl, hf.symm, rfl⟩
      · exact ⟨{ Kept.refl s with }, rfl, rfl, hf.symm, rfl⟩

theorem knifeTo_kept (on : Bool) (s : State) : Kept s (knifeTo on s) := (knifeTo_spec on s).1

/-! ## Sweeps and stages -/

theorem abortSweep_steady (s : State) : Steady s (abortSweep s) := by
  unfold abortSweep
  split
  · exact Steady.refl s
  · have h1 : Steady s (s.setCrumb { s.crumb with sweep := none }) := setCrumb_steady _ s id
    have h2 := h1.trans (dropRequests_steady .crumb _)
    have h3 := h2.trans (countShift_steady (fun r => { r with sweepsAborted := raiseCount r.sweepsAborted 1 }) _ rfl)
    exact h3.trans (report_steady _ _)

theorem trySweep_steady (s : State) : Steady s (trySweep s) := by
  unfold trySweep
  split
  · exact setCrumb_steady _ s id
  · exact Steady.refl s

theorem cutStage_steady (x : Station) (s : State) : Steady s (cutStage x s) :=
  (setTyer_steady _ _ s).trans (dropRequests_steady _ _)

theorem stationStops_steady (x : Station) (s : State) : Steady s (stationStops x s) := by
  unfold stationStops
  simp only
  split
  all_goals first
    | exact Steady.refl s
    | exact setStation_steady _ _ s
    | exact (setStation_steady _ _ s).trans (cutStage_steady _ _)

theorem stationHalts_steady (x : Station) (s : State) : Steady s (stationHalts x s) := by
  unfold stationHalts
  simp only
  split
  all_goals first
    | exact Steady.refl s
    | exact setStation_steady _ _ s
    | exact (setStation_steady _ _ s).trans (cutStage_steady _ _)

/-! ## The head at a stop or a halt -/

/-- The line, the hold and the watch stand; KNIFE_RUN is released. -/
structure Released (s t : State) : Prop where
  kept : Kept s t
  line : t.sup.line = s.sup.line
  hold : t.track.infeedHold = s.track.infeedHold
  watch : t.sup.beltWatch = s.sup.beltWatch
  knife : t.head.knife = false

theorem Released.of_setHead {s t : State} (h : Released s t) (v : Head) (hv : v.knife = t.head.knife) : Released s (t.setHead v) :=
  ⟨h.kept.trans (setHead_kept v t), h.line, h.hold, h.watch, hv.trans h.knife⟩

theorem knifeTo_released (s : State) : Released s (knifeTo false s) := by
  obtain ⟨h, hs, ht, hk, _⟩ := knifeTo_spec false s
  exact ⟨h, by rw [hs], by rw [ht], by rw [hs], hk⟩

theorem headStops_released (s : State) : Released s (headStops s) := by
  unfold headStops
  simp only
  split
  all_goals first
    | exact knifeTo_released s
    | exact (knifeTo_released s).of_setHead _ rfl

theorem interruptLoaf_released {s t : State} (h : Released s t) : Released s (interruptLoaf t) := by
  unfold interruptLoaf
  simp only
  split
  · exact h.of_setHead _ rfl
  · rename_i tag _
    have k := modifyLoaf_mark_steady tag .interrupted t
    have : Released s (modifyLoaf tag (Loaf.withMark .interrupted) t) :=
      ⟨h.kept.trans k.kept, h.line, h.hold, h.watch, h.knife⟩
    exact this.of_setHead _ rfl

theorem headHalts_released (s : State) : Released s (headHalts s) := by
  unfold headHalts
  simp only
  split
  all_goals first
    | exact knifeTo_released s
    | exact interruptLoaf_released (knifeTo_released s)
    | exact (knifeTo_released s).of_setHead _ rfl

/-! ## Changes of the line state -/

theorem setLine_kept (l : LineState) (s : State) : Kept s (setLine l s) :=
  Kept.trans (t := s.setSup { s.sup with line := l }) { Kept.refl s with } (report_kept _ _)

theorem setLine_line (l : LineState) (s : State) : (setLine l s).sup.line = l := by
  unfold setLine
  rw [report_eq]
  rfl

theorem assertHold_kept (s : State) : Kept s (assertHold s) := { Kept.refl s with }

/-- The hold is due in every line state but RUNNING (R8). -/
theorem holdOwed_still (s : State) (h : s.sup.line ≠ .running) : holdOwed s = true := by
  unfold holdOwed
  simp [h]

/-- Any state with the line not moving, KNIFE_RUN released and the hold asserted obeys the line laws. -/
theorem obeys_still {s t : State} (hl : moving t = false) (hk : t.head.knife = false) (hh : t.track.infeedHold = true)
    (hw : t.sup.beltWatch = false) : Obeys s t := by
  constructor
  · intro _
    unfold knifeLaw
    simp [hl, hk]
  · intro _
    have hn : t.sup.line ≠ .running := fun k => by
      unfold moving at hl
      simp [k] at hl
    unfold holdLaw
    rw [hh, holdOwed_still t hn]
  · intro _ k
    rw [hw] at k
    cases k
  · intro _ hd
    unfold moving at hl
    simp [hd] at hl

/-- The steady operations between the head and the hold keep its release. -/
theorem Released.steps {s t u : State} (h : Released s t) (k : Steady t u) (l : Level t u) : Released s u :=
  ⟨h.kept.trans k.kept, l.line.trans h.line, l.hold.trans h.hold, l.watch.trans h.watch, l.knife.trans h.knife⟩

/-- An operation that leaves supervision, the track and the head alone moves no level. -/
theorem level_of_eq {s t : State} (hs : t.sup = s.sup) (ht : t.track = s.track) (hh : t.head = s.head) : Level s t :=
  ⟨by rw [hs], by rw [hh], by rw [hh], by rw [ht], by rw [hs], by unfold zoneCount; rw [ht]⟩

theorem abortSweep_level (s : State) : Level s (abortSweep s) := by
  unfold abortSweep
  split
  · exact Level.refl s
  · refine Level.trans ?_ (report_level _ _)
    exact ⟨rfl, rfl, rfl, rfl, rfl, rfl⟩

theorem stationStops_level (x : Station) (s : State) : Level s (stationStops x s) := by
  unfold stationStops
  simp only
  split <;> exact ⟨rfl, rfl, rfl, rfl, rfl, rfl⟩

theorem stationHalts_level (x : Station) (s : State) : Level s (stationHalts x s) := by
  unfold stationHalts
  simp only
  split <;> exact ⟨rfl, rfl, rfl, rfl, rfl, rfl⟩

/-- The line enters HALTED (R139). -/
theorem enterHalted_spec (s : State) :
    Steady s (enterHalted s) ∧ (enterHalted s).sup.line = .halted ∧ (enterHalted s).track.infeedHold = true := by
  have h1 : Released (setLine .halted s) (headHalts (countShift (fun r => { r with halts := raiseCount r.halts 1 }) (setLine .halted s))) := by
    have h := headHalts_released (countShift (fun r => { r with halts := raiseCount r.halts 1 }) (setLine .halted s))
    exact ⟨(countShift_steady _ _ rfl).kept.trans h.kept, h.line, h.hold, h.watch, h.knife⟩
  have h2 := (h1.steps (stationHalts_steady .a _) (stationHalts_level .a _)).steps (stationHalts_steady .b _) (stationHalts_level .b _)
  have h3 := h2.steps (abortSweep_steady _) (abortSweep_level _)
  have hl : (enterHalted s).sup.line = .halted := h3.line.trans (setLine_line _ _)
  refine ⟨⟨((setLine_kept _ s).trans h3.kept).trans (assertHold_kept _), obeys_still ?_ ?_ rfl rfl⟩, hl, rfl⟩
  · unfold moving
    rw [hl]
    rfl
  · exact h3.knife

/-- The line enters STOPPED from RUNNING or DRAINING (R139). -/
theorem enterStopped_spec (now : Bool) (s : State) :
    Steady s (enterStopped now s) ∧ (enterStopped now s).sup.line = .stopped ∧ (enterStopped now s).track.infeedHold = true := by
  have h1 := headStops_released (setLine .stopped s)
  have h2 := (h1.steps (stationStops_steady .a _) (stationStops_level .a _)).steps (stationStops_steady .b _) (stationStops_level .b _)
  have h3 : Released (setLine .stopped s) (if now then
      abortSweep (stationStops .b (stationStops .a (headStops (setLine .stopped s))))
      else stationStops .b (stationStops .a (headStops (setLine .stopped s)))) := by
    split
    · exact h2.steps (abortSweep_steady _) (abortSweep_level _)
    · exact h2
  have hl : (enterStopped now s).sup.line = .stopped := h3.line.trans (setLine_line _ _)
  refine ⟨⟨((setLine_kept _ s).trans h3.kept).trans (assertHold_kept _), obeys_still ?_ ?_ rfl rfl⟩, hl, rfl⟩
  · unfold moving
    rw [hl]
    rfl
  · exact h3.knife

theorem trackEmpty_steady (s : State) : Steady s (trackEmpty s) := by
  unfold trackEmpty
  split
  · exact (enterStopped_spec false s).1
  · exact Steady.refl s

theorem setLine_spec (l : LineState) (s : State) :
    (setLine l s).head = s.head ∧ (setLine l s).track = s.track ∧ (setLine l s).sup = { s.sup with line := l } := by
  unfold setLine
  rw [report_eq]
  exact ⟨rfl, rfl, rfl⟩

/-- The signal "track empty" ends DRAINING, whatever stood before (R142). -/
theorem trackEmpty_drains (s : State) : drainLaw (trackEmpty s) := by
  unfold trackEmpty
  split
  · intro h
    rw [(enterStopped_spec false s).2.1] at h
    cases h
  · rename_i h
    intro hd he
    simp [hd, he] at h

/-- The line enters DRAINING from a state in which it was moving (R139, R142). -/
theorem enterDraining_steady (s : State) (hm : moving s = true) : Steady s (enterDraining s) := by
  have h1 : Kept s (assertHold (setLine .draining s)) ∧ (knifeLaw s → knifeLaw (assertHold (setLine .draining s))) ∧
      holdLaw (assertHold (setLine .draining s)) := by
    obtain ⟨hh, _, hs⟩ := setLine_spec .draining s
    refine ⟨(setLine_kept _ s).trans (assertHold_kept _), ?_, ?_⟩
    · intro h
      unfold knifeLaw at h ⊢
      rw [hm] at h
      have h2 : moving (assertHold (setLine .draining s)) = true := by
        unfold moving assertHold
        simp [hs]
      rw [h2]
      show (setLine .draining s).head.knife = _
      rw [hh, h]
      show _ = (true && decide ((setLine .draining s).head.state ≠ .passing))
      rw [hh]
    · exact (holdOwed_still _ (by
        show (setLine .draining s).sup.line ≠ .running
        rw [setLine_line]
        exact fun k => by cases k)).symm
  have h2 := (trySweep_steady (assertHold (setLine .draining s))).trans (trackEmpty_steady _)
  exact ⟨h1.1.trans h2.kept, ⟨h2.obeys.knife ∘ h1.2.1, fun _ => h2.obeys.hold h1.2.2,
    fun _ => h2.obeys.watch fun k => (by cases k), fun _ => trackEmpty_drains _⟩⟩

/-! ## A fault and its action -/

theorem applyToLine_steady (a : Action) (s : State) : Steady s (applyToLine a s) := by
  unfold applyToLine
  split
  · split
    · exact Steady.refl s
    · exact (enterHalted_spec s).1
  · split
    · rename_i h
      exact enterDraining_steady s (by unfold moving; simp [h])
    · exact Steady.refl s
  · exact Steady.refl s

theorem settleBelt_steady (s : State) : Steady s (settleBelt s) := by
  unfold settleBelt
  simp only
  split
  · exact (faultMoves_steady .beltStall .latched s (by decide)).trans (applyToLine_steady _ _)
  · exact Steady.refl s

theorem faultActs_steady (k : FaultKind) (s : State) : Steady s (faultActs k s) :=
  (applyToLine_steady _ s).trans (settleBelt_steady _)

/-- An event fault raised (R145), whatever its action does. -/
theorem raiseFault_steady (k : FaultKind) (loaf : Option Nat) (s : State) : Steady s (raiseFault k loaf s) :=
  (faultOccurs_steady k .latched loaf s fun _ => by decide).trans (faultActs_steady k _)

/-- A condition fault follows its condition (R144). -/
theorem setCondition_steady (k : FaultKind) (p : Bool) (s : State) (hk : eventFault k = false) : Steady s (setCondition k p s) := by
  unfold setCondition
  split
  · exact Steady.refl s
  · exact (faultOccurs_steady k .active none s fun h => by rw [hk] at h; cases h).trans (faultActs_steady k _)
  · exact (faultMoves_steady k .latched s fun _ => by decide).trans (faultActs_steady k _)
  · exact Steady.refl s

/-! ## The hold -/

theorem assertHold_steady (s : State) (h : holdCondition s = true) : Steady s (assertHold s) :=
  ⟨assertHold_kept s, ⟨fun h => h, fun _ => h.symm, fun _ k => (by cases k), fun h => h⟩⟩

theorem releaseHold_steady (s : State) (h : holdCondition s = false) : Steady s (releaseHold s) :=
  ⟨{ Kept.refl s with }, ⟨fun k => k, fun _ => h.symm, fun _ _ => rfl, fun k => k⟩⟩

theorem reviewHold_steady (s : State) : Steady s (reviewHold s) := by
  unfold reviewHold
  split
  · rename_i h _
    exact (assertHold_steady s h).trans (settleBelt_steady _)
  · rename_i h _
    exact releaseHold_steady s h
  · exact Steady.refl s

/-- After a review the hold stands exactly while its condition holds, whatever stood before (R8). -/
theorem reviewHold_holds (s : State) : holdLaw (reviewHold s) := by
  unfold reviewHold
  split
  · rename_i h _
    exact (settleBelt_steady (assertHold s)).obeys.hold h.symm
  · rename_i h _
    exact h.symm
  · rename_i h1 h2
    unfold holdLaw
    rw [holdOwed_eq]
    cases hc : holdCondition s <;> cases hh : s.track.infeedHold
    · rfl
    · exact absurd hh (h2 hc)
    · exact absurd hh (h1 hc)
    · rfl

theorem afterRemoval_steady (s : State) : Steady s (afterRemoval s) :=
  ((evaluate_steady .trackFull s).trans (trackEmpty_steady _)).trans (reviewHold_steady _)

/-- After a removal DRAINING has ended where the track is empty (R142). -/
theorem afterRemoval_drains (s : State) : drainLaw (afterRemoval s) :=
  (reviewHold_steady _).obeys.drain (trackEmpty_drains _)

/-- What an operation does that keeps everything but the hold's law is steady once the hold is reviewed (R8). -/
theorem reviewed_steady {s t : State} (k : Kept s t) (hk : knifeLaw s → knifeLaw t) (hw : watchLaw s → watchLaw t)
    (hd : drainLaw s → drainLaw t) : Steady s (reviewHold t) := by
  have r := reviewHold_steady t
  exact ⟨k.trans r.kept, r.obeys.knife ∘ hk, fun _ => reviewHold_holds t, r.obeys.watch ∘ hw, r.obeys.drain ∘ hd⟩

/-- A record that changes its zone, and a steady operation after it, once the hold is reviewed (R8). -/
theorem moved_steady {s m t : State} (k : Kept s m) (hh : m.head = s.head) (hs : m.sup = s.sup)
    (hi : m.track.infeedHold = s.track.infeedHold) (h : Steady m t) : Steady s (reviewHold t) := by
  refine reviewed_steady (k.trans h.kept) (fun l => h.obeys.knife ?_) (fun l => h.obeys.watch ?_) fun l => h.obeys.drain ?_
  · unfold knifeLaw moving at l ⊢
    rw [hh, hs]
    exact l
  · unfold watchLaw at l ⊢
    rw [hs, hi]
    exact l
  · rw [drainLaw_iff] at l ⊢
    rw [hs, k.length]
    exact l

/-- After a removal the hold stands exactly while its condition holds (R8). -/
theorem afterRemoval_holds (s : State) : holdLaw (afterRemoval s) := reviewHold_holds _

theorem reviewGuard_steady (s : State) : Steady s (reviewGuard s) := setCondition_steady .guardOpen _ s rfl

end Sys2Proof.Laws
end

