-- ==== Sys2Proof/Laws/Stations.lean ====
section
/-! SUPPORT. What each operation of StationCycle keeps: the gate decision, the eject, the bag, the release, the tie. Each is steady. -/

namespace Sys2Proof.Laws

open Sys2Proof.Machine Sys2Proof.Safety

/-! ## Records -/

/-- The first element that meets a narrower test is the first that meets the wider one, where that one meets both. -/
theorem find_narrow {p q : Loaf → Bool} {ls : List Loaf} {r : Loaf} (h : ls.find? p = some r) (hq : q r = true)
    (hs : ∀ x, q x = true → p x = true) : ls.find? q = some r := by
  induction ls with
  | nil => cases h
  | cons a as ih =>
    rw [List.find?_cons] at h ⊢
    split at h
    · obtain rfl := Option.some.inj h
      rw [hq]
    · rename_i hp
      have : q a = false := by
        by_contra hc
        rw [hs a (by simpa using hc)] at hp
        cases hp
      rw [this]
      exact ih h

/-- The oldest record of a zone is the first of that zone with its own tag. -/
theorem find_oldest {s : State} {z : Zone} {r : Loaf} (h : oldestIn s z = some r) :
    s.track.loaves.find? (fun l => decide (l.tag = r.tag) && decide (l.zone = z)) = some r := by
  have hz := List.find?_some h
  simp only [decide_eq_true_eq] at hz
  refine find_narrow h (by simp [hz]) fun x hx => ?_
  simp only [Bool.and_eq_true] at hx
  exact hx.2

/-- A record routed to REJECT carries a mark (R84). -/
theorem divert_steady (r : Loaf) (s : State) (h : oldestIn s .transfer = some r) (hm : r.mark.isSome) : Steady s (divert r.tag s) := by
  refine moveLoaf_steady _ _ _ s (fun o ho _ => ?_) (fun k => by cases k) fun _ k => by cases k
  rw [find_oldest h] at ho
  obtain rfl := Option.some.inj ho
  exact hm

/-! ## The gate decision and the eject -/

theorem assignLoaf_steady (x : Station) (tag : Nat) (s : State) : Steady s (assignLoaf x tag s) := by
  unfold assignLoaf
  exact (moveLoaf_steady _ _ _ s (fun o _ h => by cases h) (fun k => by cases k) fun _ k => by cases k).trans ((setStation_steady _ _ _).trans (setStations_steady _ _))

theorem gateDecision_steady (s : State) : Steady s (gateDecision s) := by
  unfold gateDecision
  split
  · exact Steady.refl s
  · split
    · exact Steady.refl s
    · rename_i r hr
      split
      · rename_i m hm
        exact divert_steady r s hr (by rw [hm]; rfl)
      · split
        · exact Steady.refl s
        · split
          · exact Steady.refl s
          · exact assignLoaf_steady _ _ s

/-- A head update that moves KNIFE_RUN with the law of R59. -/
theorem setHead_lawful (h : Head) (s : State) (k : knifeLaw s → h.knife = (moving s && decide (h.state ≠ .passing))) :
    Steady s (s.setHead h) :=
  ⟨setHead_kept h s, ⟨k, id, id, id⟩⟩

/-- A head update followed by KNIFE_RUN's, so that the law of R59 holds, whatever stood before. -/
theorem setKnife_steady (h : Head) (on : Bool) (s : State) (k : on = (moving s && decide (h.state ≠ .passing))) :
    Steady s (knifeTo on (s.setHead h)) := by
  obtain ⟨hk, hs, ht, hn, hst⟩ := knifeTo_spec on (s.setHead h)
  refine ⟨(setHead_kept h s).trans hk, ⟨fun _ => ?_, fun l => ?_, fun l => ?_, fun l => ?_⟩⟩
  · unfold knifeLaw moving
    rw [hn, hs, hst]
    exact k
  · unfold holdLaw holdOwed at l ⊢
    rw [hs, ht]
    exact l
  · unfold watchLaw at l ⊢
    rw [hs, ht]
    exact l
  · unfold drainLaw at l ⊢
    rw [hs, ht]
    exact l

/-- The context's update at an eject, with the blade engaged again after a pass-through (R71). -/
theorem ejectHead_steady (s : State) :
    Steady s
      (if s.head.state = .passing && moving s then
        knifeTo true (s.setHead { s.head with state := .homing, tag := none, nextCut := none, target := 0 })
      else s.setHead { s.head with state := .homing, tag := none, nextCut := none, target := 0 }) := by
  split
  · rename_i h
    simp only [Bool.and_eq_true, decide_eq_true_eq] at h
    exact setKnife_steady _ true s ((Bool.and_eq_true _ _).mpr ⟨h.2, rfl⟩).symm
  · rename_i h
    refine setHead_lawful _ s fun k => ?_
    unfold knifeLaw at k
    show s.head.knife = _
    rw [k]
    cases hm : moving s
    · rfl
    · simp only [hm, Bool.and_true, decide_eq_true_eq] at h
      simp [h]

theorem ejectLoaf_steady (s : State) : Steady s (ejectLoaf s) := by
  unfold ejectLoaf
  split
  · exact Steady.refl s
  · rename_i tag _
    have h1 : Steady s (moveLoaf .slicer tag (fun r => { r with zone := .transfer, ejectCount := some s.track.beltCount }) s) :=
      moveLoaf_steady _ _ _ s (fun o _ h => by cases h) (fun k => by cases k) fun _ k => by cases k
    exact (h1.trans (ejectHead_steady _)).trans (gateDecision_steady _)

theorem endStroke_steady (s : State) : Steady s (endStroke s) := Steady.ite (ejectLoaf_steady s) (Steady.refl s)

theorem route_steady (s : State) : Steady s (route s) := (gateDecision_steady s).trans (endStroke_steady _)

/-! ## Opening a bag -/

theorem wasteBag_steady (x : Station) (s : State) : Steady s (wasteBag x s) := countStation_steady x _ s

theorem stationEmpties_steady (x : Station) (s : State) : Steady s (stationEmpties x s) :=
  (setStation_steady _ _ s).trans (evaluate_steady _ _)

theorem stationReady_steady (x : Station) (s : State) : Steady s (stationReady x s) :=
  (setStation_steady _ _ s).trans (route_steady _)

theorem drawBag_steady (x : Station) (n : Nat) (s : State) : Steady s (drawBag x n s) := by
  unfold drawBag
  simp only
  split
  · exact stationEmpties_steady x s
  · have h := (setStation_steady x { stationRec s x with
        magazine := (stationRec s x).magazine - 1, attempt := some n, bagTimer := some s.stations.times.openTimeout } s).trans
      ((countStation_steady x (fun c => { c with drawn := raiseCount c.drawn 1 }) _).trans (evaluate_steady (.bagsLow x) _))
    split
    · exact h.trans (stationReady_steady x _)
    · exact h

theorem tryDraw_steady (x : Station) (s : State) : Steady s (tryDraw x s) := Steady.ite (drawBag_steady x 1 s) (Steady.refl s)

theorem enterOpening_steady (x : Station) (s : State) : Steady s (enterOpening x s) :=
  (setStation_steady _ _ s).trans ((evaluate_steady _ _).trans (tryDraw_steady _ _))

/-! ## Service -/

theorem stationOut_steady (x : Station) (s : State) : Steady s (stationOut x s) :=
  (setStation_steady _ _ s).trans (evaluate_steady _ _)

theorem serviceLost_steady (x : Station) (s : State) : Steady s (serviceLost x s) := by
  unfold serviceLost
  simp only
  split
  · exact (wasteBag_steady x s).trans (stationOut_steady x _)
  · exact (Steady.ite (wasteBag_steady x s) (Steady.refl s)).trans (stationOut_steady x _)
  · exact stationOut_steady x s
  all_goals exact Steady.refl s

theorem serviceBack_steady (x : Station) (s : State) : Steady s (serviceBack x s) := by
  unfold serviceBack
  simp only
  refine (setStation_steady x { stationRec s x with misties := 0 } s).trans ?_
  split
  · exact Steady.ite (stationEmpties_steady x _) (enterOpening_steady x _)
  · exact Steady.refl _

/-! ## Release -/

theorem loafToOutfeed_steady (x : Station) (s : State) : Steady s (loafToOutfeed x s) := by
  unfold loafToOutfeed
  simp only
  split
  · exact setStation_steady _ _ s
  · exact (moveLoaf_steady _ _ _ s (fun o _ h => by cases h) (fun k => by cases k) fun _ k => by cases k).trans (setStation_steady _ _ _)

theorem afterRelease_steady (x : Station) (s : State) : Steady s (afterRelease x s) :=
  Steady.ite (enterOpening_steady x s) (stationOut_steady x s)

theorem releaseLoaf_steady (x : Station) (s : State) : Steady s (releaseLoaf x s) :=
  (loafToOutfeed_steady x s).trans (afterRelease_steady x _)

theorem awaitRelease_steady (x : Station) (s : State) : Steady s (awaitRelease x s) := by
  unfold awaitRelease
  simp only
  exact Steady.ite (Steady.ite (setStation_steady _ _ s) (releaseLoaf_steady x s)) (Steady.refl s)

theorem writeTie_steady (x : Station) (result : TieResult) (code : Option ClipCode) (s : State) : Steady s (writeTie x result code s) := by
  unfold writeTie
  simp only
  split
  · exact setStation_steady _ _ s
  · refine Steady.trans (modifyLoaf_steady _ _ s ?_ ?_) (setStation_steady _ _ _)
    · exact fun r h => h
    · exact fun _ => rfl

/-! ## The tying stage -/

theorem beginStrike_steady (x : Station) (n : Nat) (s : State) : Steady s (beginStrike x n s) :=
  (setTyer_steady _ _ s).trans ((countStation_steady x (fun c => { c with clipMm := raiseCount c.clipMm n }) _).trans (evaluate_steady _ _))

theorem skipTie_steady (x : Station) (s : State) : Steady s (skipTie x s) := by
  unfold skipTie
  refine (countStation_steady x (fun c => { c with untied := raiseCount c.untied 1 }) s).trans ?_
  refine (writeTie_steady x .untied none _).trans ?_
  refine Steady.trans ?_ (awaitRelease_steady x _)
  refine Steady.trans ?_ (setCondition_steady _ _ _ rfl)
  exact setTyer_steady x _ _

theorem beginTying_steady (x : Station) (s : State) : Steady s (beginTying x s) := by
  unfold beginTying
  simp only
  exact (setStation_steady x { stationRec s x with state := .tying, scoopTimer := none } s).trans
    (Steady.ite (beginStrike_steady _ _ _) (skipTie_steady _ _))

theorem scoopComplete_steady (x : Station) (s : State) : Steady s (scoopComplete x s) :=
  Steady.ite (beginTying_steady x s) ((writeTie_steady _ _ _ s).trans (awaitRelease_steady x _))

theorem endTying_steady (x : Station) (result : TieResult) (s : State) : Steady s (endTying x result s) := by
  unfold endTying
  simp only
  have h := (writeTie_steady x result (tyerOf s x).codeHeld s).trans
    (setTyer_steady x { tyerOf s x with stage := none, codeHeld := none } _)
  refine Steady.trans ?_ (awaitRelease_steady x _)
  split
  · have k (t : State) (r : StationRec) := (setStation_steady x r t).trans ((warn_steady .mistie true _).trans
      (countStation_steady x (fun c => { c with misties := raiseCount c.misties 1 }) _))
    split
    · exact h.trans ((k _ _).trans (raiseFault_steady _ _ _))
    · exact h.trans (k _ _)
  · exact h.trans ((setStation_steady _ _ _).trans (warn_steady _ _ _))
  · exact h

theorem stationRestarts_steady (x : Station) (s : State) : Steady s (stationRestarts x s) := by
  unfold stationRestarts
  simp only
  split
  · exact Steady.refl s
  · have h : Steady s (setStation x { stationRec s x with held := false } s) := setStation_steady _ _ s
    split
    · exact h.trans ((Steady.ite (wasteBag_steady x _) (Steady.refl _)).trans (enterOpening_steady x _))
    · exact h.trans ((wasteBag_steady x _).trans (enterOpening_steady x _))
    · split
      · exact h
      · exact h.trans (setStation_steady _ _ _)
    · exact h.trans (beginTying_steady x _)
    · exact h.trans (awaitRelease_steady x _)
    · exact h
    · exact h

theorem stationAbandons_steady (x : Station) (s : State) : Steady s (stationAbandons x s) := by
  unfold stationAbandons
  simp only
  split
  · exact Steady.refl s
  · have h := (wasteBag_steady x s).trans ((setStation_steady x { stationRec s x with tag := none, held := false } _).trans
      (cutStage_steady x _))
    split
    · exact h.trans (enterOpening_steady x _)
    · exact h.trans (stationOut_steady x _)

end Sys2Proof.Laws
end

