-- ==== Sys2Proof/Laws/Admission.lean ====
section
/-! SUPPORT. What each operation of Admission keeps: the admission, the abandonment, the resumption, the sweep's end, the conditions that
inputs hold. -/

namespace Sys2Proof.Laws

open Sys2Proof.Machine Sys2Proof.Safety

/-! ## Admission -/

theorem askSweep_steady (reason : SweepReason) (s : State) : Steady s (askSweep reason s) := by
  unfold askSweep
  split
  · exact Steady.refl s
  · refine Steady.trans ?_ (trySweep_steady _)
    exact setCrumb_steady _ s fun h => h

theorem enterPassing_steady (r : Loaf) (s : State) : Steady s (enterPassing r s) :=
  setKnife_steady _ false s (by simp)

/-- A head update from a state other than PASSING to another one, with KNIFE_RUN where it stands. -/
theorem setHead_cutting (h : Head) (s : State) (hk : h.knife = s.head.knife) (hs : s.head.state ≠ .passing) (ht : h.state ≠ .passing) :
    Steady s (s.setHead h) := by
  refine setHead_lawful h s fun k => ?_
  unfold knifeLaw at k
  rw [hk, k]
  simp [hs, ht]

theorem takeLoaf_steady (r : Loaf) (s : State) (h : s.head.state ≠ .passing) : Steady s (takeLoaf r s) := by
  unfold takeLoaf
  simp only
  refine moved_steady (m := moveLoaf .infeed r.tag (fun l => { l with
    zone := .slicer, mark := r.mark, cutsDone := if r.mark.isSome then l.cutsDone else some 0 }) s)
    (moveLoaf_kept _ _ _ s fun o _ h => by cases h) rfl rfl rfl ?_
  refine Steady.trans ?_ (Steady.ite (enterPassing_steady r _) (setHead_cutting _ _ rfl h fun k => by cases k))
  refine Steady.trans ?_ (setCrumb_steady _ _ fun h => h)
  exact setHead_steady _ _ rfl rfl

theorem testAdmission_steady (s : State) : Steady s (testAdmission s) := by
  unfold testAdmission
  split
  · rename_i ho
    have h : s.head.state ≠ .passing := by
      unfold admissionOpen at ho
      simp only [Bool.and_eq_true, decide_eq_true_eq] at ho
      rw [ho.1.1.2]
      exact fun k => by cases k
    repeat' split
    all_goals first
      | exact Steady.refl s
      | exact takeLoaf_steady _ s h
      | exact askSweep_steady _ s
  · exact Steady.refl s

theorem slicerFree_steady (s : State) : Steady s (slicerFree s) := (trySweep_steady s).trans (testAdmission_steady _)

/-! ## Abandonment and resumption -/

theorem abandonLoaf_steady (r : Loaf) (s : State) : Steady s (abandonLoaf r s) := by
  unfold abandonLoaf
  simp only
  split
  case h_1 h =>
    refine Steady.ite (setHead_cutting _ s rfl ?_ ?_) (enterPassing_steady r s)
    · rw [h]; exact fun k => by cases k
    · exact fun k => by cases k
  case h_2 h =>
    refine Steady.ite (setHead_cutting _ s rfl ?_ ?_) (enterPassing_steady r s)
    · rw [h]; exact fun k => by cases k
    · exact fun k => by cases k
  case h_3 h =>
    refine setHead_cutting _ s rfl ?_ ?_
    · rw [h]; exact fun k => by cases k
    · exact fun k => by cases k
  case h_4 => exact setHead_steady _ s rfl rfl
  case h_5 =>
    refine setHead_steady _ s ?_ ?_
    · split <;> rfl
    · split <;> rfl
  case h_6 =>
    refine setHead_steady _ s ?_ ?_
    · split <;> rfl
    · split <;> rfl
  case h_7 => exact Steady.refl s

theorem resumedHead_knife (s : State) : (resumedHead s).knife = s.head.knife := by
  unfold resumedHead
  simp only
  repeat' split
  all_goals rfl

/-- The line enters RUNNING from STOPPED, the head resumes and the hold is reviewed (R8, R74, R139). -/
theorem resume_steady (s : State) (h : s.sup.line = .stopped) : Steady s (reviewHold (headResumes (setLine .running s))) := by
  obtain ⟨hh, ht, hs⟩ := setLine_spec .running s
  have hv := resumedHead_knife (setLine .running s)
  unfold headResumes
  generalize resumedHead (setLine .running s) = v at hv ⊢
  have hm : moving s = false := by
    unfold moving
    rw [h]
    rfl
  have hr : moving (setLine .running s) = true := by
    unfold moving
    rw [hs]
    rfl
  have watch : watchLaw s → watchLaw (setLine .running s) := by
    unfold watchLaw
    rw [hs, ht]
    exact id
  have drain : drainLaw (setLine .running s) := by
    intro hd
    rw [hs] at hd
    cases hd
  simp only
  split
  · rename_i hp
    have hp : v.state = .passing := hp
    refine reviewed_steady ((setLine_kept _ s).trans (setHead_kept v _)) (fun k => ?_) watch fun _ => drain
    unfold knifeLaw at k ⊢
    rw [hm, ← hh, ← hv] at k
    show v.knife = (_ && decide (v.state ≠ .passing))
    rw [hp, k]
    simp
  · rename_i hp
    have hp : v.state ≠ .passing := hp
    have hk := setKnife_steady v true (setLine .running s) (by rw [hr]; simp [hp])
    refine reviewed_steady ((setLine_kept _ s).trans hk.kept) (fun _ => ?_) (fun l => hk.obeys.watch (watch l)) fun _ =>
      hk.obeys.drain drain
    obtain ⟨_, h1, _, h3, h4⟩ := knifeTo_spec true ((setLine .running s).setHead v)
    unfold knifeLaw
    rw [h3, h4]
    have : moving (knifeTo true ((setLine .running s).setHead v)) = true := by
      unfold moving at hr ⊢
      rw [h1]
      exact hr
    rw [this]
    simp [hp]

/-! ## Sweeps -/

theorem suspensionBegins_steady (s : State) : Steady s (suspensionBegins s) := by
  unfold suspensionBegins
  split
  · exact Steady.refl s
  · refine Steady.trans ?_ (testAdmission_steady _)
    split
    · exact setCrumb_steady _ s fun h => h
    · exact Steady.refl s

theorem sweepSucceeds_steady (s : State) : Steady s (sweepSucceeds s) := by
  unfold sweepSucceeds
  refine Steady.trans ?_ (countShift_steady _ _ rfl)
  refine Steady.trans ?_ (warn_steady _ _ _)
  exact setCrumb_steady _ s fun h => ⟨h.1, Nat.zero_le _⟩

/-- The table of faults after the second weak sweep in a row (R119). -/
theorem weakFault_steady (s : State) :
    Steady s (if 2 ≤ s.crumb.weakCount then raiseFault .vacuumFail none (s.setCrumb { s.crumb with weakCount := 0 }) else s) := by
  split
  · refine Steady.trans ?_ (raiseFault_steady _ _ _)
    exact setCrumb_steady _ s fun h => h
  · exact Steady.refl s

theorem sweepIsWeak_steady (s : State) : Steady s (sweepIsWeak s) := by
  unfold sweepIsWeak
  simp only
  refine Steady.trans ?_ (Steady.ite (Steady.refl _) (setCrumb_steady _ _ fun h => h))
  refine Steady.trans ?_ (weakFault_steady _)
  refine Steady.trans ?_ (countShift_steady _ _ rfl)
  refine Steady.trans ?_ (warn_steady _ _ _)
  exact setCrumb_steady _ s fun h => ⟨h.1, Nat.le_trans (Nat.min_le_left _ _) h.2⟩

theorem endSweep_steady (result : SweepResult) (s : State) : Steady s (endSweep result s) := by
  unfold endSweep
  simp only
  refine Steady.trans ?_ (slicerFree_steady _)
  refine Steady.trans ?_ (evaluate_steady _ _)
  refine Steady.trans ?_ (report_steady _ _)
  split
  · exact sweepSucceeds_steady s
  · exact sweepIsWeak_steady s

/-! ## The conditions held by inputs -/

theorem reviewTray_steady (s : State) : Steady s (reviewTray s) :=
  (setCondition_steady .trayFull _ s rfl).trans (Steady.ite (suspensionBegins_steady _) (Steady.refl _))

theorem disarmStop_steady (s : State) : Steady s (disarmStop s) := by
  unfold disarmStop
  split
  · exact Steady.refl s
  · refine modifyLoaf_steady _ _ s (fun r h => ?_) fun r => ?_
    · split
      · split
        · exact h
        · exact h
      · exact h
    · split
      · split <;> rfl
      · rfl

end Sys2Proof.Laws
end

