-- ==== Sys2Proof/Laws/Lawful.lean ====
section
/-! SUPPORT. What a whole command keeps: the relation `Mild` of an operation that opens and removes no record and closes no shift, the
relation `Lawful` of every command, and both for the link's own operations and for a request's checks. -/

namespace Sys2Proof.Laws

open Sys2Proof.Machine Sys2Proof.Safety

/-- What an operation keeps that opens and removes no record, closes no shift and writes no recipe. -/
structure Mild (s t : State) : Prop where
  member : t.member = s.member
  pending : t.pending = s.pending
  recipes : t.recipes = s.recipes
  history : t.shift.history = s.shift.history
  counts : loafCounts t.shift.openRecord = loafCounts s.shift.openRecord
  length : t.track.loaves.length = s.track.loaves.length
  marked : rejectMarked s → rejectMarked t
  buffer : s.link.buffer.length ≤ Config.bufferCapacity → t.link.buffer.length ≤ Config.bufferCapacity
  queue : s.link.queue.length ≤ Config.queueCapacity → t.link.queue.length ≤ Config.queueCapacity
  faults : faultsLawful s → faultsLawful t
  loads : loadsBounded s → loadsBounded t
  points : pointsLawful s → pointsLawful t
  obeys : Obeys s t

theorem Mild.refl (s : State) : Mild s s := by
  constructor <;> first | rfl | exact id | exact Obeys.refl s

theorem Mild.trans {s t u : State} (h : Mild s t) (k : Mild t u) : Mild s u where
  member := k.member.trans h.member
  pending := k.pending.trans h.pending
  recipes := k.recipes.trans h.recipes
  history := k.history.trans h.history
  counts := k.counts.trans h.counts
  length := k.length.trans h.length
  marked := k.marked ∘ h.marked
  buffer := k.buffer ∘ h.buffer
  queue := k.queue ∘ h.queue
  faults := k.faults ∘ h.faults
  loads := k.loads ∘ h.loads
  points := k.points ∘ h.points
  obeys := h.obeys.trans k.obeys

/-- The law of the points speaks of the points and the member alone. -/
theorem pointsLawful_of_eq {s t : State} (hp : t.points = s.points) (hm : t.member = s.member) (h : pointsLawful s) :
    pointsLawful t := by
  unfold pointsLawful pointFunction at *
  rw [hp, hm]
  exact h

theorem Steady.mild {s t : State} (h : Steady s t) : Mild s t where
  member := h.kept.member
  pending := h.kept.pending
  recipes := h.kept.recipes
  history := h.kept.history
  counts := h.kept.counts
  length := h.kept.length
  marked := h.kept.marked
  buffer := fun k => by rw [h.kept.buffer]; exact k
  queue := h.kept.queue
  faults := h.kept.faults
  loads := h.kept.loads
  points := pointsLawful_of_eq h.kept.points h.kept.member
  obeys := h.obeys

/-- The locked slots stay as they are while lockdown is in force and the bypass is clear, and lockdown stays in force (R39). -/
def locksHold (s t : State) : Prop :=
  (locksEnforced s = true → ∀ i, slotLocked s i = true → recipeAt t i = recipeAt s i) ∧
    (s.recipes.lockdown = true → t.recipes.lockdown = true)

theorem locksHold_of_eq {s t : State} (h : t.recipes = s.recipes) : locksHold s t := by
  refine ⟨fun _ i _ => ?_, fun k => ?_⟩
  · unfold recipeAt
    rw [h]
  · rw [h]
    exact k

/-- What every command keeps; `power` says that the command is POWER_ON, which writes the recipe table anew. -/
structure Lawful (power : Bool) (s t : State) : Prop where
  member : t.member = s.member
  pending : t.pending = s.pending
  bounded : trackBounded s → trackBounded t
  marked : rejectMarked s → rejectMarked t
  balance : rejectMarked s → unsaturated s → balanced s → balanced t
  history : historyBounded s → historyBounded t
  obeys : Obeys s t
  loads : loadsBounded s → loadsBounded t
  faults : faultsLawful s → faultsLawful t
  recipes : recipesLawful s → recipesLawful t
  points : pointsLawful s → pointsLawful t
  link : linkBounded s → linkBounded t
  locks : power = false → locksHold s t

theorem recipesLawful_of_eq {s t : State} (h : t.recipes = s.recipes) (k : recipesLawful s) : recipesLawful t := by
  unfold recipesLawful recipeAt at *
  rw [h]
  exact k

/-- The balance speaks of the open record's counts, the history and the number of records alone. -/
theorem balanced_of_eq {s t : State} (hc : loafCounts t.shift.openRecord = loafCounts s.shift.openRecord)
    (hh : t.shift.history = s.shift.history) (hl : t.track.loaves.length = s.track.loaves.length) (h : balanced s) : balanced t := by
  unfold balanced
  rw [hc, hh, hl]
  exact h

theorem unsaturated_of_eq {s t : State} (hc : loafCounts t.shift.openRecord = loafCounts s.shift.openRecord)
    (hl : t.track.loaves.length = s.track.loaves.length) (h : unsaturated s) : unsaturated t := by
  unfold loafCounts at hc
  injection hc with h1 h2 h3 h4 h5
  unfold unsaturated
  rw [h2, h3, h4, h5, hl]
  exact h

theorem Mild.lawful {s t : State} (h : Mild s t) : Lawful false s t where
  member := h.member
  pending := h.pending
  bounded := fun k => by unfold trackBounded; rw [h.length]; exact k
  marked := h.marked
  balance := fun _ _ => balanced_of_eq h.counts h.history h.length
  history := fun k => by unfold historyBounded; rw [h.history]; exact k
  obeys := h.obeys
  loads := h.loads
  faults := h.faults
  recipes := recipesLawful_of_eq h.recipes
  points := h.points
  link := fun k => ⟨h.queue k.1, h.buffer k.2⟩
  locks := fun _ => locksHold_of_eq h.recipes

theorem Lawful.mild {p : Bool} {s t u : State} (h : Lawful p s t) (k : Mild t u) : Lawful p s u where
  member := k.member.trans h.member
  pending := k.pending.trans h.pending
  bounded := k.lawful.bounded ∘ h.bounded
  marked := k.marked ∘ h.marked
  balance := fun a b c => balanced_of_eq k.counts k.history k.length (h.balance a b c)
  history := k.lawful.history ∘ h.history
  obeys := h.obeys.trans k.obeys
  loads := k.loads ∘ h.loads
  faults := k.faults ∘ h.faults
  recipes := k.lawful.recipes ∘ h.recipes
  points := k.points ∘ h.points
  link := k.lawful.link ∘ h.link
  locks := fun hp => by
    obtain ⟨h1, h2⟩ := h.locks hp
    refine ⟨fun e i l => ?_, fun l => ?_⟩
    · rw [← h1 e i l]
      unfold recipeAt
      rw [k.recipes]
    · rw [k.recipes]
      exact h2 l

theorem Mild.thenLawful {p : Bool} {s t u : State} (h : Mild s t) (k : Lawful p t u) : Lawful p s u where
  member := k.member.trans h.member
  pending := k.pending.trans h.pending
  bounded := k.bounded ∘ h.lawful.bounded
  marked := k.marked ∘ h.marked
  balance := fun a b c => k.balance (h.marked a) (unsaturated_of_eq h.counts h.length b) (balanced_of_eq h.counts h.history h.length c)
  history := k.history ∘ h.lawful.history
  obeys := h.obeys.trans k.obeys
  loads := k.loads ∘ h.loads
  faults := k.faults ∘ h.faults
  recipes := k.recipes ∘ h.lawful.recipes
  points := k.points ∘ h.points
  link := k.link ∘ h.lawful.link
  locks := fun hp => by
    obtain ⟨h1, h2⟩ := k.locks hp
    have he : ∀ i, recipeAt t i = recipeAt s i := fun i => by unfold recipeAt; rw [h.recipes]
    refine ⟨fun e i l => ?_, fun l => h2 (by rw [h.recipes]; exact l)⟩
    rw [h1 (by unfold locksEnforced at e ⊢; rw [h.recipes]; exact e) i (by unfold slotLocked at l ⊢; rw [he]; exact l), he]

theorem Lawful.steady {p : Bool} {s t u : State} (h : Lawful p s t) (k : Steady t u) : Lawful p s u := h.mild k.mild

theorem Steady.thenLawful {p : Bool} {s t u : State} (h : Steady s t) (k : Lawful p t u) : Lawful p s u := h.mild.thenLawful k

theorem Steady.lawful {s t : State} (h : Steady s t) : Lawful false s t := h.mild.lawful

theorem Lawful.refl (s : State) : Lawful false s s := (Mild.refl s).lawful

/-! ## The link's operations -/

theorem begin_queue (l : Link) : l.begin.queue.Sublist l.queue := by
  unfold Link.begin
  repeat' split
  all_goals first
    | exact List.Sublist.refl _
    | exact List.erase_sublist

@[simp] theorem begin_buffer (l : Link) : l.begin.buffer = l.buffer := by
  unfold Link.begin
  repeat' split
  all_goals rfl

@[simp] theorem begin_enables (l : Link) : l.begin.enables = l.enables := by
  unfold Link.begin
  repeat' split
  all_goals rfl

/-- A change of the link that stores no character and queues no report. -/
theorem setLink_steady (l : Link) (s : State) (hb : l.buffer = s.link.buffer) (he : l.enables = s.link.enables)
    (hq : l.queue.Sublist s.link.queue) : Steady s (s.setLink l) :=
  Kept.steady { Kept.refl s with
    buffer := hb, enables := he, queue := fun h => Nat.le_trans hq.length_le h, edges := fun _ _ _ m => hq.mem m } ⟨rfl, rfl, rfl, rfl, rfl, rfl⟩

/-- A change of the link that lengthens no queue and keeps the buffer within its capacity. -/
theorem setLink_mild (l : Link) (s : State) (hb : s.link.buffer.length ≤ Config.bufferCapacity → l.buffer.length ≤ Config.bufferCapacity)
    (hq : l.queue.length ≤ s.link.queue.length) : Mild s (s.setLink l) :=
  { Mild.refl s with
    buffer := hb
    queue := fun h => Nat.le_trans hq h
    obeys := ⟨id, id, id, id⟩ }

/-- Queueing any report opens and removes no record. -/
theorem report_mild (r : Report) (s : State) : Mild s (report r s) := by
  unfold report
  split
  · exact { Mild.refl s with
      buffer := fun h => by
        show (s.link.push r).buffer.length ≤ _
        rw [push_buffer]
        exact h
      queue := push_queue r s.link
      obeys := ⟨id, id, id, id⟩ }
  · exact Mild.refl s

theorem transmit_steady (s : State) : Steady s (transmit s) :=
  setLink_steady _ s (begin_buffer _) (begin_enables _) (begin_queue _)

theorem finish_steady (s : State) : Steady s (finish s) := (evaluate_steady _ s).trans (transmit_steady _)

theorem answerLater_steady (c : Code) (s : State) : Steady s (s.setLink (answerLater c s.link)) := by
  unfold answerLater
  split <;> exact setLink_steady _ s rfl rfl (List.Sublist.refl _)

/-- A reply becomes owed. -/
theorem owe_steady (o : Owed) (s : State) : Steady s (transmit (s.setLink { s.link with owed := some o })) :=
  (setLink_steady { s.link with owed := some o } s rfl rfl (List.Sublist.refl _)).trans (transmit_steady _)

/-! ## Requests -/

/-- A service keeps the laws on a state. -/
def Sound (svc : Service) (s : State) : Prop := Lawful false s (svc s).1

theorem serve_lawful (svc : Service) (s : State) (h : Sound svc s) : Lawful false s (serve svc s) := by
  unfold serve
  split
  · exact Lawful.steady h (owe_steady _ _)
  · exact (answerLater_steady .busy s).lawful

theorem refuse_sound (c : Code) (s : State) : Sound (refuse c) s := Lawful.refl s

theorem withForm_sound {α : Type} (f : Form α) (k : α → Service) (s : State) (h : ∀ a, Sound (k a) s) : Sound (withForm f k) s := by
  unfold withForm
  split
  · exact refuse_sound _ s
  · exact h _

theorem require_sound (ok : State → Bool) (c : Code) (k : Service) (s : State) (h : ok s = true → Sound k s) : Sound (require ok c k) s := by
  unfold Sound require
  split
  · rename_i ho
    exact h ho
  · exact refuse_sound _ s

theorem needTier_sound (t : Tier) (k : Service) (s : State) (h : Sound k s) : Sound (needTier t k) s :=
  require_sound _ _ _ s fun _ => h

end Sys2Proof.Laws
end

