-- ==== Sys2Proof/Laws/Notices.lean ====
section
/-! SUPPORT. The operations that move nothing but the warning flags and the link: a report, a warning, the end of an event, a reply. -/

namespace Sys2Proof.Safety

open Sys2Proof.Machine

theorem Noticed.refl (s : State) : Noticed s s := ⟨rfl, rfl, rfl, rfl⟩

theorem Noticed.trans {s t u : State} (h : Noticed s t) (k : Noticed t u) : Noticed s u where
  rest := by
    rw [k.rest]
    conv => lhs; rw [h.rest]
  buffer := k.buffer.trans h.buffer
  enables := k.enables.trans h.enables
  answer := k.answer.trans h.answer

/-! What a notice leaves alone, field by field. -/

theorem Noticed.track {u t : State} (h : Noticed u t) : t.track = u.track := by rw [h.rest]
theorem Noticed.recipes {u t : State} (h : Noticed u t) : t.recipes = u.recipes := by rw [h.rest]
theorem Noticed.head {u t : State} (h : Noticed u t) : t.head = u.head := by rw [h.rest]
theorem Noticed.stations {u t : State} (h : Noticed u t) : t.stations = u.stations := by rw [h.rest]
theorem Noticed.tyers {u t : State} (h : Noticed u t) : t.tyers = u.tyers := by rw [h.rest]
theorem Noticed.crumb {u t : State} (h : Noticed u t) : t.crumb = u.crumb := by rw [h.rest]
theorem Noticed.meas {u t : State} (h : Noticed u t) : t.meas = u.meas := by rw [h.rest]
theorem Noticed.shift {u t : State} (h : Noticed u t) : t.shift = u.shift := by rw [h.rest]
theorem Noticed.points {u t : State} (h : Noticed u t) : t.points = u.points := by rw [h.rest]
theorem Noticed.member {u t : State} (h : Noticed u t) : t.member = u.member := by rw [h.rest]
theorem Noticed.options {u t : State} (h : Noticed u t) : t.options = u.options := by rw [h.rest]
theorem Noticed.line {u t : State} (h : Noticed u t) : t.sup.line = u.sup.line := by rw [h.rest]
theorem Noticed.faults {u t : State} (h : Noticed u t) : t.sup.faults = u.sup.faults := by rw [h.rest]
theorem Noticed.firstFault {u t : State} (h : Noticed u t) : t.sup.firstFault = u.sup.firstFault := by rw [h.rest]

end Sys2Proof.Safety

namespace Sys2Proof.Laws

open Sys2Proof.Machine Sys2Proof.Safety

@[simp] theorem push_pendingAnswer (r : Report) (l : Link) : (l.push r).pendingAnswer = l.pendingAnswer := by
  unfold Link.push
  repeat' split
  all_goals rfl

@[simp] theorem begin_pendingAnswer (l : Link) : l.begin.pendingAnswer = l.pendingAnswer := by
  unfold Link.begin
  repeat' split
  all_goals rfl

theorem report_noticed (r : Report) (s : State) : Noticed s (report r s) := by
  unfold report
  split
  · exact ⟨rfl, push_buffer r s.link, push_enables r s.link, push_pendingAnswer r s.link⟩
  · exact Noticed.refl s

theorem warn_noticed (w : WarnKind) (p : Bool) (s : State) : Noticed s (warn w p s) := by
  unfold warn
  simp only
  split
  · exact Noticed.refl s
  · refine Noticed.trans ?_ (report_noticed _ _)
    exact ⟨rfl, rfl, rfl, rfl⟩

theorem evaluate_noticed (w : WarnKind) (s : State) : Noticed s (evaluate w s) := warn_noticed w _ s

theorem transmit_noticed (s : State) : Noticed s (transmit s) :=
  ⟨rfl, begin_buffer s.link, begin_enables s.link, begin_pendingAnswer s.link⟩

theorem finish_noticed (s : State) : Noticed s (finish s) := (evaluate_noticed _ s).trans (transmit_noticed _)

/-- A request that the link takes and its block accepts. -/
theorem serve_free (svc : Service) (s : State) (h : Free s) : serve svc s = answered (svc s).2 (svc s).1 := by
  unfold serve linkFree
  rw [if_pos (by rw [h.1, h.2]; rfl)]
  rfl

/-- The next check of a request, passed. -/
theorem require_pass {ok : State → Bool} {c : Code} {k : Service} {s : State} (h : ok s = true) : require ok c k s = k s := by
  unfold require
  rw [if_pos h]

/-- The next check of a request, failed. -/
theorem require_fail {ok : State → Bool} {c : Code} {k : Service} {s : State} (h : ok s = false) : require ok c k s = refuse c s := by
  unfold require
  rw [if_neg (by rw [h]; exact Bool.false_ne_true)]

theorem needTier_pass {l : Tier} {k : Service} {s : State} (h : tierOk s l = true) : needTier l k s = k s := require_pass h

/-- Every caller is at or above OPERATOR (R33). -/
theorem operator_ok (s : State) : tierOk s .operator = true := by
  unfold tierOk
  exact decide_eq_true (Nat.zero_le _)

end Sys2Proof.Laws
end

