-- ==== Sys2Proof/Laws/Faults.lean ====
section
/-! SUPPORT. What the action of a fault leaves alone, and what a raised fault leaves behind: its entry, the line state, the records but for
their marks. -/

namespace Sys2Proof.Laws

open Sys2Proof.Machine Sys2Proof.Safety

/-- A record but for its mark. -/
def unmarked (r : Loaf) : Loaf := { r with mark := none }

/-- What a change of the line state leaves alone: the fault table, the first-fault record, the sequence, the belt count, and the records
but for their marks. -/
structure Calm (s t : State) : Prop where
  faults : t.sup.faults = s.sup.faults
  first : t.sup.firstFault = s.sup.firstFault
  cause : t.sup.resetCause = s.sup.resetCause
  nextTag : t.track.nextTag = s.track.nextTag
  belt : t.track.beltCount = s.track.beltCount
  loaves : t.track.loaves.map unmarked = s.track.loaves.map unmarked

theorem Calm.refl (s : State) : Calm s s := ⟨rfl, rfl, rfl, rfl, rfl, rfl⟩

theorem Calm.trans {s t u : State} (h : Calm s t) (k : Calm t u) : Calm s u where
  faults := k.faults.trans h.faults
  first := k.first.trans h.first
  cause := k.cause.trans h.cause
  nextTag := k.nextTag.trans h.nextTag
  belt := k.belt.trans h.belt
  loaves := k.loaves.trans h.loaves

/-- An operation that leaves supervision and the track alone. -/
theorem calm_of_eq {s t : State} (hs : t.sup = s.sup) (ht : t.track = s.track) : Calm s t := by
  constructor <;> simp only [hs, ht]

theorem Noticed.calm {s t : State} (h : Noticed s t) : Calm s t := by
  constructor
  · exact h.faults
  · exact h.firstFault
  · rw [h.rest]
  · rw [h.track]
  · rw [h.track]
  · rw [h.track]

theorem report_calm (r : Report) (s : State) : Calm s (report r s) := Noticed.calm (report_noticed r s)

theorem evaluate_calm (w : WarnKind) (s : State) : Calm s (evaluate w s) := Noticed.calm (evaluate_noticed w s)

theorem finish_calm (s : State) : Calm s (finish s) := Noticed.calm (finish_noticed s)

theorem modifyFirst_unmarked (p : Loaf → Bool) (m : Mark) (ls : List Loaf) :
    (modifyFirst p (Loaf.withMark m) ls).map unmarked = ls.map unmarked := by
  induction ls with
  | nil => rfl
  | cons r rs ih =>
    unfold modifyFirst
    split
    · rfl
    · simp [ih]

theorem mark_calm (tag : Nat) (m : Mark) (s : State) : Calm s (modifyLoaf tag (Loaf.withMark m) s) :=
  ⟨rfl, rfl, rfl, rfl, rfl, modifyFirst_unmarked _ m _⟩

theorem knifeTo_calm (on : Bool) (s : State) : Calm s (knifeTo on s) := by
  obtain ⟨_, hs, ht, _, _⟩ := knifeTo_spec on s
  exact calm_of_eq hs ht

theorem setLine_calm (l : LineState) (s : State) : Calm s (setLine l s) :=
  Calm.trans (t := s.setSup { s.sup with line := l }) ⟨rfl, rfl, rfl, rfl, rfl, rfl⟩ (report_calm _ _)

theorem interruptLoaf_calm (s : State) : Calm s (interruptLoaf s) := by
  unfold interruptLoaf
  simp only
  split
  · exact calm_of_eq rfl rfl
  · exact (mark_calm _ .interrupted s).trans (calm_of_eq rfl rfl)

theorem headHalts_calm (s : State) : Calm s (headHalts s) := by
  unfold headHalts
  simp only
  split
  all_goals first
    | exact knifeTo_calm false s
    | exact (knifeTo_calm false s).trans (interruptLoaf_calm _)
    | exact (knifeTo_calm false s).trans (calm_of_eq rfl rfl)

theorem headStops_calm (s : State) : Calm s (headStops s) := by
  unfold headStops
  simp only
  split
  all_goals first
    | exact knifeTo_calm false s
    | exact (knifeTo_calm false s).trans (calm_of_eq rfl rfl)

theorem stationStops_calm (x : Station) (s : State) : Calm s (stationStops x s) := by
  unfold stationStops
  simp only
  split <;> exact calm_of_eq rfl rfl

theorem stationHalts_calm (x : Station) (s : State) : Calm s (stationHalts x s) := by
  unfold stationHalts
  simp only
  split <;> exact calm_of_eq rfl rfl

theorem abortSweep_calm (s : State) : Calm s (abortSweep s) := by
  unfold abortSweep
  split
  · exact Calm.refl s
  · refine Calm.trans ?_ (report_calm _ _)
    exact calm_of_eq rfl rfl

theorem trySweep_calm (s : State) : Calm s (trySweep s) := by
  unfold trySweep
  split
  · exact calm_of_eq rfl rfl
  · exact Calm.refl s

theorem assertHold_calm (s : State) : Calm s (assertHold s) := ⟨rfl, rfl, rfl, rfl, rfl, rfl⟩

theorem releaseHold_calm (s : State) : Calm s (releaseHold s) := ⟨rfl, rfl, rfl, rfl, rfl, rfl⟩

theorem enterHalted_calm (s : State) : Calm s (enterHalted s) := by
  unfold enterHalted
  refine Calm.trans ?_ (assertHold_calm _)
  refine Calm.trans ?_ (abortSweep_calm _)
  refine Calm.trans ?_ (stationHalts_calm .b _)
  refine Calm.trans ?_ (stationHalts_calm .a _)
  refine Calm.trans ?_ (headHalts_calm _)
  exact (setLine_calm _ s).trans (calm_of_eq rfl rfl)

theorem enterStopped_calm (now : Bool) (s : State) : Calm s (enterStopped now s) := by
  unfold enterStopped
  simp only
  refine Calm.trans ?_ (assertHold_calm _)
  have h := (setLine_calm .stopped s).trans ((headStops_calm _).trans ((stationStops_calm .a _).trans (stationStops_calm .b _)))
  split
  · exact h.trans (abortSweep_calm _)
  · exact h

theorem trackEmpty_calm (s : State) : Calm s (trackEmpty s) := by
  unfold trackEmpty
  split
  · exact enterStopped_calm false s
  · exact Calm.refl s

theorem enterDraining_calm (s : State) : Calm s (enterDraining s) := by
  unfold enterDraining
  refine Calm.trans ?_ (trackEmpty_calm _)
  refine Calm.trans ?_ (trySweep_calm _)
  exact (setLine_calm _ s).trans (assertHold_calm _)

theorem applyToLine_calm (a : Action) (s : State) : Calm s (applyToLine a s) := by
  unfold applyToLine
  repeat' split
  all_goals first
    | exact Calm.refl s
    | exact enterHalted_calm s
    | exact enterDraining_calm s

/-- Where BELT_STALL is not ACTIVE nothing is settled (R144). -/
theorem settleBelt_idle (s : State) (h : (faultEntry s .beltStall).state ≠ .active) : settleBelt s = s := by
  unfold settleBelt
  rw [if_neg (by simp [h])]

/-! ## The entry of a raised fault -/

theorem report_faults (r : Report) (s : State) (k : FaultKind) : faultEntry (report r s) k = faultEntry s k := by
  unfold faultEntry
  rw [(report_calm r s).faults]

theorem recordFirst_faults (j : FaultKind) (loaf : Option Nat) (s : State) (k : FaultKind) :
    faultEntry (recordFirst j loaf s) k = faultEntry s k := by
  unfold recordFirst
  split <;> rfl

/-- The entry that an occurrence leaves (R143). -/
theorem faultOccurs_entry (k : FaultKind) (st : FaultState) (loaf : Option Nat) (s : State) :
    faultEntry (faultOccurs k st loaf s) k = { faultEntry s k with
      state := st, count := min ((faultEntry s k).count + 1) 255, lastStamp := some (eventStamp s), lastLoaf := loaf } := by
  unfold faultOccurs
  simp only
  rw [report_faults, faultEntry_setFault, if_pos rfl]
  rfl

/-- An occurrence of one kind leaves the entries of the others. -/
theorem faultOccurs_other (k j : FaultKind) (st : FaultState) (loaf : Option Nat) (s : State) (h : k ≠ j) :
    faultEntry (faultOccurs k st loaf s) j = faultEntry s j := by
  unfold faultOccurs
  simp only
  rw [report_faults, faultEntry_setFault, if_neg (fun e => h (faultIndex_injective e)), recordFirst_faults]

theorem Calm.entry {s t : State} (h : Calm s t) (k : FaultKind) : faultEntry t k = faultEntry s k := by
  unfold faultEntry
  rw [h.faults]

theorem faultMoves_other (k j : FaultKind) (st : FaultState) (s : State) (h : k ≠ j) :
    faultEntry (faultMoves k st s) j = faultEntry s j := by
  show faultEntry (report _ (setFault k _ s)) j = _
  rw [report_faults, faultEntry_setFault, if_neg (fun e => h (faultIndex_injective e))]

/-- Settling the belt leaves every entry but BELT_STALL's. -/
theorem settleBelt_entry (s : State) (k : FaultKind) (h : k ≠ .beltStall) : faultEntry (settleBelt s) k = faultEntry s k := by
  unfold settleBelt
  simp only
  split
  · rw [(applyToLine_calm _ _).entry, faultMoves_other _ _ _ _ (Ne.symm h)]
  · rfl

theorem faultActs_entry (j k : FaultKind) (s : State) (h : k ≠ .beltStall) : faultEntry (faultActs j s) k = faultEntry s k := by
  show faultEntry (settleBelt (applyToLine _ s)) k = _
  rw [settleBelt_entry _ _ h, (applyToLine_calm _ s).entry]

/-- The entry of an event fault just raised (R145). -/
theorem raiseFault_entry (k : FaultKind) (loaf : Option Nat) (s : State) (h : k ≠ .beltStall) :
    faultEntry (raiseFault k loaf s) k = { faultEntry s k with
      state := .latched, count := min ((faultEntry s k).count + 1) 255, lastStamp := some (eventStamp s), lastLoaf := loaf } := by
  show faultEntry (faultActs k _) k = _
  rw [faultActs_entry k k _ h, faultOccurs_entry]

/-! ## The line state after a fault -/

theorem applyToLine_halted (a : Action) (s : State) (h : s.sup.line = .halted) : applyToLine a s = s := by
  unfold applyToLine
  cases a
  · rfl
  · simp [h]
  · simp [h]

theorem settleBelt_halted (s : State) (h : s.sup.line = .halted) : (settleBelt s).sup.line = .halted := by
  have hf : (faultMoves .beltStall .latched s).sup.line = .halted := by
    show (report _ (setFault .beltStall _ s)).sup.line = _
    rw [report_eq]
    exact h
  unfold settleBelt
  simp only
  split
  · rw [applyToLine_halted _ _ hf]
    exact hf
  · exact h

theorem faultOccurs_line (k : FaultKind) (st : FaultState) (loaf : Option Nat) (s : State) :
    (faultOccurs k st loaf s).sup.line = s.sup.line := by
  unfold faultOccurs
  simp only
  rw [(report_noticed _ _).line]
  unfold recordFirst
  split <;> rfl

/-- A fault whose action in force is HALT leaves the line HALTED (R146). -/
theorem raiseFault_halts (k : FaultKind) (loaf : Option Nat) (s : State) (h : (faultEntry s k).action = .halt) :
    (raiseFault k loaf s).sup.line = .halted := by
  show (settleBelt (applyToLine (faultEntry (faultOccurs k .latched loaf s) k).action (faultOccurs k .latched loaf s))).sup.line = _
  rw [faultOccurs_entry]
  refine settleBelt_halted _ ?_
  unfold applyToLine
  simp only [h]
  split
  · assumption
  · exact (enterHalted_spec _).2.1

end Sys2Proof.Laws
end

