-- ==== Sys2Proof/Laws/Requests.lean ====
section
/-! SUPPORT. Every request keeps the laws: one lemma per service, over the lemmas of the operations it calls. -/

namespace Sys2Proof.Laws

open Sys2Proof.Machine Sys2Proof.Safety

/-! ## Updates that a request makes on one block -/

/-- A limit taken, and the hold reviewed over it (R9). -/
theorem setLimit_mild (n : Nat) (s : State) : Mild s (reviewHold (s.setTrack { s.track with limit := n })) := by
  have k := reviewHold_steady (s.setTrack { s.track with limit := n })
  exact { k.mild with obeys := ⟨fun h => k.obeys.knife h, fun _ => reviewHold_holds _, fun h => k.obeys.watch h, fun h => k.obeys.drain h⟩ }

theorem setPoints_mild (v : Vector Point 24) (s : State) (hp : pointsLawful s → pointsLawful (s.setPoints v)) :
    Mild s (s.setPoints v) :=
  { Mild.refl s with
    points := hp
    obeys := ⟨id, id, id, id⟩ }

/-- A point with another's configuration, whose latch is set only where that point's was or where it is a plain input. -/
structure Alike (a b : Point) : Prop where
  mode : b.mode = a.mode
  pullUp : b.pullUp = a.pullUp
  edge : b.edge = a.edge
  report : b.report = a.report
  latch : b.latch = true → a.latch = true ∨ a.mode = .input

theorem pointsLawful_of_alike {s t : State} (hm : t.member = s.member) (ha : ∀ p : PointNo, Alike s.points[p] t.points[p])
    (h : pointsLawful s) : pointsLawful t := by
  have hf : ∀ p, pointFunction t p = pointFunction s p := fun p => by
    unfold pointFunction
    rw [(ha p).mode]
  obtain ⟨h1, h2, h3, h4⟩ := h
  refine ⟨fun p q g a b => h1 p q g (by rw [← hf]; exact a) (by rw [← hf]; exact b), fun p a => ?_, fun p a => ?_, fun k p g a => ?_⟩
  · rw [(ha p).pullUp]
    refine h2 p ?_
    rw [(ha p).mode, hf] at a
    exact a
  · rw [(ha p).mode] at a
    obtain ⟨e, r, l⟩ := h3 p a
    rw [(ha p).edge, (ha p).report]
    refine ⟨e, r, ?_⟩
    cases hl : t.points[p].latch with
    | false => rfl
    | true =>
      rcases (ha p).latch hl with b | b
      · rw [l] at b
        cases b
      · exact absurd b a
  · exact h4 (by rw [← hm]; exact k) p g (by rw [← hf]; exact a)

theorem Alike.refl (a : Point) : Alike a a := ⟨rfl, rfl, rfl, rfl, Or.inl⟩

/-- One point changes, its configuration staying. -/
theorem setPoint_mild (p : PointNo) (v : Point) (s : State) (h : Alike s.points[p] v) : Mild s (s.setPoints (s.points.set p v)) := by
  refine setPoints_mild _ s (pointsLawful_of_alike rfl fun q => ?_)
  simp only [State.setPoints_points, Fin.getElem_fin, Vector.getElem_set]
  split
  · rename_i hq
    obtain rfl : p = q := Fin.ext hq
    exact h
  · exact Alike.refl _

theorem setFresh_mild (n : Nat) (s : State) : Mild s (s.setFresh n) := { Mild.refl s with obeys := ⟨id, id, id, id⟩ }

/-- An update of the recipe table. -/
theorem setRecipes_lawful (v : Recipes) (s : State) (hr : recipesLawful s → recipesLawful (s.setRecipes v))
    (hl : locksHold s (s.setRecipes v)) : Lawful false s (s.setRecipes v) :=
  { Lawful.refl s with
    obeys := ⟨id, id, id, id⟩
    recipes := hr
    locks := fun _ => hl }

/-! ## The track -/

theorem svcSetInfeed_sound (f : Form Nat) (s : State) : Sound (svcSetInfeed f) s :=
  withForm_sound _ _ _ fun n => needTier_sound _ _ _
    (setLimit_mild (clampTo 1 4 n) s).lawful

theorem svcSetGeometry_sound (f : Form Geometry) (s : State) : Sound (svcSetGeometry f) s :=
  withForm_sound _ _ _ fun g => require_sound _ _ _ _ fun _ => needTier_sound _ _ _ <|
    require_sound _ _ _ _ fun _ => require_sound _ _ _ _ fun _ => 
    ({ Mild.refl s with obeys := ⟨id, id, id, id⟩ : Mild s (s.setTrack { s.track with geometry := g }) }).lawful

theorem modifyFirst_find {p : Loaf → Bool} {f : Loaf → Loaf} {ls : List Loaf} {r : Loaf} (h : ls.find? p = some r) (hf : p (f r) = true) :
    (modifyFirst p f ls).find? p = some (f r) := by
  induction ls with
  | nil => cases h
  | cons a as ih =>
    rw [List.find?_cons] at h
    unfold modifyFirst
    split at h
    · rename_i hp
      obtain rfl := Option.some.inj h
      simp [hp, hf]
    · rename_i hp
      simp [hp, ih h]

/-- REJECT of a record waiting in TRANSFER: marked, it goes to REJECT (R19). -/
theorem divertMarked_steady (tag : Nat) (r : Loaf) (s : State) (h : findLoaf s tag = some r) (hz : r.zone = .transfer) :
    Steady s (divert tag (modifyLoaf tag (Loaf.withMark .operator) s)) := by
  refine (modifyLoaf_mark_steady tag .operator s).trans (moveLoaf_steady _ _ _ _ (fun o ho _ => ?_)
    (fun k => by cases k) fun _ k => by cases k)
  have ht : r.tag = tag := by simpa using List.find?_some h
  have h1 : (modifyFirst (fun r => decide (r.tag = tag)) (Loaf.withMark .operator) s.track.loaves).find?
      (fun r => decide (r.tag = tag)) = some (r.withMark .operator) := modifyFirst_find h (decide_eq_true (show (r.withMark .operator).tag = tag from ht))
  have h2 := find_narrow (q := fun r => decide (r.tag = tag) && decide (r.zone = .transfer)) h1
    (by
      rw [Bool.and_eq_true]
      exact ⟨decide_eq_true (show (r.withMark .operator).tag = tag from ht),
        decide_eq_true (show (r.withMark .operator).zone = .transfer from hz)⟩) (fun x hx => by simp only [Bool.and_eq_true] at hx; exact hx.1)
  have h3 : some o = some (r.withMark .operator) := ho.symm.trans h2
  obtain rfl := Option.some.inj h3
  exact withMark_isSome _ _

theorem svcReject_sound (f : Form Nat) (s : State) : Sound (svcReject f) s := by
  refine withForm_sound _ _ _ fun tag => require_sound _ _ _ _ fun _ => needTier_sound _ _ _ ?_
  unfold Sound
  simp only
  split
  · exact refuse_sound _ s
  · rename_i r hr
    have h := modifyLoaf_mark_steady tag .operator s
    split
    · exact h.lawful
    · exact (h.trans (Steady.ite (abandonLoaf_steady r _) (Steady.refl _))).lawful
    · rename_i hz
      exact ((divertMarked_steady tag r s hr hz).trans ((endStroke_steady _).trans (evaluate_steady _ _))).lawful
    all_goals exact refuse_sound _ s

/-! ## PURGE -/

theorem setHead_emptied (s : State) (h : moving s = false) : Steady s (s.setHead s.head.emptied) := by
  refine setHead_lawful _ s fun k => ?_
  unfold knifeLaw at k
  rw [h] at k ⊢
  exact k

theorem raiseCount_exact {c n : Nat} (h : c + n ≤ Config.countCap) : raiseCount c n = c + n := Nat.min_eq_left h

/-- Every record counted lost as the list becomes empty, at a PURGE or a warm reset (R21, R23). -/
theorem loseAll_lawful (s : State) (hm : moving s = false) :
    Lawful false s (countShift (fun r => { r with lost := raiseCount r.lost s.track.loaves.length }) (setLoaves [] s)) :=
  { Lawful.refl s with
    bounded := fun _ => Nat.zero_le _
    marked := fun _ r hr => by cases hr
    obeys := ⟨id, fun k => by
      have hn : s.sup.line ≠ .running := fun k => by
        unfold moving at hm
        simp [k] at hm
      exact k.trans ((holdOwed_still s hn).trans (holdOwed_still (countShift _ (setLoaves [] s)) hn).symm), id, fun _ hd => by
      have hd : s.sup.line = .draining := hd
      unfold moving at hm
      simp [hd] at hm⟩
    balance := fun _ hu hb => by
      have h := hb.1
      refine ⟨?_, hb.2⟩
      unfold balancedWith loafCounts at h ⊢
      show s.shift.openRecord.carriedIn + s.shift.openRecord.loavesIn = s.shift.openRecord.bagged +
        s.shift.openRecord.rejected.total + raiseCount s.shift.openRecord.lost s.track.loaves.length + 0
      rw [raiseCount_exact hu.2.2.1]
      simp only at h
      omega }

theorem svcPurge_sound (f : Form Unit) (s : State) : Sound (svcPurge f) s := by
  refine withForm_sound _ _ _ fun _ => needTier_sound _ _ _ (require_sound _ _ _ _ fun h => ?_)
  have hm : moving s = false := by
    simp only [Bool.or_eq_true, decide_eq_true_eq] at h
    unfold moving
    rcases h with h | h <;> rw [h] <;> rfl
  show Lawful false s (purgeTrack s)
  unfold purgeTrack
  simp only
  have h1 := (loseAll_lawful s hm).steady (setHead_emptied _ hm)
  have h2 := h1.steady ((stationAbandons_steady .a _).trans (stationAbandons_steady .b _))
  have h3 := h2.steady ((evaluate_steady .trackFull _).trans ((trackEmpty_steady _).trans (reviewHold_steady _)))
  exact (h3.steady (Steady.ite (Steady.refl _) (trySweep_steady _))).steady (evaluate_steady .noStation _)

theorem svcReadTrack_sound (f : Form Unit) (s : State) : Sound (svcReadTrack f) s :=
  withForm_sound _ _ _ fun _ => needTier_sound _ _ _ (Lawful.refl s)

/-! ## The recipe table -/

theorem recipeAt_setSlot (i j : Slot) (r : Option Recipe) (s : State) :
    recipeAt (setSlot i r s) j = if i = j then r else recipeAt s j := by
  unfold recipeAt setSlot
  simp only [State.setRecipes_recipes, Fin.getElem_fin, Vector.getElem_set, Fin.ext_iff]

/-- A slot written that is not a locked one under enforced locks, and that stays VALID where it is the run recipe. -/
theorem setSlot_lawful (i : Slot) (r : Option Recipe) (s : State) (hr : s.recipes.runRecipe = some i → r.isSome = true)
    (hl : locksEnforced s = true → slotLocked s i = true → r = recipeAt s i) : Lawful false s (setSlot i r s) := by
  refine setRecipes_lawful _ s (fun k => ⟨fun j hj => ?_, k.2⟩) ⟨fun e j l => ?_, id⟩
  · have hj : s.recipes.runRecipe = some j := hj
    rw [show recipeAt (s.setRecipes _) j = _ from recipeAt_setSlot i j r s]
    split
    · rename_i h
      exact hr (by rw [h]; exact hj)
    · exact k.1 j hj
  · rw [show recipeAt (s.setRecipes _) j = _ from recipeAt_setSlot i j r s]
    split
    · rename_i h
      rw [← h] at l ⊢
      exact hl e l
    · rfl

theorem needUnlockedOr_sound (i : Slot) (k : Service) (s : State)
    (h : (locksEnforced s = true → slotLocked s i = false) → Sound k s) : Sound (needUnlockedOr i k) s := by
  refine require_sound _ _ _ _ fun _ => require_sound _ _ _ _ fun hl => h fun e => ?_
  simpa [e] using hl

theorem svcWriteRecipe_sound (f : Form RecipeWrite) (s : State) : Sound (svcWriteRecipe f) s :=
  withForm_sound _ _ _ fun w => require_sound _ _ _ _ fun _ => needTier_sound _ _ _ <| needUnlockedOr_sound _ _ _ fun hl =>
    require_sound _ _ _ _ fun _ => setSlot_lawful _ _ s (fun _ => rfl) fun e l => by rw [hl e] at l; cases l

theorem svcErase_sound (f : Form Nat) (s : State) : Sound (svcErase f) s :=
  withForm_sound _ _ _ fun n => require_sound _ _ _ _ fun _ => needTier_sound _ _ _ <| require_sound _ _ _ _ fun _ =>
    needUnlockedOr_sound _ _ _ fun hl => require_sound _ _ _ _ fun hu => setSlot_lawful _ _ s
      (fun h => absurd h (by simpa using hu)) fun e l => by rw [hl e] at l; cases l

theorem svcReadRecipe_sound (f : Form Nat) (s : State) : Sound (svcReadRecipe f) s := by
  refine withForm_sound _ _ _ fun n => require_sound _ _ _ _ fun _ => needTier_sound _ _ _ ?_
  unfold Sound
  simp only
  split <;> exact Lawful.refl s

theorem svcRun_sound (f : Form Nat) (s : State) : Sound (svcRun f) s :=
  withForm_sound _ _ _ fun n => require_sound _ _ _ _ fun _ => needTier_sound _ _ _ <| require_sound _ _ _ _ fun hv =>
    require_sound _ _ _ _ fun _ => setRecipes_lawful _ s
      (fun k => ⟨fun j hj => by
        obtain rfl : slotOf n = j := Option.some.inj hj
        exact hv, k.2⟩) ⟨fun _ _ _ => rfl, id⟩

theorem setLock_lawful (i : Slot) (b : Bool) (s : State) (hb : b = true ∨ locksEnforced s = false) : Lawful false s (setLock i b s) := by
  refine ?_
  unfold setLock
  have hl : locksEnforced s = true → slotLocked s i = true →
      ((recipeAt s i).map fun r => { r with locked := b }) = recipeAt s i := by
    intro e l
    rcases hb with hb | hb
    · subst hb
      unfold slotLocked at l
      cases hr : recipeAt s i with
      | none => rfl
      | some r =>
        rw [hr] at l
        simp only [Option.any_some] at l
        simp [← l]
    · rw [hb] at e
      cases e
  refine setRecipes_lawful _ s (fun k => ⟨fun j hj => ?_, k.2⟩) ⟨fun e j l => ?_, id⟩
  · have hj : s.recipes.runRecipe = some j := hj
    rw [show recipeAt (s.setRecipes _) j = _ from recipeAt_setSlot i j _ s]
    split
    · rename_i h
      rw [Option.isSome_map, h]
      exact k.1 j hj
    · exact k.1 j hj
  · rw [show recipeAt (s.setRecipes _) j = _ from recipeAt_setSlot i j _ s]
    split
    · rename_i h
      rw [← h] at l ⊢
      exact hl e l
    · rfl

theorem svcLock_sound (f : Form Nat) (s : State) : Sound (svcLock f) s := by
  refine withForm_sound _ _ _ fun n => require_sound _ _ _ _ fun _ => needTier_sound _ _ _ <| require_sound _ _ _ _ fun _ => ?_
  have h := setLock_lawful (slotOf n) true s (Or.inl rfl)
  exact { h with
    obeys := ⟨id, id, id, id⟩
    recipes := fun k => by
      obtain ⟨h1, h2⟩ := h.recipes k
      refine ⟨h1, fun hf => ?_⟩
      have hf : ((setLock (slotOf n) true s).recipes.frozen || !(setLock (slotOf n) true s).recipes.bypass) = true := hf
      rcases (Bool.or_eq_true _ _).mp hf with hf | hf
      · exact h2 hf
      · simpa using hf
    locks := h.locks }

theorem svcUnlock_sound (f : Form Nat) (s : State) : Sound (svcUnlock f) s :=
  withForm_sound _ _ _ fun n => require_sound _ _ _ _ fun _ => needTier_sound _ _ _ <| require_sound _ _ _ _ fun _ =>
    require_sound _ _ _ _ fun h => setLock_lawful _ false s (Or.inr (by simpa using h))

theorem svcBypassOn_sound (f : Form Unit) (s : State) : Sound (svcBypassOn f) s :=
  withForm_sound _ _ _ fun _ => needTier_sound _ _ _ <| require_sound _ _ _ _ fun hf => setRecipes_lawful _ s
    (fun k => ⟨k.1, fun h => by
      have h : s.recipes.frozen = true := h
      rw [h] at hf
      cases hf⟩) ⟨fun _ _ _ => rfl, id⟩

theorem svcBypassOff_sound (f : Form Unit) (s : State) : Sound (svcBypassOff f) s :=
  withForm_sound _ _ _ fun _ => needTier_sound _ _ _ <| setRecipes_lawful _ s (fun k => ⟨k.1, fun _ => rfl⟩) ⟨fun _ _ _ => rfl, id⟩

theorem svcLockdown_sound (f : Form Unit) (s : State) : Sound (svcLockdown f) s :=
  withForm_sound _ _ _ fun _ => needTier_sound _ _ _ <| setRecipes_lawful _ s (fun k => k) ⟨fun _ _ _ => rfl, fun _ => rfl⟩

theorem svcReadAccess_sound (f : Form Unit) (s : State) : Sound (svcReadAccess f) s :=
  withForm_sound _ _ _ fun _ => needTier_sound _ _ _ (Lawful.refl s)

theorem svcTryPlan_sound (f : Form PlanTrial) (s : State) : Sound (svcTryPlan f) s := by
  refine withForm_sound _ _ _ fun n => require_sound _ _ _ _ fun _ => require_sound _ _ _ _ fun _ => needTier_sound _ _ _ ?_
  unfold Sound
  simp only
  split <;> exact Lawful.refl s

theorem svcReadSlicer_sound (f : Form Unit) (s : State) : Sound (svcReadSlicer f) s :=
  withForm_sound _ _ _ fun _ => needTier_sound _ _ _ (Lawful.refl s)

/-! ## Stations and tyers -/

theorem loadBags_steady (x : Station) (n : Nat) (s : State) : Steady s (loadBags x n s) := by
  unfold loadBags
  simp only
  refine Steady.trans ?_ (evaluate_steady _ _)
  refine Steady.trans ?_ (route_steady _)
  refine Steady.trans ?_ (Steady.ite (enterOpening_steady _ _) (Steady.refl _))
  exact (setStation_steady x _ s).trans (evaluate_steady _ _)

theorem svcLoadBags_sound (f : Form StationLoad) (s : State) : Sound (svcLoadBags f) s :=
  withForm_sound _ _ _ fun _ => require_sound _ _ _ _ fun _ => needTier_sound _ _ _ (loadBags_steady _ _ s).lawful

theorem svcSetDistribution_sound (f : Form (Option Policy)) (s : State) : Sound (svcSetDistribution f) s := by
  refine withForm_sound _ _ _ fun w => require_sound _ _ _ _ fun _ => ?_
  cases w with
  | none => exact refuse_sound _ s
  | some p =>
    exact needTier_sound _ _ _ ((setStations_steady _ s).trans ((route_steady _).trans (evaluate_steady _ _))).lawful

theorem setStationService_steady (x : Station) (cls : Nat) (flag : Bool) (s : State) : Steady s (setStationService x cls flag s) := by
  unfold setStationService
  simp only
  refine Steady.trans ?_ (evaluate_steady _ _)
  refine Steady.trans ?_ (route_steady _)
  have h := setStation_steady x { stationRec s x with bagClass := cls, inServiceFlag := flag } s
  split
  · exact h.trans (serviceLost_steady x _)
  · split
    · exact h.trans (serviceBack_steady x _)
    · exact h

theorem svcSetStation_sound (f : Form StationSetting) (s : State) : Sound (svcSetStation f) s :=
  withForm_sound _ _ _ fun _ => require_sound _ _ _ _ fun _ => require_sound _ _ _ _ fun _ => needTier_sound _ _ _
    (setStationService_steady _ _ _ s).lawful

theorem svcSetBagging_sound (f : Form BaggingTimes) (s : State) : Sound (svcSetBagging f) s :=
  withForm_sound _ _ _ fun _ => needTier_sound _ _ _ (setStations_steady _ s).lawful

theorem svcReadStations_sound (f : Form Unit) (s : State) : Sound (svcReadStations f) s :=
  withForm_sound _ _ _ fun _ => needTier_sound _ _ _ (Lawful.refl s)

theorem loadClips_steady (x : Station) (n : Nat) (s : State) : Steady s (loadClips x n s) := by
  unfold loadClips
  refine Steady.trans ?_ (evaluate_steady _ _)
  refine Steady.trans ?_ (evaluate_steady _ _)
  refine Steady.trans ?_ (setCondition_steady _ _ _ rfl)
  exact setTyer_steady x _ s

theorem svcLoadClips_sound (f : Form StationLoad) (s : State) : Sound (svcLoadClips f) s :=
  withForm_sound _ _ _ fun _ => require_sound _ _ _ _ fun _ => require_sound _ _ _ _ fun _ => needTier_sound _ _ _
    (loadClips_steady _ _ s).lawful

theorem svcSetTyer_sound (f : Form TyerWrite) (s : State) : Sound (svcSetTyer f) s := by
  refine withForm_sound _ _ _ fun w => require_sound _ _ _ _ fun _ => needTier_sound _ _ _ ?_
  unfold Sound
  simp only
  split
  · exact ((setTyer_steady _ _ s).trans (evaluate_steady _ _)).lawful
  · exact Lawful.refl s

theorem svcReadTyers_sound (f : Form Unit) (s : State) : Sound (svcReadTyers f) s :=
  withForm_sound _ _ _ fun _ => needTier_sound _ _ _ (Lawful.refl s)

/-! ## Crumb control -/

theorem cleanNow_steady (s : State) : Steady s (cleanNow s) := by
  unfold cleanNow
  refine Steady.trans ?_ (trySweep_steady _)
  exact setCrumb_steady _ s fun h => h

theorem svcCleanNow_sound (f : Form Unit) (s : State) : Sound (svcCleanNow f) s :=
  withForm_sound _ _ _ fun _ => needTier_sound _ _ _ <| require_sound _ _ _ _ fun _ => (cleanNow_steady s).lawful

theorem testBursting_loads (c : Crumb) : (testBursting c).bladeLoad = c.bladeLoad ∧ (testBursting c).trayLoad = c.trayLoad := by
  unfold testBursting
  repeat' split
  all_goals exact ⟨rfl, rfl⟩

theorem setCrumbSettings_steady (v : CrumbSettings) (s : State) : Steady s (setCrumbSettings v s) := by
  unfold setCrumbSettings
  simp only
  refine Steady.trans ?_ (evaluate_steady _ _)
  have h : Steady s (s.setCrumb (testBursting { s.crumb with settings := v })) := by
    refine setCrumb_steady _ s fun h => ?_
    rw [(testBursting_loads _).1, (testBursting_loads _).2]
    exact h
  split
  · exact h.trans (askSweep_steady _ _)
  · exact h

theorem svcSetCrumb_sound (f : Form CrumbSettings) (s : State) : Sound (svcSetCrumb f) s :=
  withForm_sound _ _ _ fun _ => needTier_sound _ _ _ (setCrumbSettings_steady _ s).lawful

theorem svcReadCrumb_sound (f : Form Unit) (s : State) : Sound (svcReadCrumb f) s :=
  withForm_sound _ _ _ fun _ => needTier_sound _ _ _ (Lawful.refl s)

/-! ## Measurement -/

theorem svcSetLimits_sound (f : Form LimitsWrite) (s : State) : Sound (svcSetLimits f) s :=
  withForm_sound _ _ _ fun _ => require_sound _ _ _ _ fun _ => require_sound _ _ _ _ fun _ => require_sound _ _ _ _ fun _ =>
    needTier_sound _ _ _ (setMeas_steady _ s).lawful

theorem svcSetSampling_sound (f : Form SamplingWrite) (s : State) : Sound (svcSetSampling f) s := by
  refine withForm_sound _ _ _ fun w => require_sound _ _ _ _ fun _ => require_sound _ _ _ _ fun _ =>
    require_sound _ _ _ _ fun _ => ?_
  cases w.mode with
  | none => exact refuse_sound _ s
  | some m => exact needTier_sound _ _ _ ((setMeas_steady _ s).trans (arbitrate_steady _)).lawful

theorem trendTakes_steady (c : Channel) (s : State) : Steady s (trendTakes c s) := Steady.ite (Steady.refl s) (setMeas_steady _ s)

theorem svcSetTrend_sound (f : Form TrendWrite) (s : State) : Sound (svcSetTrend f) s :=
  withForm_sound _ _ _ fun _ => require_sound _ _ _ _ fun _ => require_sound _ _ _ _ fun _ =>
    needTier_sound _ _ _ ((setMeas_steady _ s).trans (trendTakes_steady _ _)).lawful

theorem svcReadChannels_sound (f : Form Unit) (s : State) : Sound (svcReadChannels f) s :=
  withForm_sound _ _ _ fun _ => needTier_sound _ _ _ (Lawful.refl s)

/-! ## Supervision -/

theorem enterRunning_steady (s : State) (h : s.sup.line = .stopped) : Steady s (enterRunning s) := by
  unfold enterRunning
  refine Steady.trans ?_ (evaluate_steady _ _)
  refine Steady.trans ?_ (endStroke_steady _)
  refine Steady.trans ?_ (slicerFree_steady _)
  refine Steady.trans ?_ (stationRestarts_steady .b _)
  refine Steady.trans ?_ (stationRestarts_steady .a _)
  exact resume_steady s h

/-- A reply with the line state changes nothing. -/
theorem lineReply_sound (words : String) (f : State → State) {s : State} (h : Lawful false s (f s)) :
    Sound (fun u => lineReply words (f u)) s := h

theorem svcStart_sound (f : Form Unit) (s : State) : Sound (svcStart f) s := by
  refine withForm_sound _ _ _ fun _ => needTier_sound _ _ _ <| require_sound _ _ _ _ fun h => require_sound _ _ _ _ fun _ =>
    require_sound _ _ _ _ fun _ => require_sound _ _ _ _ fun _ => require_sound _ _ _ _ fun _ => require_sound _ _ _ _ fun _ => ?_
  exact lineReply_sound _ _ (enterRunning_steady s (by simpa using h)).lawful

/-- STOP DRAIN's effect. -/
theorem drain_steady (s : State) (h : s.sup.line = .running) : Steady s (evaluate .noStation (settleBelt (enterDraining s))) := by
  refine Steady.trans ?_ (evaluate_steady _ _)
  refine Steady.trans ?_ (settleBelt_steady _)
  refine enterDraining_steady s ?_
  unfold moving
  rw [h]
  rfl

theorem svcStopDrain_sound (f : Form Unit) (s : State) : Sound (svcStopDrain f) s := by
  refine withForm_sound _ _ _ fun _ => needTier_sound _ _ _ <| require_sound _ _ _ _ fun h => ?_
  exact lineReply_sound _ _ (drain_steady s (by simpa using h)).lawful

/-- STOP NOW's effect. -/
theorem stopNow_steady (s : State) : Steady s (evaluate .noStation (settleBelt (enterStopped true s))) := by
  refine Steady.trans ?_ (evaluate_steady _ _)
  refine Steady.trans ?_ (settleBelt_steady _)
  exact (enterStopped_spec true s).1

theorem svcStopNow_sound (f : Form Unit) (s : State) : Sound (svcStopNow f) s := by
  refine withForm_sound _ _ _ fun _ => needTier_sound _ _ _ <| require_sound _ _ _ _ fun _ => ?_
  exact lineReply_sound _ _ (stopNow_steady s).lawful

theorem svcSetAction_sound (f : Form ActionWrite) (s : State) : Sound (svcSetAction f) s := by
  refine withForm_sound _ _ _ fun w => ?_
  cases w.fault with
  | none => exact refuse_sound _ s
  | some k =>
    refine require_sound _ _ _ _ fun _ => ?_
    cases w.action with
    | none => exact refuse_sound _ s
    | some a => exact require_sound _ _ _ _ fun _ => needTier_sound _ _ _ (setFault_steady k { faultEntry s k with action := a } s fun h => h k).lawful

theorem foldl_steady {α : Type} (f : State → α → State) (h : ∀ t a, Steady t (f t a)) (as : List α) (s : State) :
    Steady s (as.foldl f s) := by
  induction as generalizing s with
  | nil => exact Steady.refl s
  | cons a as ih => exact (h s a).trans (ih _)

theorem clearLatched_steady (s : State) : Steady s (clearLatched s) :=
  foldl_steady _ (fun t k => faultMoves_steady k .inactive t fun _ => by decide) _ s

theorem holdEnded_steady (before : State) (x : Station) (s : State) : Steady s (holdEnded before x s) :=
  Steady.ite (serviceBack_steady x s) (Steady.refl s)

/-- The line leaves HALTED for STOPPED (R148). -/
theorem leaveHalted_steady (s : State) (h : s.sup.line = .halted) : Steady s (leaveHalted s) := by
  unfold leaveHalted
  simp only
  refine Steady.trans ?_ (route_steady _)
  refine Steady.trans ?_ (tryDraw_steady .b _)
  refine Steady.trans ?_ (tryDraw_steady .a _)
  refine Steady.trans ?_ (trendTakes_steady _ _)
  obtain ⟨hh, ht, hs⟩ := setLine_spec .stopped s
  have hm : moving s = false := by unfold moving; rw [h]; rfl
  have hm' : moving (setLine .stopped s) = false := by unfold moving; rw [hs]; rfl
  refine ⟨setLine_kept _ s, ⟨fun k => ?_, fun k => ?_, fun k => ?_, fun _ hd => ?_⟩⟩
  · unfold knifeLaw at k ⊢
    rw [hm] at k
    rw [hm', hh]
    exact k
  · unfold holdLaw at k ⊢
    rw [ht, k, holdOwed_still s (by rw [h]; exact fun k => by cases k), holdOwed_still _ (by rw [hs]; exact fun k => by cases k)]
  · unfold watchLaw at k ⊢
    rw [ht, hs]
    exact k
  · rw [hs] at hd
    cases hd

/-- The entries cleared and the stations back in service. -/
theorem cleared_steady (s : State) : Steady s (holdEnded s .b (holdEnded s .a (clearLatched s))) := by
  refine Steady.trans ?_ (holdEnded_steady s .b _)
  exact (clearLatched_steady s).trans (holdEnded_steady s .a _)

/-- The line leaves HALTED where no HALT fault stands. -/
theorem unhalt_steady (s : State) : Steady s (if s.sup.line = .halted && !haltStands s then leaveHalted s else s) := by
  split
  · rename_i hl
    simp only [Bool.and_eq_true, decide_eq_true_eq] at hl
    exact leaveHalted_steady s hl.1
  · exact Steady.refl s

theorem clearFaults_steady (s : State) : Steady s (clearFaults s) := by
  unfold clearFaults
  have h := cleared_steady s
  simp only
  generalize holdEnded s .b (holdEnded s .a (clearLatched s)) = t at h ⊢
  refine Steady.trans ?_ (evaluate_steady _ _)
  refine Steady.trans ?_ (unhalt_steady _)
  exact h.trans (Steady.ite (trySweep_steady t) (Steady.refl t))

theorem svcClearFaults_sound (f : Form Unit) (s : State) : Sound (svcClearFaults f) s :=
  withForm_sound _ _ _ fun _ => needTier_sound _ _ _ (clearFaults_steady s).lawful

theorem setWarning_steady (w : WarnKind) (e : WarnEntry) (s : State) : Steady s (setWarning w e s) :=
  Kept.steady { Kept.refl s with } ⟨rfl, rfl, rfl, rfl, rfl, rfl⟩

theorem setMask_steady (n : AlertName) (m : Bool) (s : State) : Steady s (setMask n m s) := by
  unfold setMask
  split
  · exact setFault_steady _ _ s fun h => h _
  · exact setWarning_steady _ _ s

theorem svcSetMask_sound (f : Form MaskWrite) (s : State) : Sound (svcSetMask f) s := by
  refine withForm_sound _ _ _ fun w => ?_
  cases w.name with
  | none => exact refuse_sound _ s
  | some n => exact require_sound _ _ _ _ fun _ => require_sound _ _ _ _ fun _ => needTier_sound _ _ _ (setMask_steady _ _ s).lawful

theorem clearIndications_steady (s : State) : Steady s (clearIndications s) :=
  Kept.steady { Kept.refl s with } ⟨rfl, rfl, rfl, rfl, rfl, rfl⟩

theorem svcReadStatus_sound (f : Form Unit) (s : State) : Sound (svcReadStatus f) s :=
  withForm_sound _ _ _ fun _ => needTier_sound _ _ _ (clearIndications_steady s).lawful

theorem svcReadFaults_sound (f : Form Unit) (s : State) : Sound (svcReadFaults f) s :=
  withForm_sound _ _ _ fun _ => needTier_sound _ _ _ (Lawful.refl s)

theorem svcReset_sound (f : Form Unit) (s : State) : Sound (svcReset f) s :=
  withForm_sound _ _ _ fun _ => needTier_sound _ _ _ (Lawful.refl s)

/-! ## Shift closing -/

theorem report_link (r : Report) (s : State) : report r s = s.setLink (report r s).link := report_eq r s

/-- A close keeps the balance: what the closed record carried out, the new one carries in (R162, R165). -/
theorem closeShiftNow_lawful (cause : CloseCause) (e : Nat) (l : Byte) (d : Option Nat) (s : State) :
    Lawful false s (closeShiftNow cause e l d s) := by
  unfold closeShiftNow
  simp only
  refine Lawful.steady ?_ (report_steady _ _)
  exact { Lawful.refl s with
    obeys := ⟨id, id, id, id⟩
    history := fun _ => by
      unfold historyBounded
      exact List.length_take_le ..
    balance := fun _ _ hb => by
      refine ⟨?_, fun c hc => ?_⟩
      · show balancedWith (loafCounts (freshRecord e l d s.shift.clock s.shift.clockSet s.track.loaves.length)) s.track.loaves.length
        unfold balancedWith loafCounts freshRecord RejectCounts.total
        simp
      · rcases List.mem_cons.mp (List.mem_of_mem_take hc) with rfl | hc
        · exact hb.1
        · exact hb.2 c hc }

theorem setShift_mild (v : Shift) (s : State) (hh : v.history = s.shift.history)
    (hc : loafCounts v.openRecord = loafCounts s.shift.openRecord) : Mild s (s.setShift v) :=
  { Mild.refl s with
    history := hh
    counts := hc
    obeys := ⟨id, id, id, id⟩ }

theorem setClock_lawful (n : Nat) (s : State) : Lawful false s (setClock n s) := by
  unfold setClock
  simp only
  have h : Mild s (s.setShift { s.shift with clock := n, clockSet := true }) := setShift_mild _ s rfl rfl
  split
  · split
    · exact h.lawful
    · exact h.thenLawful (closeShiftNow_lawful _ _ _ _ _)
  · refine Mild.lawful (h.trans ?_)
    unfold relabelShift
    simp only
    exact (countShift_steady _ _ rfl).mild

theorem svcSetClock_sound (f : Form Moment) (s : State) : Sound (svcSetClock f) s :=
  withForm_sound _ _ _ fun _ => require_sound _ _ _ _ fun _ => needTier_sound _ _ _ (setClock_lawful _ s)

theorem svcReadClock_sound (f : Form Unit) (s : State) : Sound (svcReadClock f) s :=
  withForm_sound _ _ _ fun _ => needTier_sound _ _ _ (Lawful.refl s)

theorem setShifts_lawful (es : List ShiftEntry) (s : State) : Lawful false s (setShifts es s) :=
  (setShift_mild { s.shift with schedule := es } s rfl rfl).thenLawful (closeShiftNow_lawful _ _ _ _ _)

theorem svcSetShifts_sound (f : Form (List ShiftPair)) (s : State) : Sound (svcSetShifts f) s :=
  withForm_sound _ _ _ fun _ => require_sound _ _ _ _ fun _ => require_sound _ _ _ _ fun _ =>
    needTier_sound _ _ _ (setShifts_lawful _ s)

theorem svcCloseShift_sound (f : Form Unit) (s : State) : Sound (svcCloseShift f) s :=
  withForm_sound _ _ _ fun _ => needTier_sound _ _ _ (closeShiftNow_lawful _ _ _ _ s)

theorem svcReadTotals_sound (f : Form Unit) (s : State) : Sound (svcReadTotals f) s :=
  withForm_sound _ _ _ fun _ => needTier_sound _ _ _ (Lawful.refl s)

theorem svcReadHistory_sound (f : Form Nat) (s : State) : Sound (svcReadHistory f) s := by
  refine withForm_sound _ _ _ fun i => require_sound _ _ _ _ fun _ => ?_
  unfold Sound
  simp only
  split
  · exact refuse_sound _ s
  · exact needTier_sound _ _ s (Lawful.refl s)

/-! ## Points and the link -/

theorem functionsMoved_steady (before s : State) : Steady s (functionsMoved before s) := by
  unfold functionsMoved
  refine Steady.trans ?_ (evaluate_steady _ _)
  refine Steady.trans ?_ (tryDraw_steady .b _)
  refine Steady.trans ?_ (tryDraw_steady .a _)
  refine Steady.trans ?_ (Steady.ite (disarmStop_steady _) (Steady.refl _))
  exact (evaluate_steady _ s).trans ((reviewGuard_steady _).trans (reviewTray_steady _))

/-- SET POINT keeps the law of the points, past its checks (R170, R172). -/
theorem configurePoint_lawful (c : PointConfig) (s : State) (hf : functionFitted s c = true) (hn : heldElsewhere s c = false)
    (h : pointsLawful s) : pointsLawful (configurePoint c s) := by
  have own : pointFunction (configurePoint c s) c.point = functionOf c.point c.mode := by
    simp [pointFunction, configurePoint, PointConfig.taken]
  have others : ∀ q, q ≠ c.point → (configurePoint c s).points[q] = s.points[q] := fun q hq => by
    have hv : c.point.val ≠ q.val := fun k => hq (Fin.ext k.symm)
    simp [configurePoint, PointConfig.taken, hv]
  have foreign : ∀ q, q ≠ c.point → pointFunction (configurePoint c s) q = pointFunction s q := fun q hq => by
    unfold pointFunction
    rw [others q hq]
  have free : ∀ q g, q ≠ c.point → pointFunction s q = some g → functionOf c.point c.mode ≠ some g := fun q g hq hs hc => by
    unfold heldElsewhere at hn
    rw [hc] at hn
    simp only at hn
    cases hh : holder s g with
    | none =>
      unfold holder at hh
      rw [List.find?_eq_none] at hh
      exact hh q (List.mem_finRange q) (by simp [hs])
    | some r =>
      rw [hh] at hn
      simp at hn
      have hr : pointFunction s r = some g := by
        unfold holder at hh
        simpa using List.find?_some hh
      exact hq ((h.1 q r g hs hr).trans hn)
  obtain ⟨h1, h2, h3, h4⟩ := h
  refine ⟨fun p q g a b => ?_, fun p a => ?_, fun p a => ?_, fun k p g a => ?_⟩
  · by_cases hp : p = c.point <;> by_cases hq : q = c.point
    · rw [hp, hq]
    · rw [hp, own] at a
      rw [foreign q hq] at b
      exact absurd a (free q g hq b)
    · rw [hq, own] at b
      rw [foreign p hp] at a
      exact absurd b (free p g hp a)
    · rw [foreign p hp] at a
      rw [foreign q hq] at b
      exact h1 p q g a b
  · by_cases hp : p = c.point
    · subst hp
      rw [own] at a
      have hd : (decide (c.mode = .output) || (functionOf c.point c.mode).any fun f => !isInput f) = true := by
        rcases a with a | ⟨g, a, b⟩
        · have a : c.mode = .output := by simpa [configurePoint, PointConfig.taken] using a
          simp [a]
        · simp [a, b]
      simp only [configurePoint, PointConfig.taken, State.setPoints_points, Fin.getElem_fin, Vector.getElem_set_self]
      simp only [Bool.or_eq_true] at hd
      rcases hd with hd | hd <;> simp [hd]
    · rw [others p hp, foreign p hp] at *
      exact h2 p a
  · by_cases hp : p = c.point
    · subst hp
      have a : c.mode ≠ .input := by simpa [configurePoint, PointConfig.taken] using a
      simp [configurePoint, PointConfig.taken, a]
    · rw [others p hp] at *
      exact h3 p a
  · by_cases hp : p = c.point
    · subst hp
      rw [own] at a
      unfold functionFitted at hf
      rw [a] at hf
      have k : s.member = .bl320 := k
      simp only [k] at hf
      simpa [stationFitted] using hf
    · rw [foreign p hp] at a
      exact h4 k p g a

theorem clearLatches_mild (s : State) : Mild s (s.setPoints (s.points.map fun p => { p with latch := false })) := by
  refine setPoints_mild _ s (pointsLawful_of_alike rfl fun p => ?_)
  simp only [State.setPoints_points, Fin.getElem_fin, Vector.getElem_map]
  exact ⟨rfl, rfl, rfl, rfl, fun h => Bool.noConfusion h⟩

theorem svcTakeEdges_sound (f : Form Unit) (s : State) : Sound (svcTakeEdges f) s :=
  withForm_sound _ _ _ fun _ => needTier_sound _ _ _ (clearLatches_mild s).lawful

theorem svcWriteOut_sound (f : Form OutWrite) (s : State) : Sound (svcWriteOut f) s :=
  withForm_sound _ _ _ fun w => require_sound _ _ _ _ fun _ => needTier_sound _ _ _ <| require_sound _ _ _ _ fun _ =>
    (setPoint_mild (pointOf w.point) { s.points[pointOf w.point] with written := decide (w.level = 1) } s
      ⟨rfl, rfl, rfl, rfl, Or.inl⟩).lawful

theorem trendRead_mild (s : State) : Mild s (trendRead s) := by
  unfold trendRead
  split
  · exact setFresh_mild _ s
  · exact Mild.refl s

theorem svcReadPoints_sound (f : Form Unit) (s : State) : Sound (svcReadPoints f) s :=
  withForm_sound _ _ _ fun _ => needTier_sound _ _ _ (trendRead_mild s).lawful

theorem svcSetReports_sound (f : Form (List ReportKind)) (s : State) : Sound (svcSetReports f) s :=
  withForm_sound _ _ _ fun ks => require_sound _ _ _ _ fun _ => require_sound _ _ _ _ fun _ => needTier_sound _ _ _
    (setLink_mild { s.link with enables := enablesOf ks } s (fun h => h) (Nat.le_refl _)).lawful

theorem svcIdent_sound (f : Form Unit) (s : State) : Sound (svcIdent f) s :=
  withForm_sound _ _ _ fun _ => needTier_sound _ _ _ (Lawful.refl s)

theorem svcStop_sound (f : Form (Option StopMode)) (s : State) : Sound (svcStop f) s := by
  refine withForm_sound _ _ _ fun w => ?_
  rcases w with _ | _ | _
  · exact refuse_sound _ s
  · exact svcStopDrain_sound _ s
  · exact svcStopNow_sound _ s

end Sys2Proof.Laws
end

