-- ==== Sys2Proof/Laws/Events.lean ====
section
/-! SUPPORT. Every event keeps the laws: one lemma per handler, over the lemmas of the operations it calls. -/

namespace Sys2Proof.Laws

open Sys2Proof.Machine Sys2Proof.Safety

/-! ## Terminals -/

theorem setTerminal_mild (p : PointNo) (sig : Signal) (s : State) : Mild s (setTerminal p sig s) := by
  have h : Alike s.points[p] (s.points[p].setSignal sig s.fresh) := by
    cases sig <;> exact ⟨rfl, rfl, rfl, rfl, Or.inl⟩
  unfold setTerminal
  simp only
  split
  · exact (setPoint_mild p _ s h).trans (setFresh_mild _ _)
  · exact setPoint_mild p _ s h

theorem driveInput_mild (f : Func) (high : Bool) (s : State) : Mild s (driveInput f high s) := by
  unfold driveInput
  split
  · exact Mild.refl s
  · exact setTerminal_mild _ _ s

theorem inputEdge_lawful (f : Func) (high : Bool) (owner : State → State) (s : State) (h : ∀ t, Lawful false t (owner t)) :
    Lawful false s (inputEdge f high owner s) := by
  unfold inputEdge
  split
  · exact ((driveInput_mild f high s).thenLawful (h _)).steady (finish_steady _)
  · exact Lawful.refl s

/-! ## The track's eyes -/

/-- The loaf joins the list and is counted in (R4, R161). -/
theorem joined_balance (s : State) (f : ShiftRecord → ShiftRecord) (r : Loaf) (n : Nat)
    (hf : loafCounts (f s.shift.openRecord) =
      { loafCounts s.shift.openRecord with loavesIn := raiseCount s.shift.openRecord.loavesIn 1 })
    (hu : unsaturated s) (hb : balanced s) :
    balanced (countShift f (s.setTrack { s.track with loaves := s.track.loaves ++ [r], nextTag := n })) := by
  refine ⟨?_, hb.2⟩
  have h := hb.1
  show balancedWith (loafCounts (f s.shift.openRecord)) (s.track.loaves ++ [r]).length
  rw [hf, List.length_append, List.length_singleton]
  unfold balancedWith loafCounts at h ⊢
  simp only at h ⊢
  rw [raiseCount_exact (Nat.succ_le_of_lt hu.1)]
  omega

theorem openRecord_lawful (s : State) (h : s.track.loaves.length < Config.trackCapacity) : Lawful false s (openRecord s) := by
  unfold openRecord
  simp only
  refine Lawful.steady ?_ (evaluate_steady _ _)
  generalize hf : (fun v : ShiftRecord => { v with
        loavesIn := raiseCount v.loavesIn 1
        lines := countLine (newLoaf s).key (fun l => { l with loavesIn := raiseCount l.loavesIn 1 }) v.lines }) = f
  have hfc : loafCounts (f s.shift.openRecord) =
      { loafCounts s.shift.openRecord with loavesIn := raiseCount s.shift.openRecord.loavesIn 1 } := by
    rw [← hf]
    rfl
  have hw := reviewHold_holds (countShift f
    (s.setTrack { s.track with loaves := s.track.loaves ++ [newLoaf s], nextTag := tagAfter s.track.nextTag }))
  have hb := joined_balance s f (newLoaf s) (tagAfter s.track.nextTag) hfc
  have k := (reviewHold_steady (countShift f
    (s.setTrack { s.track with loaves := s.track.loaves ++ [newLoaf s], nextTag := tagAfter s.track.nextTag }))).mild
  have kl := k.lawful
  exact {
    member := k.member
    pending := k.pending
    bounded := fun _ => kl.bounded (by
      show (s.track.loaves ++ [newLoaf s]).length ≤ _
      rw [List.length_append, List.length_singleton]
      exact h)
    marked := fun hm => k.marked (by
      intro r hr hz
      have hr : r ∈ s.track.loaves ++ [newLoaf s] := hr
      rcases List.mem_append.mp hr with hr | hr
      · exact hm r hr hz
      · rw [List.mem_singleton] at hr
        subst hr
        cases hz)
    balance := fun _ hu hs => balanced_of_eq k.counts k.history k.length (hb hu hs)
    history := fun hh => kl.history hh
    obeys := ⟨fun hk => k.obeys.knife hk, fun _ => hw, fun hh => k.obeys.watch hh, fun _ => k.obeys.drain fun _ => by
      show s.track.loaves ++ [newLoaf s] ≠ []
      simp⟩
    loads := fun hl => k.loads hl
    faults := fun hl => k.faults hl
    recipes := fun hr => recipesLawful_of_eq k.recipes hr
    points := fun hr => k.points hr
    link := fun hl => kl.link hl
    locks := fun _ => locksHold_of_eq k.recipes }

theorem trackOverrun_steady (s : State) : Steady s (trackOverrun s) :=
  (countShift_steady (fun v => { v with unrecorded := raiseCount v.unrecorded 1 }) s rfl).trans (raiseFault_steady _ _ _)

theorem infeedLeading_lawful (s : State) : Lawful false s (infeedLeading s) := by
  unfold infeedLeading
  split
  · split
    · rename_i h
      exact openRecord_lawful s h
    · exact (trackOverrun_steady s).lawful
  · exact Lawful.refl s

theorem measure_zone (r : Loaf) (b : Belt) (g : Geometry) : (r.measure b g).zone = r.zone := by
  unfold Loaf.measure
  simp only
  repeat' split
  all_goals rfl

theorem measure_mark (r : Loaf) (b : Belt) (g : Geometry) (h : r.mark.isSome) : (r.measure b g).mark = r.mark := by
  unfold Loaf.measure
  simp only
  split
  · rename_i hm
    rw [hm] at h
    cases h
  · rfl

/-- The length of a record is written: its zone stays, and a mark it carries stands. -/
theorem lengthFixed_steady (r : Loaf) (c : Option DistanceCheck) (b : Belt) (g : Geometry) (s : State) :
    Steady s (modifyLoaf r.tag (fun l => { l.measure b g with check := c }) s) := by
  refine modifyLoaf_steady _ _ s (fun l h hz => ?_) fun l => measure_zone l _ _
  have hz : (l.measure b g).zone = .reject := hz
  rw [measure_zone] at hz
  show (l.measure b g).mark.isSome
  rw [measure_mark _ _ _ (h hz)]
  exact h hz

theorem fixLength_steady (r : Loaf) (s : State) : Steady s (fixLength r s) :=
  Steady.ite ((lengthFixed_steady r _ _ _ s).trans (testAdmission_steady _)) (lengthFixed_steady r _ _ _ s)

theorem infeedTrailing_steady (s : State) : Steady s (infeedTrailing s) := by
  unfold infeedTrailing
  split
  · exact Steady.refl s
  · exact Steady.ite (fixLength_steady _ s) (Steady.refl s)

theorem stopLeading_steady (s : State) : Steady s (stopLeading s) := (disarmStop_steady s).trans (testAdmission_steady _)

theorem endEyeLeading_steady (eye : EndEye) (s : State) : Steady s (endEyeLeading eye s) := warn_steady _ _ s

/-! ## Removals -/

theorem removed_length {s : State} {r : Loaf} (h : r ∈ s.track.loaves) :
    (removeLoaf r.tag s).track.loaves.length + 1 = s.track.loaves.length := by
  show (s.track.loaves.eraseP _).length + 1 = _
  rw [List.length_eraseP_of_mem h (by simp)]
  have := List.length_pos_of_mem h
  omega

/-- A loaf leaves the list as it is counted done or rejected, and what follows at the event ends a DRAINING that it has emptied and reviews
the hold. -/
theorem removed_lawful (s u : State) (r : Loaf) (h : r ∈ s.track.loaves) (f : ShiftRecord → ShiftRecord)
    (hb : rejectMarked s → unsaturated s → balancedWith (loafCounts s.shift.openRecord) s.track.loaves.length →
      balancedWith (loafCounts (f s.shift.openRecord)) (s.track.loaves.length - 1))
    (k : Mild (countShift f (removeLoaf r.tag s)) u) (hd : drainLaw u) (hh : holdLaw u) : Lawful false s u := by
  have hl := removed_length h
  have kl := k.lawful
  exact {
    member := k.member
    pending := k.pending
    recipes := fun c => recipesLawful_of_eq k.recipes c
    points := fun c => k.points c
    locks := fun _ => locksHold_of_eq k.recipes
    loads := fun c => k.loads c
    faults := fun c => k.faults c
    link := fun c => kl.link c
    history := fun c => kl.history c
    bounded := fun c => kl.bounded (by
      unfold trackBounded at c ⊢
      show (removeLoaf r.tag s).track.loaves.length ≤ _
      omega)
    marked := fun c => k.marked fun o ho hz => c o (List.mem_of_mem_eraseP ho) hz
    balance := fun hm hu c => balanced_of_eq k.counts k.history k.length (by
      refine ⟨?_, c.2⟩
      show balancedWith (loafCounts (f s.shift.openRecord)) (removeLoaf r.tag s).track.loaves.length
      rw [show (removeLoaf r.tag s).track.loaves.length = s.track.loaves.length - 1 by omega]
      exact hb hm hu c.1)
    obeys := ⟨fun c => k.obeys.knife c, fun _ => hh, fun c => k.obeys.watch c, fun _ => hd⟩ }

theorem oldestIn_mem {s : State} {z : Zone} {r : Loaf} (h : oldestIn s z = some r) : r ∈ s.track.loaves ∧ r.zone = z :=
  ⟨List.mem_of_find?_eq_some h, by simpa using List.find?_some h⟩

theorem loafBagged_lawful (r : Loaf) (s : State) (h : r ∈ s.track.loaves) : Lawful false s (loafBagged r s) := by
  unfold loafBagged
  refine removed_lawful s _ r h _ (fun _ hu hb => ?_)
    (((warn_steady _ _ _).trans (report_steady _ _)).trans (afterRemoval_steady _)).mild (afterRemoval_drains _) (afterRemoval_holds _)
  have := List.length_pos_of_mem h
  unfold balancedWith loafCounts at hb ⊢
  simp only at hb ⊢
  rw [raiseCount_exact (Nat.succ_le_of_lt hu.2.1)]
  omega

theorem exitTrailing_lawful (s : State) : Lawful false s (exitTrailing s) := by
  unfold exitTrailing
  split
  · exact (warn_steady _ _ s).lawful
  · rename_i r hr
    exact loafBagged_lawful r s (oldestIn_mem hr).1

theorem add_total (c : RejectCounts) (m : Mark) (h : c.total < Config.countCap) : (c.add m).total = c.total + 1 := by
  unfold RejectCounts.total at *
  cases m <;> unfold RejectCounts.add <;> simp only <;> rw [raiseCount_exact (by omega)] <;> omega

theorem loafRejected_lawful (r : Loaf) (s : State) (h : r ∈ s.track.loaves) (hz : r.zone = .reject) :
    Lawful false s (loafRejected r s) := by
  unfold loafRejected
  refine removed_lawful s _ r h _ (fun hm hu hb => ?_)
    (((warn_steady _ _ _).trans (report_steady _ _)).trans (afterRemoval_steady _)).mild (afterRemoval_drains _) (afterRemoval_holds _)
  have := List.length_pos_of_mem h
  obtain ⟨m, hm⟩ := Option.isSome_iff_exists.mp (hm r h hz)
  unfold balancedWith loafCounts at hb ⊢
  simp only [hm] at hb ⊢
  rw [add_total _ _ hu.2.2.2]
  omega

theorem rejectTrailing_lawful (s : State) : Lawful false s (rejectTrailing s) := by
  unfold rejectTrailing
  split
  · exact (warn_steady _ _ s).lawful
  · rename_i r hr
    exact (loafRejected_lawful r s (oldestIn_mem hr).1 (oldestIn_mem hr).2).steady (Steady.ite (route_steady _) (Steady.refl _))

/-! ## The belt -/

theorem beltMoves_steady (s : State) : Steady s (beltMoves s) := by
  unfold beltMoves
  split
  · exact Steady.refl s
  · rename_i hh
    refine Steady.trans ?_ (setCondition_steady _ _ _ rfl)
    exact ⟨{ Kept.refl s with }, ⟨id, id, fun _ _ => by simpa using hh, id⟩⟩

theorem beltStep_mild (forward : Bool) (s : State) : Mild s (beltStep forward s) := by
  unfold beltStep
  simp only
  refine Mild.trans ?_ (beltMoves_steady _).mild
  refine Mild.trans ?_ (setStations_steady _ _).mild
  have hl : (s.track.loaves.map (Loaf.step forward)).length = s.track.loaves.length := List.length_map ..
  have hi : holdOwed s = holdOwed (s.setTrack { s.track with
      beltCount := beltAfter forward s.track.beltCount, loaves := s.track.loaves.map (Loaf.step forward) }) := by
    unfold holdOwed
    simp only [State.setTrack_sup, State.setTrack_track, hl, List.filter_map, List.length_map]
    rfl
  exact { Mild.refl s with
    length := hl
    marked := fun k r hr hz => by
      obtain ⟨o, ho, rfl⟩ := List.mem_map.mp hr
      exact k o ho hz
    obeys := ⟨id, fun k => k.trans hi, id, fun k hd => by
      have := k hd
      show s.track.loaves.map _ ≠ []
      simpa using this⟩ }

theorem checkFault_event (k : CheckKind) : eventFault (checkFault k) = true := by cases k <;> rfl

theorem checkExpires_steady (kind : CheckKind) (tag : Nat) (s : State) : Steady s (checkExpires kind tag s) := by
  unfold checkExpires
  split
  · refine Steady.trans ?_ (finish_steady _)
    refine Steady.trans ?_ (raiseFault_steady _ _ _)
    exact modifyLoaf_steady _ _ s (fun r h => h) fun _ => rfl
  · exact Steady.refl s

theorem watchExpires_steady (s : State) : Steady s (watchExpires s) := by
  unfold watchExpires
  split
  · refine Steady.trans ?_ (finish_steady _)
    refine Steady.trans ?_ (setCondition_steady _ _ _ rfl)
    exact ⟨{ Kept.refl s with }, ⟨id, id, fun _ h => (by cases h), id⟩⟩
  · exact Steady.refl s

/-! ## The slicing head -/

theorem loadAfter_le (a b : Nat) : loadAfter a b ≤ Config.loadCap := Nat.min_le_right _ _

theorem crumbTakesCut_steady (c : Nat) (s : State) : Steady s (crumbTakesCut c s) := by
  unfold crumbTakesCut
  simp only
  refine Steady.trans ?_ (evaluate_steady _ _)
  have h : Steady s (s.setCrumb (testBursting
      { s.crumb with bladeLoad := loadAfter s.crumb.bladeLoad c, trayLoad := loadAfter s.crumb.trayLoad c })) := by
    refine setCrumb_steady _ s fun _ => ?_
    rw [(testBursting_loads _).1, (testBursting_loads _).2]
    exact ⟨loadAfter_le _ _, loadAfter_le _ _⟩
  split
  · exact h.trans (askSweep_steady _ _)
  · exact h

/-- The last cut of a plan ends a run of miscuts (R69). -/
theorem fullyCut_steady (b : Bool) (s : State) :
    Steady s (if b then warn .miscut false (s.setHead { s.head with miscuts := 0 }) else s) := by
  split
  · refine Steady.trans ?_ (warn_steady _ _ _)
    exact setHead_steady _ s rfl rfl
  · exact Steady.refl s

theorem countCut_steady (r : Loaf) (i : Nat) (s : State) (h : s.head.state = .advancing) : Steady s (countCut r i s) := by
  unfold countCut
  simp only
  refine Steady.trans ?_ (fullyCut_steady _ _)
  refine Steady.trans ?_ (countShift_steady _ _ rfl)
  refine Steady.trans ?_ (crumbTakesCut_steady _ _)
  refine Steady.trans ?_ (setHead_cutting _ _ rfl ?_ ?_)
  · exact modifyLoaf_steady _ _ s (fun l h => h) fun _ => rfl
  · show s.head.state ≠ .passing
    rw [h]
    exact fun k => by cases k
  · exact fun k => by cases k

/-- The count of the miscuts, and the fault of the third in a row (R69). -/
theorem missCounted_steady (tag : Option Nat) (s : State) :
    Steady s (if 3 ≤ s.head.miscuts then raiseFault .pusherFault tag (s.setHead { s.head with miscuts := 0 }) else s) := by
  split
  · exact (setHead_steady { s.head with miscuts := 0 } s rfl rfl).trans (raiseFault_steady _ _ _)
  · exact Steady.refl s

theorem missCut_steady (r : Loaf) (s : State) : Steady s (missCut r s) := by
  unfold missCut
  simp only
  refine Steady.trans ?_ (missCounted_steady _ _)
  refine Steady.trans ?_ (warn_steady _ _ _)
  refine Steady.trans ?_ (setHead_steady _ _ rfl rfl)
  exact (modifyLoaf_mark_steady _ _ s).trans (abandonLoaf_steady _ _)

theorem contextAtCut_steady (s : State) : Steady s (contextAtCut s) := by
  unfold contextAtCut
  split
  · rename_i h _ _
    exact Steady.ite (countCut_steady _ _ s h) (missCut_steady _ s)
  · exact Steady.refl s

theorem bladeCuts_steady (elapsed : Nat) (s : State) : Steady s (bladeCuts elapsed s) := by
  unfold bladeCuts
  simp only
  refine Steady.trans ?_ (phaseBegins_steady _)
  refine Steady.trans ?_ (Steady.ite (setMeas_steady _ _) (Steady.refl _))
  refine Steady.trans ?_ (setCrumb_steady _ _ fun h => h)
  exact setHead_steady _ s rfl rfl

theorem cutBegins_steady (elapsed : Nat) (s : State) : Steady s (cutBegins elapsed s) := by
  unfold cutBegins
  simp only
  have h : Steady s (s.setHead { s.head with phaseInput := true }) := setHead_steady _ s rfl rfl
  split
  · exact h.trans ((bladeCuts_steady _ _).trans ((contextAtCut_steady _).trans (finish_steady _)))
  · exact h

theorem airKnifePulse_steady (s : State) : Steady s (airKnifePulse s) := by
  unfold airKnifePulse
  split
  · refine Steady.trans ?_ (countShift_steady _ _ rfl)
    refine setCrumb_steady _ s fun h => ?_
    rw [(testBursting_loads _).1, (testBursting_loads _).2]
    exact ⟨Nat.le_trans (Nat.sub_le _ _) h.1, h.2⟩
  · exact Steady.refl s

theorem bladeReturns_steady (elapsed : Nat) (s : State) : Steady s (bladeReturns elapsed s) := by
  unfold bladeReturns
  split
  · exact Steady.refl s
  · refine Steady.trans ?_ (phaseBegins_steady _)
    refine Steady.trans ?_ (airKnifePulse_steady _)
    exact setHead_steady _ s rfl rfl
  · exact (airKnifePulse_steady s).trans (phaseBegins_steady _)

theorem advanceTo_steady (p : Plan) (i : Nat) (s : State) (h : s.head.state ≠ .passing) : Steady s (advanceTo p i s) := by
  unfold advanceTo
  split
  · exact setHead_cutting _ s rfl h fun k => by cases k
  · refine Steady.trans ?_ (endStroke_steady _)
    exact setHead_cutting _ s rfl h fun k => by cases k

theorem contextAtReturn_steady (s : State) : Steady s (contextAtReturn s) := by
  unfold contextAtReturn
  split
  · rename_i h _ _
    exact advanceTo_steady _ _ s (by rw [h]; exact fun k => by cases k)
  · rename_i h _ _
    exact advanceTo_steady _ _ s (by rw [h]; exact fun k => by cases k)
  · exact Steady.refl s

theorem returnBegins_steady (elapsed : Nat) (s : State) : Steady s (returnBegins elapsed s) := by
  unfold returnBegins
  simp only
  have h : Steady s (s.setHead { s.head with phaseInput := false }) := setHead_steady _ s rfl rfl
  split
  · exact h.trans ((bladeReturns_steady _ _).trans ((contextAtReturn_steady _).trans (finish_steady _)))
  · exact h

theorem pusherMoved_steady (wasHome : Bool) (s : State) : Steady s (pusherMoved wasHome s) := by
  unfold pusherMoved
  split
  · exact endStroke_steady s
  · exact endStroke_steady s
  · rename_i h
    split
    · refine Steady.trans ?_ (slicerFree_steady _)
      refine setHead_cutting _ s rfl ?_ fun k => by cases k
      rw [h]
      exact fun k => by cases k
    · exact Steady.refl s
  · exact Steady.ite (slicerFree_steady s) (Steady.refl s)
  · exact Steady.refl s

theorem pusherStep_steady (forward : Bool) (s : State) : Steady s (pusherStep forward s) := by
  unfold pusherStep
  refine Steady.trans ?_ (pusherMoved_steady _ _)
  exact setHead_steady _ s rfl rfl

theorem stallExpires_steady (s : State) : Steady s (stallExpires s) := by
  unfold stallExpires
  split
  · exact Steady.refl s
  · refine Steady.trans ?_ (finish_steady _)
    refine Steady.trans ?_ (raiseFault_steady _ _ _)
    exact setHead_steady _ s rfl rfl

/-! ## The stations -/

theorem bagCovered_steady (x : Station) (s : State) : Steady s (bagCovered x s) :=
  Steady.ite (stationReady_steady x s) (Steady.refl s)

theorem bagCleared_steady (x : Station) (s : State) : Steady s (bagCleared x s) := by
  unfold bagCleared
  split
  · exact Steady.refl s
  · split
    · exact releaseLoaf_steady x s
    · exact (wasteBag_steady x s).trans (enterOpening_steady x _)
    · exact Steady.refl s

theorem openTimeout_steady (x : Station) (s : State) : Steady s (openTimeout x s) := by
  unfold openTimeout
  split
  · exact Steady.refl s
  · simp only
    refine Steady.trans ?_ (finish_steady _)
    split
    · exact (wasteBag_steady x s).trans ((setStation_steady _ _ _).trans (drawBag_steady x 2 _))
    · exact (wasteBag_steady x s).trans ((raiseFault_steady _ _ _).trans (stationOut_steady x _))

theorem releaseTimeout_steady (x : Station) (s : State) : Steady s (releaseTimeout x s) := by
  unfold releaseTimeout
  split
  · exact Steady.refl s
  · refine Steady.trans ?_ (finish_steady _)
    refine Steady.trans ?_ (afterRelease_steady x _)
    exact (loafToOutfeed_steady x s).trans (raiseFault_steady _ _ _)

theorem travelExpires_steady (x : Station) (s : State) : Steady s (travelExpires x s) := by
  unfold travelExpires
  simp only
  exact Steady.ite (setStation_steady _ _ s) (Steady.refl s)

theorem scoopEnds_steady (x : Station) (s : State) : Steady s (scoopEnds x s) := by
  unfold scoopEnds
  split
  · exact Steady.refl s
  · exact (scoopComplete_steady x s).trans (finish_steady _)

theorem strikeMiddle_steady (x : Station) (s : State) : Steady s (strikeMiddle x s) := by
  unfold strikeMiddle
  split
  · exact Steady.refl s
  · exact Steady.ite ((setTyer_steady _ _ s).trans (askConversion_steady _ _)) (Steady.refl s)

theorem strikeEnds_steady (x : Station) (s : State) : Steady s (strikeEnds x s) := by
  unfold strikeEnds
  split
  · exact Steady.refl s
  · exact (endTying_steady x _ s).trans (finish_steady _)

/-! ## Measurement and the sweep -/

theorem boundMoves_steady (b : BoundLimit) (p : Bool) (s : State) : Steady s (boundMoves (boundDrives b) p s) := by
  unfold boundMoves
  cases b <;> first
    | exact warn_steady _ _ s
    | exact setCondition_steady _ _ s rfl

theorem takeBound_steady (value : Nat) (s : State) (b : BoundLimit) : Steady s (takeBound value s b) := by
  unfold takeBound
  simp only
  split
  · exact setMeas_steady _ s
  · exact (setMeas_steady _ s).trans (boundMoves_steady b _ _)

theorem takeBounds_steady (c : Channel) (value : Nat) (s : State) : Steady s (takeBounds c value s) :=
  foldl_steady _ (fun t b => takeBound_steady value t b) _ s

theorem judgeStrike_steady (x : Station) (c : Channel) (value : Nat) (s : State) : Steady s (judgeStrike x c value s) := by
  unfold judgeStrike
  split
  · exact Steady.refl s
  · exact setTyer_steady _ _ s

theorem setCrumb_sweep (w : Option Sweep) (s : State) : Steady s (s.setCrumb { s.crumb with sweep := w }) := setCrumb_steady _ s fun h => h

theorem watchPressure_steady (value : Nat) (s : State) : Steady s (watchPressure value s) := by
  unfold watchPressure
  split
  · exact Steady.refl s
  · exact Steady.ite (setCrumb_sweep _ s) (Steady.refl s)

/-- With no point for VACUUM no sample marks the pressure as reached (R117). -/
theorem watchPressure_unserved (value : Nat) (s : State) (h : isHeld s .vacuum = false) : watchPressure value s = s := by
  unfold watchPressure
  split
  · rfl
  · simp [h]

theorem judgeSweep_steady (s : State) : Steady s (judgeSweep s) := by
  unfold judgeSweep
  split
  · exact Steady.refl s
  · exact Steady.ite (setCrumb_sweep _ s) (endSweep_steady _ s)

theorem handToRequester_steady (c : Channel) (value : Nat) (req : Option ConvRequest) (s : State) :
    Steady s (handToRequester c value req s) := by
  unfold handToRequester
  split
  · exact judgeStrike_steady _ c value s
  · exact judgeSweep_steady s
  · exact Steady.refl s

/-- The sample is handed on, to the pressure watch, the requester and TREND. -/
theorem handed_steady (v : Conversion) (n : Nat) (s : State) :
    Steady s (handToRequester v.channel n v.request (if v.channel = 3 then watchPressure n s else s)) :=
  (Steady.ite (watchPressure_steady n s) (Steady.refl s)).trans (handToRequester_steady _ _ _ _)

theorem conversionDone_steady (value : Raw) (s : State) : Steady s (conversionDone value s) := by
  unfold conversionDone
  split
  · exact Steady.refl s
  · simp only
    refine Steady.trans ?_ (finish_steady _)
    refine Steady.trans ?_ (arbitrate_steady _)
    refine Steady.trans ?_ (Steady.ite (trendTakes_steady _ _) (Steady.refl _))
    refine Steady.trans ?_ (handed_steady _ _ _)
    refine Steady.trans ?_ (takeBounds_steady _ _ _)
    exact setMeas_steady _ s

theorem centreFallsDue_steady (s : State) : Steady s (centreFallsDue s) := by
  unfold centreFallsDue
  split
  · exact Steady.refl s
  · exact (setMeas_steady _ s).trans (arbitrate_steady _)

theorem edgeRunBegins_steady (s : State) : Steady s (edgeRunBegins s) := by
  unfold edgeRunBegins
  split
  · exact Steady.refl s
  · exact (setMeas_steady _ s).trans (arbitrate_steady _)

theorem idleScanBegins_steady (s : State) : Steady s (idleScanBegins s) :=
  Steady.ite ((setMeas_steady _ s).trans (arbitrate_steady _)) (Steady.refl s)

theorem riseExpires_steady (s : State) : Steady s (riseExpires s) := by
  unfold riseExpires
  split
  · exact Steady.refl s
  · split
    · exact (setCrumb_sweep _ s).trans (askConversion_steady _ _)
    · exact Steady.refl s

theorem sweepExpires_steady (s : State) : Steady s (sweepExpires s) := by
  unfold sweepExpires
  split
  · exact Steady.refl s
  · split
    · simp only
      refine Steady.trans ?_ (finish_steady _)
      split
      · exact (setCrumb_sweep _ s).trans (endSweep_steady _ _)
      · exact setCrumb_sweep _ s
    · exact Steady.refl s

theorem trendPeriod_steady (s : State) : Steady s (trendPeriod s) := setMeas_steady _ s

/-! ## The other inputs and the clock -/

theorem inputChanged_lawful (f : Func) (high : Bool) (s : State) : Lawful false s (inputChanged f high s) := by
  unfold inputChanged
  split
  · exact infeedLeading_lawful s
  · exact (infeedTrailing_steady s).lawful
  · exact (stopLeading_steady s).lawful
  · exact Lawful.refl s
  · exact (endEyeLeading_steady _ s).lawful
  · exact exitTrailing_lawful s
  · exact (endEyeLeading_steady _ s).lawful
  · exact rejectTrailing_lawful s
  · exact (bagCovered_steady _ s).lawful
  · exact (bagCleared_steady _ s).lawful
  · exact (evaluate_steady _ s).lawful
  · exact (reviewGuard_steady s).lawful
  · exact (reviewTray_steady s).lawful
  · exact Lawful.refl s

/-- What the owner of an input function leaves alone, whichever it is: the points, the count of free values, and the queue's #E. -/
structure Handed (s t : State) : Prop where
  points : t.points = s.points
  fresh : t.fresh = s.fresh
  edges : ∀ p rise high, Report.edge p rise high ∈ t.link.queue → Report.edge p rise high ∈ s.link.queue

theorem Steady.handed {s t : State} (h : Steady s t) : Handed s t := ⟨h.kept.points, h.kept.fresh, h.kept.edges⟩

theorem Handed.steady {s t u : State} (h : Handed s t) (k : Steady t u) : Handed s u :=
  ⟨k.kept.points.trans h.points, k.kept.fresh.trans h.fresh, fun p a b m => h.edges p a b (k.kept.edges p a b m)⟩

theorem openRecord_handed (s : State) : Handed s (openRecord s) := by
  unfold openRecord
  refine Handed.steady ?_ ((reviewHold_steady _).trans (evaluate_steady _ _))
  exact ⟨rfl, rfl, fun _ _ _ => id⟩

theorem loafBagged_handed (r : Loaf) (s : State) : Handed s (loafBagged r s) := by
  unfold loafBagged
  refine Handed.steady ?_ (((warn_steady _ _ _).trans (report_steady _ _)).trans (afterRemoval_steady _))
  exact ⟨rfl, rfl, fun _ _ _ => id⟩

theorem loafRejected_handed (r : Loaf) (s : State) : Handed s (loafRejected r s) := by
  unfold loafRejected
  refine Handed.steady ?_ (((warn_steady _ _ _).trans (report_steady _ _)).trans (afterRemoval_steady _))
  exact ⟨rfl, rfl, fun _ _ _ => id⟩

/-- The owner of an input function takes a change of its level without touching a point or reporting an edge (R171, R174). -/
theorem inputChanged_handed (f : Func) (high : Bool) (s : State) : Handed s (inputChanged f high s) := by
  unfold inputChanged
  split
  · unfold infeedLeading
    split
    · split
      · exact openRecord_handed s
      · exact (trackOverrun_steady s).handed
    · exact (Steady.refl s).handed
  · exact (infeedTrailing_steady s).handed
  · exact (stopLeading_steady s).handed
  · exact (Steady.refl s).handed
  · exact (endEyeLeading_steady _ s).handed
  · unfold exitTrailing
    split
    · exact (warn_steady _ _ s).handed
    · exact loafBagged_handed _ s
  · exact (endEyeLeading_steady _ s).handed
  · unfold rejectTrailing
    split
    · exact (warn_steady _ _ s).handed
    · exact (loafRejected_handed _ s).steady (Steady.ite (route_steady _) (Steady.refl _))
  · exact (bagCovered_steady _ s).handed
  · exact (bagCleared_steady _ s).handed
  · exact (evaluate_steady _ s).handed
  · exact (reviewGuard_steady s).handed
  · exact (reviewTray_steady s).handed
  · exact (Steady.refl s).handed

theorem handChange_lawful (p : PointNo) (before s : State) : Lawful false s (handChange p before s) := by
  unfold handChange
  split
  · exact Lawful.refl s
  · split
    · exact inputChanged_lawful _ _ s
    · exact Lawful.refl s

theorem svcSetPoint_sound (f : Form PointWrite) (s : State) : Sound (svcSetPoint f) s := by
  refine withForm_sound _ _ _ fun w => ?_
  cases pointConfig w with
  | none => exact refuse_sound _ s
  | some c =>
    exact needTier_sound _ _ _ <| require_sound _ _ _ _ fun _ => require_sound _ _ _ _ fun _ => require_sound _ _ _ _ fun _ =>
      require_sound _ _ _ _ fun hf => require_sound _ _ _ _ fun hn =>
        (((setPoints_mild _ s (configurePoint_lawful c s hf (by simpa using hn))).thenLawful (handChange_lawful c.point s _)).steady
          (functionsMoved_steady s _))

theorem plainEdge_mild (p : PointNo) (high : Bool) (s : State) (hm : s.points[p].mode = .input) : Mild s (plainEdge p high s) := by
  have h : Alike s.points[p] { s.points[p] with latch := true } := ⟨rfl, rfl, rfl, rfl, fun _ => Or.inr hm⟩
  unfold plainEdge
  simp only
  split
  · split
    · exact (setPoint_mild p _ s h).trans (report_mild _ _)
    · exact setPoint_mild p _ s h
  · exact Mild.refl s

/-- Outside IN a change of level at the point of an input function is the owner's (R171). -/
theorem levelChanged_owner {p : PointNo} {f : Func} {s : State} (high : Bool) (hm : s.points[p].mode ≠ .input)
    (hf : pointFunction s p = some f) (hi : isInput f = true) : levelChanged p high s = inputChanged f high s := by
  unfold levelChanged
  rw [hf]
  split
  · rename_i e
    exact absurd e hm
  · rename_i e _
    cases e
    rw [if_pos hi]
  · rename_i e _
    cases e

theorem levelChanged_lawful (p : PointNo) (high : Bool) (s : State) : Lawful false s (levelChanged p high s) := by
  unfold levelChanged
  split
  · rename_i hm
    exact (plainEdge_mild _ _ s hm).lawful
  · split
    · exact inputChanged_lawful _ _ s
    · exact Lawful.refl s
  · exact Lawful.refl s

theorem terminalChanges_lawful (p : PointNo) (sig : Signal) (s : State) : Lawful false s (terminalChanges p sig s) := by
  unfold terminalChanges
  simp only
  split
  · exact (setTerminal_mild _ _ s).lawful
  · exact (setTerminal_mild _ _ s).thenLawful ((levelChanged_lawful _ _ _).steady (finish_steady _))

theorem countSecond_counts (l : LineState) (r : ShiftRecord) : loafCounts (countSecond l r) = loafCounts r := by
  cases l <;> rfl

theorem clockTicks_lawful (s : State) : Lawful false s (clockTicks s) := by
  unfold clockTicks
  simp only
  have h := (countShift_steady (countSecond s.sup.line) s (countSecond_counts _ _)).mild.trans
    (setShift_mild { (countShift (countSecond s.sup.line) s).shift with
      clock := clockAfter (countShift (countSecond s.sup.line) s).shift.clock } _ rfl rfl)
  split
  · exact (h.thenLawful (closeShiftNow_lawful _ _ _ _ _)).steady (transmit_steady _)
  · exact h.lawful

/-! ## The link -/

theorem trackCommands_sound : ∀ e ∈ trackCommands, ∀ ws s, Sound (e.2 ws) s := by
  unfold trackCommands
  simp only [List.forall_mem_cons]
  exact ⟨fun _ => svcSetInfeed_sound _, fun _ => svcSetGeometry_sound _, fun _ => svcReject_sound _, fun _ => svcPurge_sound _,
    fun _ => svcReadTrack_sound _, fun _ => svcWriteRecipe_sound _, fun _ => svcErase_sound _, fun _ => svcReadRecipe_sound _,
    fun _ => svcRun_sound _, fun _ => svcLock_sound _, fun _ => svcUnlock_sound _, fun _ => svcBypassOn_sound _,
    fun _ => svcBypassOff_sound _, fun _ => svcLockdown_sound _, fun _ => svcReadAccess_sound _, fun _ => svcTryPlan_sound _,
    fun _ h => by cases h⟩

theorem machineCommands_sound : ∀ e ∈ machineCommands, ∀ ws s, Sound (e.2 ws) s := by
  unfold machineCommands
  simp only [List.forall_mem_cons]
  exact ⟨fun _ => svcReadSlicer_sound _, fun _ => svcLoadBags_sound _, fun _ => svcSetDistribution_sound _,
    fun _ => svcSetStation_sound _, fun _ => svcSetBagging_sound _, fun _ => svcReadStations_sound _, fun _ => svcLoadClips_sound _,
    fun _ => svcSetTyer_sound _, fun _ => svcReadTyers_sound _, fun _ => svcCleanNow_sound _, fun _ => svcSetCrumb_sound _,
    fun _ => svcReadCrumb_sound _, fun _ => svcSetLimits_sound _, fun _ => svcSetSampling_sound _, fun _ => svcSetTrend_sound _,
    fun _ => svcReadChannels_sound _, fun _ h => by cases h⟩

theorem lineCommands_sound : ∀ e ∈ lineCommands, ∀ ws s, Sound (e.2 ws) s := by
  unfold lineCommands
  simp only [List.forall_mem_cons]
  exact ⟨fun _ => svcStart_sound _, fun _ => svcStop_sound _, fun _ => svcSetAction_sound _, fun _ => svcClearFaults_sound _,
    fun _ => svcSetMask_sound _, fun _ => svcReadStatus_sound _, fun _ => svcReadFaults_sound _, fun _ => svcReset_sound _,
    fun _ => svcSetClock_sound _, fun _ => svcReadClock_sound _, fun _ => svcSetShifts_sound _, fun _ => svcCloseShift_sound _,
    fun _ => svcReadTotals_sound _, fun _ => svcReadHistory_sound _, fun _ => svcSetPoint_sound _, fun _ => svcTakeEdges_sound _,
    fun _ => svcWriteOut_sound _, fun _ => svcReadPoints_sound _, fun _ => svcSetReports_sound _, fun _ => svcIdent_sound _,
    fun _ h => by cases h⟩

theorem lookUp_sound {key : List Text} {k : List Text → Service} (h : lookUp key = some k) : ∀ ws s, Sound (k ws) s := by
  unfold lookUp at h
  obtain ⟨e, he, rfl⟩ := Option.map_eq_some_iff.mp h
  have hm := List.mem_of_find?_eq_some he
  unfold commandIndex at hm
  rcases List.mem_append.mp hm with hm | hm
  · rcases List.mem_append.mp hm with hm | hm
    · exact trackCommands_sound e hm
    · exact machineCommands_sound e hm
  · exact lineCommands_sound e hm

theorem serviceOf_sound (words : List Text) (s : State) : Sound (serviceOf words) s := by
  unfold serviceOf
  split
  · rename_i h
    exact lookUp_sound h _ s
  · split
    · rename_i h
      exact lookUp_sound h _ s
    · exact refuse_sound _ s

theorem emptyBuffer_mild (s : State) : Mild s (emptyBuffer s) := setLink_mild _ s (fun _ => Nat.zero_le _) (Nat.le_refl _)

theorem frameBroken_steady (s : State) : Steady s (frameBroken s) :=
  Steady.ite (owe_steady _ s) (answerLater_steady _ s)

theorem completeLine_lawful (s : State) : Lawful false s (completeLine s) := by
  unfold completeLine
  split
  · exact Lawful.refl s
  · split
    · exact ((emptyBuffer_mild s).trans (frameBroken_steady _).mild).lawful
    · exact (emptyBuffer_mild s).thenLawful (serve_lawful _ _ (serviceOf_sound _ _))

theorem storeCharacter_mild (c : Byte) (s : State) : Mild s (storeCharacter c s) := by
  refine setLink_mild _ s (fun h => ?_) (Nat.le_refl _)
  show (if _ then _ else _ : Text).length ≤ _
  split
  · rename_i hl
    rw [List.length_append, List.length_singleton]
    exact hl
  · exact h

theorem characterArrives_lawful (c : Byte) (s : State) : Lawful false s (characterArrives c s) := by
  unfold characterArrives
  split
  · exact Lawful.refl s
  · split
    · exact completeLine_lawful s
    · exact (storeCharacter_mild c s).lawful

theorem silenceEnds_lawful (s : State) : Lawful false s (silenceEnds s) := by
  unfold silenceEnds
  split
  · exact (emptyBuffer_mild s).lawful
  · exact Lawful.refl s

theorem sent_steady (k : TxKind) (s : State) : Steady s (s.setLink (s.link.sent k)) := by
  unfold Link.sent
  repeat' split
  all_goals exact setLink_steady _ s rfl rfl (List.Sublist.refl _)

/-! ## Resets -/

theorem present_steady (s : State) : Steady s (present s) := by
  unfold present
  refine Steady.trans ?_ (transmit_steady _)
  refine Steady.trans ?_ (reviewTray_steady _)
  refine Steady.trans ?_ (reviewGuard_steady _)
  exact foldl_steady _ (fun t w => evaluate_steady w t) _ s

theorem wasteHeld_steady (x : Station) (s : State) : Steady s (wasteHeld x s) := Steady.ite (wasteBag_steady x s) (Steady.refl s)

theorem restartStation_steady (x : Station) (s : State) : Steady s (restartStation x s) := by
  unfold restartStation
  repeat' split
  all_goals first
    | exact stationEmpties_steady x s
    | exact enterOpening_steady x s
    | exact stationOut_steady x s
    | exact Steady.refl s

theorem forget_mild (l : Link) (s : State) (hb : l.buffer = []) (hq : l.queue = []) : Mild s (forget l s) :=
  { Mild.refl s with
    buffer := fun _ => by
      show l.buffer.length ≤ _
      rw [hb]
      exact Nat.zero_le _
    queue := fun _ => by
      show l.queue.length ≤ _
      rw [hq]
      exact Nat.zero_le _
    obeys := ⟨id, id, id, id⟩ }

/-- The counts of a warm reset: what the track holds is counted lost (R23, R168). -/
theorem warmCounts_spec (s : State) :
    (warmCounts s).member = s.member ∧ (warmCounts s).pending = s.pending ∧ (warmCounts s).recipes = s.recipes ∧
      (warmCounts s).shift.history = s.shift.history ∧
      loafCounts (warmCounts s).shift.openRecord =
        { loafCounts s.shift.openRecord with lost := raiseCount s.shift.openRecord.lost s.track.loaves.length } ∧
      (faultsLawful s → faultsLawful (warmCounts s)) ∧ (loadsBounded s → loadsBounded (warmCounts s)) ∧
      (linkBounded s → linkBounded (warmCounts s)) ∧ (warmCounts s).points = s.points := by
  unfold warmCounts
  have h := (wasteHeld_steady .a (countShift (fun r => { r with
      lost := raiseCount r.lost s.track.loaves.length
      sweepsAborted := if s.crumb.sweep.isSome then raiseCount r.sweepsAborted 1 else r.sweepsAborted }) s)).trans
    (wasteHeld_steady .b _)
  have k := h.kept
  exact ⟨k.member, k.pending, k.recipes, k.history, k.counts, k.faults, k.loads, h.lawful.link, k.points⟩

/-- A state as the blocks of a warm reset leave it: the track empty, what it held counted lost, the line STOPPED, the blade and the
belt watch at rest (R23, R77, R155). -/
theorem warm_lawful (s u : State) (hm : u.member = s.member) (hp : u.pending = s.pending) (hr : u.recipes = s.recipes)
    (hs : u.shift = (warmCounts s).shift) (hl : u.track.loaves = []) (hh : u.track.infeedHold = true) (hn : u.sup.line = .stopped)
    (hw : u.sup.beltWatch = false) (hk : u.head.knife = false) (hf : faultsLawful s → faultsLawful u)
    (hc : loadsBounded s → loadsBounded u) (hq : linkBounded s → linkBounded u)
    (hx : pointsLawful s → pointsLawful u) : Lawful false s u where
  member := hm
  pending := hp
  bounded := fun _ => by
    unfold trackBounded
    rw [hl]
    exact Nat.zero_le _
  marked := fun _ r hr => by
    rw [hl] at hr
    cases hr
  balance := fun _ hu hb => by
    obtain ⟨_, _, _, w1, w2, _⟩ := warmCounts_spec s
    unfold balanced
    rw [hs, w1, w2, hl]
    refine ⟨?_, hb.2⟩
    have h := hb.1
    unfold balancedWith loafCounts at h ⊢
    simp only [List.length_nil] at h ⊢
    rw [raiseCount_exact hu.2.2.1]
    omega
  history := fun h => by
    obtain ⟨_, _, _, w1, _⟩ := warmCounts_spec s
    unfold historyBounded
    rw [hs, w1]
    exact h
  obeys := by
    constructor
    · intro _
      unfold knifeLaw moving
      rw [hk, hn]
      rfl
    · intro _
      unfold holdLaw
      rw [hh, holdOwed_still u (by rw [hn]; exact fun k => by cases k)]
    · intro _ c
      rw [hw] at c
      cases c
    · intro _ c
      rw [hn] at c
      cases c
  loads := hc
  faults := hf
  recipes := recipesLawful_of_eq hr
  points := hx
  link := hq
  locks := fun _ => locksHold_of_eq hr

/-- With every point a plain input whose pull-up is off, the law of the points holds. -/
theorem pointsLawful_of_inputs {s : State} (h : ∀ p : PointNo, s.points[p].mode = .input ∧ s.points[p].pullUp = false) :
    pointsLawful s := by
  have hf : ∀ p, pointFunction s p = none := fun p => by
    unfold pointFunction
    rw [(h p).1]
    rfl
  refine ⟨fun p q g a => ?_, fun p _ => (h p).2, fun p a => absurd (h p).1 a, fun _ p g a => ?_⟩
  all_goals
    rw [hf] at a
    cases a

theorem lineReset_lawful (p : Straps) (s : State) : Lawful false s (lineReset p s) := by
  unfold lineReset
  simp only
  refine Lawful.steady ?_ (present_steady _)
  refine Lawful.mild ?_ (forget_mild _ _ rfl rfl)
  refine Lawful.steady ?_ (restartStation_steady .b _)
  refine Lawful.steady ?_ (restartStation_steady .a _)
  obtain ⟨w1, w2, w3, _, _, w6, w7, w8, w9⟩ := warmCounts_spec s
  refine warm_lawful s _ w1 w2 w3 rfl rfl rfl rfl rfl rfl (fun h k => ?_) w7 w8
    (fun _ => pointsLawful_of_inputs fun p => by simp [Point.lineReset, Point.powerOn])
  have h := w6 h k
  unfold faultEntry at h ⊢
  show (_ → (faultsLineReset _ _)[faultIndex k].state ≠ _) ∧ (faultsLineReset _ _)[faultIndex k].count ≤ _
  unfold faultsLineReset
  simp only [Fin.getElem_fin, Vector.getElem_ofFn]
  exact ⟨fun _ c => (by cases c), h.2⟩

theorem messageReset_lawful (s : State) : Lawful false s (messageReset s) := by
  unfold messageReset
  simp only
  refine Lawful.steady ?_ (present_steady _)
  refine Lawful.mild ?_ (forget_mild _ _ rfl rfl)
  refine Lawful.steady ?_ (restartStation_steady .b _)
  refine Lawful.steady ?_ (restartStation_steady .a _)
  obtain ⟨w1, w2, w3, _, _, w6, w7, w8, w9⟩ := warmCounts_spec s
  refine warm_lawful s _ w1 w2 w3 rfl rfl rfl rfl rfl rfl (fun h k => ?_) w7 w8
    (pointsLawful_of_alike w1 fun p => by
      simp only [warmBlocks, w9, Fin.getElem_fin, Vector.getElem_map]
      exact ⟨rfl, rfl, rfl, rfl, fun h => Bool.noConfusion h⟩)
  have h := w6 h k
  unfold faultEntry at h ⊢
  show (_ → (Vector.map FaultEntry.warm _)[faultIndex k].state ≠ _) ∧ (Vector.map FaultEntry.warm _)[faultIndex k].count ≤ _
  simp only [Fin.getElem_fin, Vector.getElem_map]
  exact ⟨fun _ c => (by cases c), h.2⟩

theorem lineLeaves_lawful (s : State) : Lawful false s (lineLeaves s) := by
  unfold lineLeaves
  split
  · exact Lawful.refl s
  · split
    · exact messageReset_lawful s
    · exact ((sent_steady _ s).trans (transmit_steady _)).lawful

theorem powerOn_faults (m : Member) (k : FaultKind) : (faultsPowerOn m)[faultIndex k].state = .inactive ∧
    (faultsPowerOn m)[faultIndex k].count = 0 := by
  unfold faultsPowerOn
  simp only [Fin.getElem_fin, Vector.getElem_ofFn]
  simp

theorem powerOnReset_lawful (p : Straps) (s : State) : Lawful true s (powerOnReset p s) := by
  unfold powerOnReset
  refine Lawful.steady ?_ (present_steady _)
  exact {
    member := rfl
    pending := rfl
    bounded := fun _ => Nat.zero_le _
    marked := fun _ r hr => by cases hr
    balance := fun _ _ _ => ⟨by unfold balancedWith; rfl, fun c hc => by cases hc⟩
    history := fun _ => Nat.zero_le _
    obeys := ⟨fun _ => rfl, fun _ => rfl, fun _ h => (by cases h), fun _ h => by cases h⟩
    loads := fun _ => ⟨Nat.zero_le _, Nat.zero_le _⟩
    faults := fun _ k => by
      obtain ⟨h1, h2⟩ := powerOn_faults s.member k
      refine ⟨fun _ h => ?_, ?_⟩
      · have h : (faultsPowerOn s.member)[faultIndex k].state = .active := h
        rw [h1] at h
        cases h
      · show (faultsPowerOn s.member)[faultIndex k].count ≤ _
        rw [h2]
        exact Nat.zero_le _
    recipes := fun _ => ⟨fun i h => (by cases h), fun h => (by cases h)⟩
    points := fun _ => pointsLawful_of_inputs fun p => by simp [Point.lineReset, Point.powerOn]
    link := fun _ => ⟨Nat.zero_le _, Nat.zero_le _⟩
    locks := fun h => by cases h }

end Sys2Proof.Laws
end

