-- ==== Sys2Proof/Laws/Step.lean ====
section
/-! SUPPORT. What one command does, whatever it is: it answers a next state, and that state keeps the laws. -/

namespace Sys2Proof.Laws

open Sys2Proof.Machine Sys2Proof.Safety

/-- No command stops the block. -/
theorem exec_next (c : Instr) (s : State) : ∃ t, exec c s = .next t := by
  cases c <;> exact ⟨_, rfl⟩

theorem of_next {p : Bool} {s t u : State} (h : (Host.Outcome.next u : Result) = .next t) (k : Lawful p s u) : Lawful p s t := by
  injection h with h
  exact h ▸ k

/-- Every command keeps the laws. -/
theorem exec_lawful (c : Instr) (s t : State) (h : exec c s = .next t) : Lawful (powersOn c) s t := by
  cases c with
  | setInfeed u => exact of_next h (serve_lawful _ s (svcSetInfeed_sound u s))
  | setGeometry u => exact of_next h (serve_lawful _ s (svcSetGeometry_sound u s))
  | reject u => exact of_next h (serve_lawful _ s (svcReject_sound u s))
  | purge u => exact of_next h (serve_lawful _ s (svcPurge_sound u s))
  | readTrack u => exact of_next h (serve_lawful _ s (svcReadTrack_sound u s))
  | writeRecipe u => exact of_next h (serve_lawful _ s (svcWriteRecipe_sound u s))
  | erase u => exact of_next h (serve_lawful _ s (svcErase_sound u s))
  | readRecipe u => exact of_next h (serve_lawful _ s (svcReadRecipe_sound u s))
  | run u => exact of_next h (serve_lawful _ s (svcRun_sound u s))
  | lock u => exact of_next h (serve_lawful _ s (svcLock_sound u s))
  | unlock u => exact of_next h (serve_lawful _ s (svcUnlock_sound u s))
  | bypassOn u => exact of_next h (serve_lawful _ s (svcBypassOn_sound u s))
  | bypassOff u => exact of_next h (serve_lawful _ s (svcBypassOff_sound u s))
  | lockdown u => exact of_next h (serve_lawful _ s (svcLockdown_sound u s))
  | readAccess u => exact of_next h (serve_lawful _ s (svcReadAccess_sound u s))
  | tryPlan u => exact of_next h (serve_lawful _ s (svcTryPlan_sound u s))
  | readSlicer u => exact of_next h (serve_lawful _ s (svcReadSlicer_sound u s))
  | loadBags u => exact of_next h (serve_lawful _ s (svcLoadBags_sound u s))
  | setDistribution u => exact of_next h (serve_lawful _ s (svcSetDistribution_sound u s))
  | setStation u => exact of_next h (serve_lawful _ s (svcSetStation_sound u s))
  | setBagging u => exact of_next h (serve_lawful _ s (svcSetBagging_sound u s))
  | readStations u => exact of_next h (serve_lawful _ s (svcReadStations_sound u s))
  | loadClips u => exact of_next h (serve_lawful _ s (svcLoadClips_sound u s))
  | setTyer u => exact of_next h (serve_lawful _ s (svcSetTyer_sound u s))
  | readTyers u => exact of_next h (serve_lawful _ s (svcReadTyers_sound u s))
  | cleanNow u => exact of_next h (serve_lawful _ s (svcCleanNow_sound u s))
  | setCrumb u => exact of_next h (serve_lawful _ s (svcSetCrumb_sound u s))
  | readCrumb u => exact of_next h (serve_lawful _ s (svcReadCrumb_sound u s))
  | setLimits u => exact of_next h (serve_lawful _ s (svcSetLimits_sound u s))
  | setSampling u => exact of_next h (serve_lawful _ s (svcSetSampling_sound u s))
  | setTrend u => exact of_next h (serve_lawful _ s (svcSetTrend_sound u s))
  | readChannels u => exact of_next h (serve_lawful _ s (svcReadChannels_sound u s))
  | start u => exact of_next h (serve_lawful _ s (svcStart_sound u s))
  | stopDrain u => exact of_next h (serve_lawful _ s (svcStopDrain_sound u s))
  | stopNow u => exact of_next h (serve_lawful _ s (svcStopNow_sound u s))
  | setAction u => exact of_next h (serve_lawful _ s (svcSetAction_sound u s))
  | clearFaults u => exact of_next h (serve_lawful _ s (svcClearFaults_sound u s))
  | setMask u => exact of_next h (serve_lawful _ s (svcSetMask_sound u s))
  | readStatus u => exact of_next h (serve_lawful _ s (svcReadStatus_sound u s))
  | readFaults u => exact of_next h (serve_lawful _ s (svcReadFaults_sound u s))
  | reset u => exact of_next h (serve_lawful _ s (svcReset_sound u s))
  | setClock u => exact of_next h (serve_lawful _ s (svcSetClock_sound u s))
  | readClock u => exact of_next h (serve_lawful _ s (svcReadClock_sound u s))
  | setShifts u => exact of_next h (serve_lawful _ s (svcSetShifts_sound u s))
  | closeShift u => exact of_next h (serve_lawful _ s (svcCloseShift_sound u s))
  | readTotals u => exact of_next h (serve_lawful _ s (svcReadTotals_sound u s))
  | readHistory u => exact of_next h (serve_lawful _ s (svcReadHistory_sound u s))
  | setPoint u => exact of_next h (serve_lawful _ s (svcSetPoint_sound u s))
  | takeEdges u => exact of_next h (serve_lawful _ s (svcTakeEdges_sound u s))
  | writeOut u => exact of_next h (serve_lawful _ s (svcWriteOut_sound u s))
  | readPoints u => exact of_next h (serve_lawful _ s (svcReadPoints_sound u s))
  | setReports u => exact of_next h (serve_lawful _ s (svcSetReports_sound u s))
  | ident u => exact of_next h (serve_lawful _ s (svcIdent_sound u s))
  | powerOn u => exact of_next h (powerOnReset_lawful _ s)
  | resetLine u => exact of_next h (lineReset_lawful _ s)
  | infeedEyeLeadingEdge => exact of_next h (inputEdge_lawful _ _ _ s (fun t => infeedLeading_lawful t))
  | infeedEyeTrailingEdge => exact of_next h (inputEdge_lawful _ _ _ s (fun t => (infeedTrailing_steady t).lawful))
  | stopEyeLeadingEdge => exact of_next h (inputEdge_lawful _ _ _ s (fun t => (stopLeading_steady t).lawful))
  | exitEyeTrailingEdge => exact of_next h (inputEdge_lawful _ _ _ s (fun t => exitTrailing_lawful t))
  | rejectEyeTrailingEdge => exact of_next h (inputEdge_lawful _ _ _ s (fun t => rejectTrailing_lawful t))
  | exitRejectLeadingEdge u => exact of_next h (inputEdge_lawful _ _ _ s (fun t => (endEyeLeading_steady _ t).lawful))
  | beltEncoderStep u => exact of_next h (((beltStep_mild u s).trans (finish_steady _).mild).lawful)
  | lengthCheckExpiry u => exact of_next h ((checkExpires_steady _ _ s).lawful)
  | stopCheckExpiry u => exact of_next h ((checkExpires_steady _ _ s).lawful)
  | rejectCheckExpiry u => exact of_next h ((checkExpires_steady _ _ s).lawful)
  | exitCheckExpiry u => exact of_next h ((checkExpires_steady _ _ s).lawful)
  | pusherEncoderStep u => exact of_next h (((pusherStep_steady u s).trans (finish_steady _)).lawful)
  | cutBegin u => exact of_next h ((cutBegins_steady _ s).lawful)
  | returnBegin u => exact of_next h ((returnBegins_steady _ s).lawful)
  | parkChange u => exact of_next h ((setHead_steady { s.head with park := u } s rfl rfl).lawful)
  | stallTimerExpiry => exact of_next h ((stallExpires_steady s).lawful)
  | bagEyeLeadingEdge u => exact of_next h (inputEdge_lawful _ _ _ s (fun t => (bagCovered_steady _ t).lawful))
  | bagEyeTrailingEdge u => exact of_next h (inputEdge_lawful _ _ _ s (fun t => (bagCleared_steady _ t).lawful))
  | bagOpenTimeout u => exact of_next h ((openTimeout_steady _ s).lawful)
  | releaseTimeout u => exact of_next h ((releaseTimeout_steady _ s).lawful)
  | travelCountExpiry u => exact of_next h ((travelExpires_steady _ s).lawful)
  | scoopEnd u => exact of_next h ((scoopEnds_steady _ s).lawful)
  | strikeMidpoint u => exact of_next h ((strikeMiddle_steady _ s).lawful)
  | strikeEnd u => exact of_next h ((strikeEnds_steady _ s).lawful)
  | riseTimerExpiry => exact of_next h ((riseExpires_steady s).lawful)
  | sweepTimerExpiry => exact of_next h ((sweepExpires_steady s).lawful)
  | conversionComplete u => exact of_next h ((conversionDone_steady _ s).lawful)
  | centreConversionDue => exact of_next h ((centreFallsDue_steady s).lawful)
  | edgeDelayExpiry => exact of_next h ((edgeRunBegins_steady s).lawful)
  | idleTimerExpiry => exact of_next h ((idleScanBegins_steady s).lawful)
  | beltWatchExpiry => exact of_next h ((watchExpires_steady s).lawful)
  | guardDoorChange u => exact of_next h (inputEdge_lawful _ _ _ s (fun t => (reviewGuard_steady t).lawful))
  | trayFullChange u => exact of_next h (inputEdge_lawful _ _ _ s (fun t => (reviewTray_steady t).lawful))
  | keyInputChange u v => exact of_next h (inputEdge_lawful _ _ _ s (fun t => (evaluate_steady _ t).lawful))
  | plainInputEdge u v => exact of_next h (terminalChanges_lawful _ _ s)
  | clockTick => exact of_next h (clockTicks_lawful s)
  | requestLine => exact of_next h (completeLine_lawful s)
  | silenceTimeout => exact of_next h (silenceEnds_lawful s)
  | lineSent => exact of_next h (lineLeaves_lawful s)
  | characterReceived u => exact of_next h (characterArrives_lawful _ s)
  | trendPeriodStart => exact of_next h ((trendPeriod_steady s).lawful)

/-- A step with a command in front of the queue is that command on the state with the queue's rest. -/
theorem step_front (c : Instr) (rest : List Instr) (s : State) (h : s.pending = c :: rest) : step s = exec c (s.setPending rest) := by
  unfold step
  rw [h]

end Sys2Proof.Laws
end

