-- ==== Sys2Proof/Laws/Answers.lean ====
section
/-! SUPPORT. How a command's answer is shown: a request that the link takes, an edge at a held function, the review of the hold, a record
found and changed. -/

namespace Sys2Proof.Laws

open Sys2Proof.Machine Sys2Proof.Safety

/-! ## Requests -/

/-- A request that the link takes, by what its service does. -/
theorem taken {svc : Service} {s t : State} {o : Owed} (hf : Free s) (h : svc s = (t, o)) :
    (Host.Outcome.next (serve svc s) : Result) = .next (answered o t) := by
  rw [serve_free svc s hf, h]

/-- What a steady operation leaves alone. -/
theorem Steady.aside {s t : State} (h : Steady s t) : Aside s t :=
  ⟨h.kept.options, h.kept.recipes, h.kept.limit, h.kept.geometry, h.kept.clock, h.kept.clockSet, h.kept.schedule, h.kept.history,
    h.kept.counts, h.kept.enables⟩

theorem Aside.trans {s t u : State} (h : Aside s t) (k : Aside t u) : Aside s u :=
  ⟨k.options.trans h.options, k.recipes.trans h.recipes, k.limit.trans h.limit, k.geometry.trans h.geometry, k.clock.trans h.clock,
    k.clockSet.trans h.clockSet, k.schedule.trans h.schedule, k.history.trans h.history, k.counts.trans h.counts,
    k.enables.trans h.enables⟩

/-! ## Levels -/

theorem moving_of {s : State} (h : s.sup.line = .running ∨ s.sup.line = .draining) : moving s = true := by
  unfold moving
  rcases h with h | h <;> simp [h]

theorem standing_of {s : State} (h : s.sup.line = .stopped ∨ s.sup.line = .halted) : moving s = false := by
  unfold moving
  rcases h with h | h <;> simp [h]

/-- What an edge at a terminal leaves alone: everything but the points and the count of free values. -/
theorem driveInput_eq (f : Func) (b : Bool) (s : State) :
    driveInput f b s = { s with points := (driveInput f b s).points, fresh := (driveInput f b s).fresh } := by
  unfold driveInput setTerminal
  split
  · rfl
  · simp only
    split <;> rfl

/-- An edge of a held function (R171). -/
theorem inputEdge_held {f : Func} {b : Bool} {owner : State → State} {s : State} (h : Held s f) :
    inputEdge f b owner s = finish (owner (driveInput f b s)) := by
  unfold inputEdge
  rw [if_pos (show isHeld s f = true from h)]

theorem Noticed.of_eq {u v : State} (h : u = v) : Noticed u v := h ▸ Noticed.refl _

/-! ## The hold -/

/-- The review of the hold sets it to what R8 asks for, where BELT_STALL is not ACTIVE. -/
theorem reviewHold_eq (s : State) (h : BeltRuns s) : reviewHold s = holdSet (holdOwed s) s := by
  unfold reviewHold
  rw [show holdCondition s = holdOwed s from rfl]
  have hb : ∀ t : State, t.sup.faults = s.sup.faults → settleBelt t = t := fun t ht =>
    settleBelt_idle t (by
      unfold faultEntry
      rw [ht]
      exact h)
  split
  · rename_i h1 h2
    rw [h1, hb _ (by rfl)]
    simp [assertHold, holdSet, State.setTrack, State.setSup, h2]
  · rename_i h1 h2
    rw [h1]
    simp [releaseHold, holdSet, State.setTrack, State.setSup, h2]
  · rename_i h1 h2
    have : holdOwed s = s.track.infeedHold := by
      cases hx : holdOwed s <;> cases hy : s.track.infeedHold <;> simp_all
    rw [this]
    unfold holdSet
    simp

theorem applyToLine_hold (a : Action) (t : State) (h : t.track.infeedHold = true) : (applyToLine a t).track.infeedHold = true := by
  unfold applyToLine
  repeat' split
  all_goals first | exact h | exact (enterHalted_spec _).2.2 | skip
  unfold enterDraining trackEmpty
  split
  · exact (enterStopped_spec _ _).2.2
  · unfold trySweep
    split <;> rfl

theorem settleBelt_hold (t : State) (h : t.track.infeedHold = true) : (settleBelt t).track.infeedHold = true := by
  unfold settleBelt
  simp only
  split
  · refine applyToLine_hold _ _ ?_
    show (report _ (setFault .beltStall _ t)).track.infeedHold = _
    rw [report_eq]
    exact h
  · exact h

/-- After a review the hold stands as R8 asks for, whatever BELT_STALL does. -/
theorem reviewHold_hold (s : State) : (reviewHold s).track.infeedHold = holdOwed s := by
  unfold reviewHold
  rw [show holdCondition s = holdOwed s from rfl]
  split
  · rename_i h1 h2
    rw [h1]
    exact settleBelt_hold _ rfl
  · rename_i h1 h2
    rw [h1]
    rfl
  · rename_i h1 h2
    cases hx : holdOwed s <;> cases hy : s.track.infeedHold <;> simp_all

/-! ## Measurement -/

theorem startPhaseConversion_meas (s : State) : ∃ m, startPhaseConversion s = s.setMeas m := by
  unfold startPhaseConversion startConversion
  simp only
  split
  · exact ⟨s.meas, rfl⟩
  · split <;> exact ⟨_, rfl⟩
  · split <;> exact ⟨_, rfl⟩

/-- The arbiter moves measurement only. -/
theorem arbitrate_meas (s : State) : ∃ m, arbitrate s = s.setMeas m := by
  unfold arbitrate startConversion
  split
  · exact ⟨s.meas, rfl⟩
  · split
    · exact ⟨_, rfl⟩
    · split
      · exact startPhaseConversion_meas s
      · split
        · exact ⟨_, rfl⟩
        · exact ⟨s.meas, rfl⟩

/-- The begin of a phase moves measurement only. -/
theorem phaseBegins_meas (s : State) : ∃ m, phaseBegins s = s.setMeas m := by
  unfold phaseBegins
  simp only
  split
  · obtain ⟨m, h⟩ := arbitrate_meas (s.setMeas { s.meas.endPhase with centreDue := true })
    exact ⟨m, h⟩
  · exact ⟨_, rfl⟩
  · split
    · obtain ⟨m, h⟩ := arbitrate_meas (s.setMeas { s.meas.endPhase with edgeRun := true })
      exact ⟨m, h⟩
    · exact ⟨_, rfl⟩

/-- What an operation that moves measurement only leaves, told by its own result. -/
theorem setMeas_self {s t : State} (h : ∃ m, t = s.setMeas m) : t = { s with meas := t.meas } := by
  obtain ⟨m, rfl⟩ := h
  rfl

/-! ## Records -/

/-- The change of the first record that meets a test depends on that record only. -/
theorem modifyFirst_congr {p : Loaf → Bool} {f g : Loaf → Loaf} {ls : List Loaf} {r : Loaf} (h : ls.find? p = some r) (e : f r = g r) :
    modifyFirst p f ls = modifyFirst p g ls := by
  induction ls with
  | nil => rfl
  | cons a as ih =>
    rw [List.find?_cons] at h
    unfold modifyFirst
    split at h
    · rename_i hp
      obtain rfl := Option.some.inj h
      simp [hp, e]
    · rename_i hp
      simp [hp, ih h]

/-- Two tests that first meet at the same record change the same record. -/
theorem modifyFirst_test {p q : Loaf → Bool} {f : Loaf → Loaf} {ls : List Loaf} {r : Loaf} (hp : ls.find? p = some r)
    (hq : ls.find? q = some r) (h : ∀ x, q x = true → p x = true) : modifyFirst p f ls = modifyFirst q f ls := by
  induction ls with
  | nil => rfl
  | cons a as ih =>
    rw [List.find?_cons] at hp hq
    unfold modifyFirst
    split at hp
    · rename_i h1
      obtain rfl := Option.some.inj hp
      split at hq
      · rename_i h2
        simp [h1, h2]
      · have h2 := List.find?_some hq
        simp_all
    · rename_i h1
      split at hq
      · rename_i h2
        rw [h a h2] at h1
        cases h1
      · rename_i h2
        simp [h1, h2, ih hp hq]

/-- A record changed under its own tag is the one then found. -/
theorem findLoaf_modify {tag : Nat} {r : Loaf} {s : State} {f : Loaf → Loaf} (h : findLoaf s tag = some r) (ht : (f r).tag = tag) :
    findLoaf (modifyLoaf tag f s) tag = some (f r) := modifyFirst_find h (decide_eq_true ht)

theorem findLoaf_tag {tag : Nat} {r : Loaf} {s : State} (h : findLoaf s tag = some r) : r.tag = tag := by
  simpa using List.find?_some h

/-- A record that a change does not meet stays in the list. -/
theorem mem_modifyFirst_other {p : Loaf → Bool} {f : Loaf → Loaf} {ls : List Loaf} {r : Loaf} (h : r ∈ ls) (hp : p r = false) :
    r ∈ modifyFirst p f ls := by
  induction ls with
  | nil => cases h
  | cons a as ih =>
    unfold modifyFirst
    rcases List.mem_cons.mp h with rfl | h
    · simp [hp]
    · split
      · exact List.mem_cons_of_mem _ h
      · exact List.mem_cons_of_mem _ (ih h)

end Sys2Proof.Laws
end

