-- ==== Sys2Proof/Laws/AdmissionTest.lean ====
section
/-! SUPPORT. What the admission test can do (R62, R63, R114): one lemma says it for every event that makes the test. -/

namespace Sys2Proof.Laws

open Sys2Proof.Machine Sys2Proof.Safety

/-! ## The record -/

/-- The first record that meets a test is found changed in the list changed. -/
theorem modifyFirst_mem (p : Loaf → Bool) (f : Loaf → Loaf) (l : List Loaf) (r : Loaf) (h : l.find? p = some r) :
    f r ∈ modifyFirst p f l := by
  induction l with
  | nil => cases h
  | cons a l ih =>
    unfold modifyFirst
    rw [List.find?_cons] at h
    split at h
    · rename_i hp
      rw [if_pos hp]
      cases h
      exact List.mem_cons_self
    · rename_i hp
      rw [if_neg (by simp [hp])]
      exact List.mem_cons_of_mem _ (ih h)

theorem none_in_zone (s : State) (z : Zone) : (oldestIn s z).isNone = decide (∀ q ∈ s.track.loaves, q.zone ≠ z) := by
  have h : (oldestIn s z).isNone = true ↔ ∀ q ∈ s.track.loaves, q.zone ≠ z := by
    unfold oldestIn
    rw [Option.isNone_iff_eq_none, List.find?_eq_none]
    simp
  by_cases k : ∀ q ∈ s.track.loaves, q.zone ≠ z
  · rw [decide_eq_true k]
    exact h.2 k
  · rw [decide_eq_false k, ← Bool.not_eq_true]
    exact fun e => k (h.1 e)

/-! ## The admission -/

/-- The release of KNIFE_RUN writes the blade's own fields, the air knife and measurement, and no other. -/
theorem knifeTo_off (s : State) : ∃ stall ph cut pair air m, knifeTo false s =
    { s with
      head := { s.head with knife := false, stallTimer := stall, phase := ph, cutTime := cut, previous := pair }
      crumb := { s.crumb with airKnife := air }
      meas := m } := by
  unfold knifeTo
  by_cases h : s.head.knife = false
  · rw [if_pos h]
    exact ⟨_, _, _, _, _, _, by rw [← h]⟩
  · rw [if_neg h, if_neg Bool.false_ne_true]
    by_cases k : s.head.phase = .idle
    · rw [if_pos k]
      exact ⟨_, _, _, _, _, _, rfl⟩
    · rw [if_neg k]
      exact ⟨_, _, _, _, _, _, rfl⟩

/-- The hold reviewed after an admission leaves it standing. -/
theorem AdmittedAs_holds {m : Option Mark} {r : Loaf} {s u : State} (h : AdmittedAs m r s u) (hb : BeltRuns u) :
    AdmittedAs m r s (reviewHold u) := by
  obtain ⟨⟨a1, a2, a3, a4, a5, a6, a7, a8, a9, a10⟩, b, c, d, e, f⟩ := h
  rw [reviewHold_eq u hb]
  exact ⟨⟨a1, a2, a3, a4, a5, a6, a7, a8, a9, a10⟩, b, c, d, e, f⟩

/-- A notice after an admission leaves it standing. -/
theorem AdmittedAs_noticed {m : Option Mark} {r : Loaf} {s t u : State} (h : AdmittedAs m r s t) (k : Noticed t u) :
    AdmittedAs m r s u := by
  obtain ⟨⟨a1, a2, a3, a4, a5, a6, a7, a8, a9, a10⟩, b, c, d, e, f⟩ := h
  have he := k.enables
  rw [k.rest]
  exact ⟨⟨a1, a2, a3, a4, a5, a6, a7, a8, a9, he.trans a10⟩, b, c, d, e, f⟩

theorem taken_mem (r : Loaf) (m : Option Mark) (s : State) (h : oldestIn s .infeed = some r) :
    ∃ q ∈ (moveLoaf .infeed r.tag (fun l => { l with
        zone := .slicer, mark := m, cutsDone := if m.isSome then l.cutsDone else some 0 }) s).track.loaves,
      q.tag = r.tag ∧ q.zone = .slicer ∧ q.mark = m ∧ (m = none → q.cutsDone = some 0) :=
  ⟨_, modifyFirst_mem _ _ _ _ (find_oldest h), rfl, rfl, rfl, fun h => by rw [h]; rfl⟩

theorem enterPassing_admits (r : Loaf) (m : Mark) (s u : State) (h : Aside s u) (ht : u.head.tag = some r.tag)
    (hp : u.head.pusher = 0)
    (hm : ∃ q ∈ u.track.loaves, q.tag = r.tag ∧ q.zone = .slicer ∧ q.mark = some m ∧ (some m = none → q.cutsDone = some 0))
    (hl : u.crumb.lastAdmitted = s.crumb.lastAdmitted) : AdmittedAs (some m) r s (enterPassing { r with mark := some m } u) := by
  have he : ejectTargetOf u { r with mark := some m } = ejectTargetOf s r := by
    unfold ejectTargetOf
    rw [h.geometry]
  unfold enterPassing
  rw [he]
  obtain ⟨_, _, _, _, _, _, e⟩ := knifeTo_off (u.setHead { u.head with
    state := .passing, nextCut := none, target := ejectTargetOf s r, pausedFrom := none })
  rw [e]
  obtain ⟨a1, a2, a3, a4, a5, a6, a7, a8, a9, a10⟩ := h
  exact ⟨⟨a1, a2, a3, a4, a5, a6, a7, a8, a9, a10⟩, ht, hp, hm, fun k => (Option.some_ne_none _ k).elim, fun _ => ⟨rfl, rfl, rfl, hl⟩⟩

/-- The admission of the oldest INFEED record, with a mark or none (R63). -/
theorem takeLoaf_admits (r : Loaf) (m : Option Mark) (s : State) (h : oldestIn s .infeed = some r) (hb : BeltRuns s) :
    AdmittedAs m r s (takeLoaf { r with mark := m } s) := by
  have hm := taken_mem r m s h
  unfold takeLoaf
  cases m with
  | none =>
    refine AdmittedAs_holds ?_ hb
    refine ⟨⟨rfl, rfl, rfl, rfl, rfl, rfl, rfl, rfl, rfl, rfl⟩, rfl, rfl, hm, fun _ => ⟨rfl, rfl, ?_⟩, fun k => absurd rfl k⟩
    show lastAfter s.crumb.lastAdmitted _ = _
    unfold lastAfter
    cases r.snapshot <;> rfl
  | some m =>
    refine AdmittedAs_holds ?_ ?_
    · exact enterPassing_admits r m s _ ⟨rfl, rfl, rfl, rfl, rfl, rfl, rfl, rfl, rfl, rfl⟩ rfl rfl hm rfl
    · show (faultEntry (knifeTo false _) .beltStall).state ≠ .active
      unfold faultEntry
      rw [(knifeTo_spec false _).2.1]
      exact hb

/-! ## The question and its answer -/

theorem suspended_iff (s : State) : sweepsSuspended s = true ↔ Suspended s := by
  simp [sweepsSuspended, faultStands, Suspended]

theorem not_suspended {s : State} (h : ¬Suspended s) : sweepsSuspended s = false := by
  rw [← Bool.not_eq_true, suspended_iff]
  exact h

theorem changeoverTest_iff (s : State) (r : Loaf) : changeoverTest s r = true ↔ ChangeoverDue r s := by
  unfold changeoverTest ChangeoverDue
  cases r.snapshot <;> cases r.mark <;> cases s.crumb.lastAdmitted <;> simp

theorem presented_iff (s : State) (r : Loaf) : Presented r s ↔ admissionOpen s = true ∧ r.measured ≠ none := by
  unfold admissionOpen moving pusherHome
  simp only [Bool.and_eq_true, decide_eq_true_eq, Bool.or_eq_true]
  exact ⟨fun h => ⟨⟨⟨⟨h.moves, h.empty⟩, h.home⟩, h.covered⟩, h.measured⟩,
    fun h => ⟨h.1.1.1.1, h.1.1.1.2, h.1.1.2, h.1.2, h.2⟩⟩

/-- The test on a record that is not presented changes nothing. -/
theorem testAdmission_waits (r : Loaf) (s : State) (h : oldestIn s .infeed = some r) (hp : ¬Presented r s) : testAdmission s = s := by
  rw [presented_iff] at hp
  unfold testAdmission
  rw [h]
  split
  · rename_i ho
    cases hm : r.measured with
    | none => simp only [hm]
    | some _ => exact absurd ⟨ho, by rw [hm]; exact Option.some_ne_none _⟩ hp
  · rfl

/-- The test on a presented record follows crumb control's answer. -/
theorem testAdmission_asks (r : Loaf) (s : State) (h : oldestIn s .infeed = some r) (hp : Presented r s) :
    testAdmission s = match crumbAnswer s r with
      | .take => takeLoaf r s
      | .takeNoClean => takeLoaf (r.withMark .noClean) s
      | .hold => if s.crumb.sweep.isNone && changeoverTest s r then askSweep .changeover s else s := by
  obtain ⟨ho, hm⟩ := (presented_iff s r).1 hp
  have has : ∀ (o : Option Measured) (t : State), o ≠ none → (match o with | none => s | some _ => t) = t := by
    intro o t ho
    cases o with
    | none => exact absurd rfl ho
    | some _ => rfl
  unfold testAdmission
  rw [if_pos ho, h]
  exact has r.measured _ hm

/-- A changeover makes CHANGEOVER pending and starts its sweep over an empty slicer (R113, R117). -/
theorem askSweep_changeover (r : Loaf) (s : State) (hp : Presented r s) (hs : s.crumb.sweep = none) (hn : s.crumb.pending = none)
    (hu : ¬Suspended s) : askSweep .changeover s = { s with crumb := { s.crumb with
      pending := some .changeover
      sweep := if ∀ q ∈ s.track.loaves, q.zone ≠ .slicer then
        some ⟨s.crumb.settings.sweepTime, s.crumb.settings.pressure, false, true, true, none⟩ else none } } := by
  have may : sweepMayStart (s.setCrumb { s.crumb with pending := some .changeover }) = decide (∀ q ∈ s.track.loaves, q.zone ≠ .slicer) := by
    have hh : pusherHome s.head = true := decide_eq_true hp.home
    have hl : s.sup.line ≠ .halted := by rcases hp.moves with k | k <;> rw [k] <;> decide
    show (true && s.crumb.sweep.isNone && !sweepsSuspended s && (oldestIn s .slicer).isNone && decide (s.head.state = .empty) &&
      pusherHome s.head && decide (s.sup.line ≠ .halted)) = _
    rw [none_in_zone, not_suspended hu, hs, hh, decide_eq_true hp.empty, decide_eq_true hl]
    simp only [Option.isNone_none, Bool.not_false, Bool.and_true, Bool.true_and]
  unfold askSweep
  rw [hn]
  show trySweep (s.setCrumb { s.crumb with pending := some .changeover }) = _
  unfold trySweep
  rw [may]
  by_cases hq : ∀ q ∈ s.track.loaves, q.zone ≠ .slicer
  · rw [if_pos (decide_eq_true hq), if_pos hq]
    rfl
  · rw [if_neg (by rw [decide_eq_false hq]; exact Bool.false_ne_true), if_neg hq, ← hs]
    rfl

/-- The admission test on the oldest INFEED record, to the end of its event (R62, R114). -/
theorem testAdmission_tested (r : Loaf) (s : State) (h : oldestIn s .infeed = some r) (hb : BeltRuns s) :
    AdmissionTested r s (finish (testAdmission s)) := by
  by_cases hp : Presented r s
  swap
  · rw [testAdmission_waits r s h hp]
    exact ⟨fun _ => finish_noticed s, fun k => absurd k hp, fun k => absurd k hp, fun k => absurd k hp⟩
  have key := testAdmission_asks r s h hp
  cases hs : s.crumb.sweep with
  | some w =>
    have still : testAdmission s = s := by
      rw [key]
      simp [crumbAnswer, hs]
    have no : s.crumb.sweep ≠ none := by
      rw [hs]
      exact Option.some_ne_none _
    rw [still]
    exact ⟨fun _ => finish_noticed s, fun _ k => absurd k no, fun _ k => absurd k no, fun _ k => absurd k no⟩
  | none =>
    by_cases hh : s.crumb.pending ≠ none ∧ ¬Suspended s
    · have still : testAdmission s = s := by
        have e : crumbAnswer s r = .hold := by simp [crumbAnswer, hs, not_suspended hh.2, Option.isSome_iff_ne_none, hh.1]
        rw [key, e]
        unfold askSweep
        cases hc : s.crumb.pending with
        | none => exact absurd hc hh.1
        | some _ => exact ite_self _
      rw [still]
      exact ⟨fun _ => finish_noticed s, fun _ _ k => absurd k hh.1, fun _ _ _ k => absurd k hh.2,
        fun _ _ k => (k.elim hh.1 hh.2).elim⟩
    · have free : (s.crumb.pending.isSome && !sweepsSuspended s) = false := by
        rw [← Bool.not_eq_true, Bool.and_eq_true, Bool.not_eq_true', Option.isSome_iff_ne_none, ← Bool.not_eq_true, suspended_iff]
        exact hh
      have goes : ¬(¬Presented r s ∨ s.crumb.sweep ≠ none ∨ (s.crumb.pending ≠ none ∧ ¬Suspended s)) :=
        fun k => k.elim (fun k => k hp) fun k => k.elim (fun k => k hs) hh
      by_cases hc : ChangeoverDue r s
      · have ht := (changeoverTest_iff s r).2 hc
        by_cases hu : Suspended s
        · have e : crumbAnswer s r = .takeNoClean := by simp [crumbAnswer, hs, ht, (suspended_iff s).2 hu]
          have hm : r.withMark .noClean = { r with mark := some .noClean } := by
            unfold Loaf.withMark
            rw [hc.1]
            rfl
          rw [key, e, hm]
          exact ⟨fun k => absurd k goes, fun _ _ _ _ k => absurd hu k,
            fun _ _ _ _ => AdmittedAs_noticed (takeLoaf_admits r _ s h hb) (finish_noticed _), fun _ _ _ k => absurd hc k⟩
        · have hn : s.crumb.pending = none := by
            by_contra k
            exact hh ⟨k, hu⟩
          have e : crumbAnswer s r = .hold := by simp [crumbAnswer, hs, ht, not_suspended hu]
          have ask : testAdmission s = askSweep .changeover s := by
            rw [key, e]
            simp [hs, ht]
          rw [ask, askSweep_changeover r s hp hs hn hu]
          exact ⟨fun k => absurd k goes, fun _ _ _ _ _ => finish_noticed _, fun _ _ _ k => absurd k hu, fun _ _ _ k => absurd hc k⟩
      · have e : crumbAnswer s r = .take := by
          have hf : changeoverTest s r = false := by
            rw [← Bool.not_eq_true, changeoverTest_iff]
            exact hc
          simp [crumbAnswer, hs, free, hf]
        rw [key, e]
        exact ⟨fun k => absurd k goes, fun _ _ _ k => absurd k hc, fun _ _ k => absurd k hc,
          fun _ _ _ _ => AdmittedAs_noticed (takeLoaf_admits r r.mark s h hb) (finish_noticed _)⟩

end Sys2Proof.Laws
end

