-- ==== Sys2Proof/Laws/PerInstr.lean ====
section
/-! SUPPORT. The per-command family `Carried`: every number that a well-formed request carries is a run of at most ten digits (R178). -/

namespace Sys2Proof.Laws

/-- The operands of a request that its line gives as decimal numbers. -/
def numerals : Instr → List Nat
  | .setInfeed (some n) => [n]
  | .setGeometry (some g) => [g.dStop, g.dTransfer, g.dReject, g.dExit, g.k, g.kp]
  | .reject (some n) => [n]
  | .writeRecipe (some w) => w.slot :: w.figures.numbers
  | .erase (some n) => [n]
  | .readRecipe (some n) => [n]
  | .run (some n) => [n]
  | .lock (some n) => [n]
  | .unlock (some n) => [n]
  | .tryPlan (some w) => [w.slot, w.length]
  | .loadBags (some w) => [w.amount]
  | .setStation (some w) => [w.bagClass, w.inService]
  | .setBagging (some w) => [w.openTimeout, w.scoopTime]
  | .loadClips (some w) => [w.amount]
  | .setTyer (some w) => [w.settings.s, w.settings.m, w.settings.l, w.settings.xl, w.settings.strike]
  | .setCrumb (some w) => [w.bladeThreshold, w.step, w.trayThreshold, w.sweepTime, w.pressure]
  | .setLimits (some w) => [w.channel, w.limits.faultLow, w.limits.warnLow, w.limits.warnHigh, w.limits.faultHigh, w.limits.deglitch]
  | .setSampling (some w) => [w.edgeDelay, w.hybridPeriod]
  | .setTrend (some w) => [w.channel, w.frequency]
  | .setMask (some w) => [w.masked]
  | .readHistory (some n) => [n]
  | .setPoint (some w) => [w.point, w.pullUp, w.report]
  | .writeOut (some w) => [w.point, w.level]
  | _ => []

theorem numberOk_lt {n : Nat} (h : numberOk n = true) : n < 10000000000 := by simpa [numberOk] using h

/-- What the family says of one command. -/
def Carried.Statement (i : Instr) : Prop := WellFormed i = true → ∀ n ∈ numerals i, numberOk n = true

theorem Carried.setInfeed (limit : Form Nat) : Carried.Statement (.setInfeed limit) := by
  cases limit <;> simp [Carried.Statement, WellFormed, formOk, numerals]
theorem Carried.setGeometry (g : Form Geometry) : Carried.Statement (.setGeometry g) := by
  cases g <;> simp +contextual [Carried.Statement, WellFormed, formOk, numbersOk, numerals]
theorem Carried.reject (tag : Form Nat) : Carried.Statement (.reject tag) := by
  cases tag <;> simp [Carried.Statement, WellFormed, formOk, numerals]
theorem Carried.purge (form : Form Unit) : Carried.Statement (.purge form) := fun _ n h => by cases h
theorem Carried.readTrack (form : Form Unit) : Carried.Statement (.readTrack form) := fun _ n h => by cases h
theorem Carried.writeRecipe (w : Form RecipeWrite) : Carried.Statement (.writeRecipe w) := by
  cases w <;> simp +contextual [Carried.Statement, WellFormed, formOk, numbersOk, numerals]
theorem Carried.erase (slot : Form Nat) : Carried.Statement (.erase slot) := by
  cases slot <;> simp [Carried.Statement, WellFormed, formOk, numerals]
theorem Carried.readRecipe (slot : Form Nat) : Carried.Statement (.readRecipe slot) := by
  cases slot <;> simp [Carried.Statement, WellFormed, formOk, numerals]
theorem Carried.run (slot : Form Nat) : Carried.Statement (.run slot) := by
  cases slot <;> simp [Carried.Statement, WellFormed, formOk, numerals]
theorem Carried.lock (slot : Form Nat) : Carried.Statement (.lock slot) := by
  cases slot <;> simp [Carried.Statement, WellFormed, formOk, numerals]
theorem Carried.unlock (slot : Form Nat) : Carried.Statement (.unlock slot) := by
  cases slot <;> simp [Carried.Statement, WellFormed, formOk, numerals]
theorem Carried.bypassOn (form : Form Unit) : Carried.Statement (.bypassOn form) := fun _ n h => by cases h
theorem Carried.bypassOff (form : Form Unit) : Carried.Statement (.bypassOff form) := fun _ n h => by cases h
theorem Carried.lockdown (form : Form Unit) : Carried.Statement (.lockdown form) := fun _ n h => by cases h
theorem Carried.readAccess (form : Form Unit) : Carried.Statement (.readAccess form) := fun _ n h => by cases h
theorem Carried.tryPlan (w : Form PlanTrial) : Carried.Statement (.tryPlan w) := by
  cases w <;> simp +contextual [Carried.Statement, WellFormed, formOk, numbersOk, numerals]
theorem Carried.readSlicer (form : Form Unit) : Carried.Statement (.readSlicer form) := fun _ n h => by cases h
theorem Carried.loadBags (w : Form StationLoad) : Carried.Statement (.loadBags w) := by
  cases w <;> simp +contextual [Carried.Statement, WellFormed, formOk, numerals]
theorem Carried.setDistribution (policy : Form (Option Policy)) : Carried.Statement (.setDistribution policy) := fun _ n h => by cases h
theorem Carried.setStation (w : Form StationSetting) : Carried.Statement (.setStation w) := by
  cases w <;> simp +contextual [Carried.Statement, WellFormed, formOk, numbersOk, numerals]
theorem Carried.setBagging (w : Form BaggingTimes) : Carried.Statement (.setBagging w) := by
  cases w <;> simp +contextual [Carried.Statement, WellFormed, formOk, numbersOk, numerals]
theorem Carried.readStations (form : Form Unit) : Carried.Statement (.readStations form) := fun _ n h => by cases h
theorem Carried.loadClips (w : Form StationLoad) : Carried.Statement (.loadClips w) := by
  cases w <;> simp +contextual [Carried.Statement, WellFormed, formOk, numerals]
theorem Carried.setTyer (w : Form TyerWrite) : Carried.Statement (.setTyer w) := by
  cases w <;> simp +contextual [Carried.Statement, WellFormed, formOk, numbersOk, numerals]
theorem Carried.readTyers (form : Form Unit) : Carried.Statement (.readTyers form) := fun _ n h => by cases h
theorem Carried.cleanNow (form : Form Unit) : Carried.Statement (.cleanNow form) := fun _ n h => by cases h
theorem Carried.setCrumb (w : Form CrumbSettings) : Carried.Statement (.setCrumb w) := by
  cases w <;> simp +contextual [Carried.Statement, WellFormed, formOk, numbersOk, numerals]
theorem Carried.readCrumb (form : Form Unit) : Carried.Statement (.readCrumb form) := fun _ n h => by cases h
theorem Carried.setLimits (w : Form LimitsWrite) : Carried.Statement (.setLimits w) := by
  cases w <;> simp +contextual [Carried.Statement, WellFormed, formOk, numbersOk, numerals]
theorem Carried.setSampling (w : Form SamplingWrite) : Carried.Statement (.setSampling w) := by
  cases w <;> simp +contextual [Carried.Statement, WellFormed, formOk, numbersOk, numerals]
theorem Carried.setTrend (w : Form TrendWrite) : Carried.Statement (.setTrend w) := by
  cases w <;> simp +contextual [Carried.Statement, WellFormed, formOk, numbersOk, numerals]
theorem Carried.readChannels (form : Form Unit) : Carried.Statement (.readChannels form) := fun _ n h => by cases h
theorem Carried.start (form : Form Unit) : Carried.Statement (.start form) := fun _ n h => by cases h
theorem Carried.stopDrain (form : Form Unit) : Carried.Statement (.stopDrain form) := fun _ n h => by cases h
theorem Carried.stopNow (form : Form Unit) : Carried.Statement (.stopNow form) := fun _ n h => by cases h
theorem Carried.setAction (w : Form ActionWrite) : Carried.Statement (.setAction w) := fun _ n h => by cases h
theorem Carried.clearFaults (form : Form Unit) : Carried.Statement (.clearFaults form) := fun _ n h => by cases h
theorem Carried.setMask (w : Form MaskWrite) : Carried.Statement (.setMask w) := by
  cases w <;> simp +contextual [Carried.Statement, WellFormed, formOk, numerals]
theorem Carried.readStatus (form : Form Unit) : Carried.Statement (.readStatus form) := fun _ n h => by cases h
theorem Carried.readFaults (form : Form Unit) : Carried.Statement (.readFaults form) := fun _ n h => by cases h
theorem Carried.reset (form : Form Unit) : Carried.Statement (.reset form) := fun _ n h => by cases h
theorem Carried.setClock (m : Form Moment) : Carried.Statement (.setClock m) := fun _ n h => by cases h
theorem Carried.readClock (form : Form Unit) : Carried.Statement (.readClock form) := fun _ n h => by cases h
theorem Carried.setShifts (pairs : Form (List ShiftPair)) : Carried.Statement (.setShifts pairs) := fun _ n h => by cases h
theorem Carried.closeShift (form : Form Unit) : Carried.Statement (.closeShift form) := fun _ n h => by cases h
theorem Carried.readTotals (form : Form Unit) : Carried.Statement (.readTotals form) := fun _ n h => by cases h
theorem Carried.readHistory (place : Form Nat) : Carried.Statement (.readHistory place) := by
  cases place <;> simp [Carried.Statement, WellFormed, formOk, numerals]
theorem Carried.setPoint (w : Form PointWrite) : Carried.Statement (.setPoint w) := by
  cases w <;> simp +contextual [Carried.Statement, WellFormed, formOk, numbersOk, numerals]
theorem Carried.takeEdges (form : Form Unit) : Carried.Statement (.takeEdges form) := fun _ n h => by cases h
theorem Carried.writeOut (w : Form OutWrite) : Carried.Statement (.writeOut w) := by
  cases w <;> simp +contextual [Carried.Statement, WellFormed, formOk, numbersOk, numerals]
theorem Carried.readPoints (form : Form Unit) : Carried.Statement (.readPoints form) := fun _ n h => by cases h
theorem Carried.setReports (kinds : Form (List ReportKind)) : Carried.Statement (.setReports kinds) := fun _ n h => by cases h
theorem Carried.ident (form : Form Unit) : Carried.Statement (.ident form) := fun _ n h => by cases h
theorem Carried.powerOn (straps : Straps) : Carried.Statement (.powerOn straps) := fun _ n h => by cases h
theorem Carried.resetLine (straps : Straps) : Carried.Statement (.resetLine straps) := fun _ n h => by cases h
theorem Carried.infeedEyeLeadingEdge : Carried.Statement (.infeedEyeLeadingEdge) := fun _ n h => by cases h
theorem Carried.infeedEyeTrailingEdge : Carried.Statement (.infeedEyeTrailingEdge) := fun _ n h => by cases h
theorem Carried.stopEyeLeadingEdge : Carried.Statement (.stopEyeLeadingEdge) := fun _ n h => by cases h
theorem Carried.exitEyeTrailingEdge : Carried.Statement (.exitEyeTrailingEdge) := fun _ n h => by cases h
theorem Carried.rejectEyeTrailingEdge : Carried.Statement (.rejectEyeTrailingEdge) := fun _ n h => by cases h
theorem Carried.exitRejectLeadingEdge (eye : EndEye) : Carried.Statement (.exitRejectLeadingEdge eye) := fun _ n h => by cases h
theorem Carried.beltEncoderStep (forward : Bool) : Carried.Statement (.beltEncoderStep forward) := fun _ n h => by cases h
theorem Carried.lengthCheckExpiry (tag : Nat) : Carried.Statement (.lengthCheckExpiry tag) := fun _ n h => by cases h
theorem Carried.stopCheckExpiry (tag : Nat) : Carried.Statement (.stopCheckExpiry tag) := fun _ n h => by cases h
theorem Carried.rejectCheckExpiry (tag : Nat) : Carried.Statement (.rejectCheckExpiry tag) := fun _ n h => by cases h
theorem Carried.exitCheckExpiry (tag : Nat) : Carried.Statement (.exitCheckExpiry tag) := fun _ n h => by cases h
theorem Carried.pusherEncoderStep (forward : Bool) : Carried.Statement (.pusherEncoderStep forward) := fun _ n h => by cases h
theorem Carried.cutBegin (elapsed : Nat) : Carried.Statement (.cutBegin elapsed) := fun _ n h => by cases h
theorem Carried.returnBegin (elapsed : Nat) : Carried.Statement (.returnBegin elapsed) := fun _ n h => by cases h
theorem Carried.parkChange (high : Bool) : Carried.Statement (.parkChange high) := fun _ n h => by cases h
theorem Carried.stallTimerExpiry : Carried.Statement (.stallTimerExpiry) := fun _ n h => by cases h
theorem Carried.bagEyeLeadingEdge (x : Station) : Carried.Statement (.bagEyeLeadingEdge x) := fun _ n h => by cases h
theorem Carried.bagEyeTrailingEdge (x : Station) : Carried.Statement (.bagEyeTrailingEdge x) := fun _ n h => by cases h
theorem Carried.bagOpenTimeout (x : Station) : Carried.Statement (.bagOpenTimeout x) := fun _ n h => by cases h
theorem Carried.releaseTimeout (x : Station) : Carried.Statement (.releaseTimeout x) := fun _ n h => by cases h
theorem Carried.travelCountExpiry (x : Station) : Carried.Statement (.travelCountExpiry x) := fun _ n h => by cases h
theorem Carried.scoopEnd (x : Station) : Carried.Statement (.scoopEnd x) := fun _ n h => by cases h
theorem Carried.strikeMidpoint (x : Station) : Carried.Statement (.strikeMidpoint x) := fun _ n h => by cases h
theorem Carried.strikeEnd (x : Station) : Carried.Statement (.strikeEnd x) := fun _ n h => by cases h
theorem Carried.riseTimerExpiry : Carried.Statement (.riseTimerExpiry) := fun _ n h => by cases h
theorem Carried.sweepTimerExpiry : Carried.Statement (.sweepTimerExpiry) := fun _ n h => by cases h
theorem Carried.conversionComplete (value : Raw) : Carried.Statement (.conversionComplete value) := fun _ n h => by cases h
theorem Carried.centreConversionDue : Carried.Statement (.centreConversionDue) := fun _ n h => by cases h
theorem Carried.edgeDelayExpiry : Carried.Statement (.edgeDelayExpiry) := fun _ n h => by cases h
theorem Carried.idleTimerExpiry : Carried.Statement (.idleTimerExpiry) := fun _ n h => by cases h
theorem Carried.beltWatchExpiry : Carried.Statement (.beltWatchExpiry) := fun _ n h => by cases h
theorem Carried.guardDoorChange (high : Bool) : Carried.Statement (.guardDoorChange high) := fun _ n h => by cases h
theorem Carried.trayFullChange (high : Bool) : Carried.Statement (.trayFullChange high) := fun _ n h => by cases h
theorem Carried.keyInputChange (key : Key) (on : Bool) : Carried.Statement (.keyInputChange key on) := fun _ n h => by cases h
theorem Carried.plainInputEdge (point : PointNo) (signal : Signal) : Carried.Statement (.plainInputEdge point signal) := fun _ n h => by cases h
theorem Carried.clockTick : Carried.Statement (.clockTick) := fun _ n h => by cases h
theorem Carried.requestLine : Carried.Statement (.requestLine) := fun _ n h => by cases h
theorem Carried.silenceTimeout : Carried.Statement (.silenceTimeout) := fun _ n h => by cases h
theorem Carried.lineSent : Carried.Statement (.lineSent) := fun _ n h => by cases h
theorem Carried.characterReceived (c : Byte) : Carried.Statement (.characterReceived c) := fun _ n h => by cases h
theorem Carried.trendPeriodStart : Carried.Statement (.trendPeriodStart) := fun _ n h => by cases h

end Sys2Proof.Laws
end

