-- ==== Sys2Proof/Tests/Slice0.lean ====
section
/-! SUPPORT. Small checks of the model on single steps: the refusals of the well-formedness check, the manual's worked examples, and for
every statement of Obligations.lean states and operands that meet its hypotheses, clause by clause. -/

namespace Sys2Proof.Tests

set_option Elab.async false

open Sys2Proof Sys2Proof.Machine Sys2Proof.Safety

/-! ## Helpers: small states -/

/-- The outcome is a next state. -/
def goesOn : Host.Outcome State Fault Refusal → Bool
  | .next _ => true
  | _ => false

/-- The state after a command. -/
def after (c : Instr) (s : State) : State :=
  match exec c s with
  | .next t => t
  | _ => s

/-- The text of the line being sent. -/
def lineOut (s : State) : Option Text := s.link.sending.map Sending.text

/-- The state after a request line, and the reply it starts. -/
def ask (line : String) (s : State) : State :=
  after .requestLine { s with link := { s.link with buffer := codes line, owed := none, pendingAnswer := none, sending := none } }

/-- The first line of a reply, sealed with its checksum. -/
def sealed (line : String) : Option Text := some (sealLine (codes line))

/-- Every point in FUNC1, the listed inputs driven high and the others low. -/
def wire (high : List Func) (s : State) : State :=
  { s with points := Vector.ofFn fun p => ⟨.func1, .pushPull, false, .never, false, false, false, true,
      decide (functionOf p .func1 ∈ high.map some)⟩ }

def white : Figures := ⟨120, 50, 40, 1000, 5000, 30, 1, 5, 0⟩

/-- STOPPED, an ENGINEER's key in, the guard closed, recipe 6 stored and selected, the printer's clock set. -/
def bench : State :=
  let s := wire [.guardDoor, .key .b] State.reset
  { s with
    recipes := { s.recipes with slots := s.recipes.slots.set 6 (some ⟨codes "WHITE", white, false⟩), runRecipe := some 6 }
    shift := { s.shift with clockSet := true }
    link := Link.powerOn }

def lineAs (l : LineState) (s : State) : State := { s with sup := { s.sup with line := l } }

/-- The same bench, RUNNING with the infeed released and the blade engaged. -/
def running : State :=
  let s := lineAs .running bench
  { s with
    track := { s.track with infeedHold := false }
    head := { s.head with knife := true }
    sup := { s.sup with beltWatch := true } }

/-- A planned loaf of 1290 units. -/
def loaf (tag : Nat) (z : Zone) : Loaf where
  tag := tag
  zone := z
  snapshot := some ⟨6, white, false⟩
  leadCount := 0
  measured := some ⟨1032, 1290⟩
  plan := some (planOf white 1290 1250)
  cutsDone := none
  mark := none
  station := none
  tie := none
  clipCode := none
  ejectCount := none
  check := none

def holding (ls : List Loaf) (s : State) : State := { s with track := { s.track with loaves := ls } }

/-- Loaf 1 of SLICER in the context, in a state, with its next cut, target and pusher count. -/
def slicing (h : HeadState) (next : Nat) (target pusher : Int) (s : State) : State :=
  let t := holding [{ loaf 1 .slicer with cutsDone := some (next - 1) }] s
  { t with head := { t.head with state := h, tag := some 1, nextCut := some next, target := target, pusher := pusher } }

def stationAs (x : Station) (f : StationRec → StationRec) (s : State) : State := setStation x (f (stationRec s x)) s

def faultAs (k : FaultKind) (f : FaultEntry → FaultEntry) (s : State) : State :=
  { s with sup := { s.sup with faults := s.sup.faults.set (faultIndex k) (f (faultEntry s k)) } }

/-- Loaf 1 at a station in a state. -/
def filled (x : Station) (st : StationState) (s : State) : State :=
  stationAs x (fun r => { r with state := st, tag := some 1 }) (holding [{ loaf 1 (.station x) with station := some x }] s)

/-- A station in TYING whose strike waits for its end with a judgement. -/
def striking (x : Station) (judged : Option TieResult) (misties : Nat) (s : State) : State :=
  let t := stationAs x (fun r => { r with misties := misties }) (filled x .tying s)
  setTyer x { tyerOf t x with stage := some ⟨60, judged.isNone, judged⟩ } t

def converting (s : State) : State := { s with meas := { s.meas with converter := some ⟨0, 0, .cut, none⟩ } }

/-- A busy transmitter with an empty queue and every kind enabled. -/
def listening (s : State) : State :=
  { s with link := { s.link with
      queue := [], enables := ⟨true, true, true, true, true, true⟩, sending := some ⟨.report, codes "#L RUNNING"⟩ } }

/-- The context PAUSED from a state. -/
def pausedFrom (h : HeadState) (s : State) : State := lineAs .stopped { s with
  head := { s.head with state := .paused, pausedFrom := some h, knife := false } }

def crumbAs (f : Crumb → Crumb) (s : State) : State := { s with crumb := f s.crumb }

/-- The converter runs a conversion of a channel for a requester. -/
def requested (c : Channel) (r : Option ConvRequest) (s : State) : State :=
  { s with meas := { s.meas with converter := some ⟨c, 0, .request, r⟩ } }

/-- A member without station B. -/
def small : State := { bench with member := .bl320 }

/-! ## The check refuses what cannot be written down -/

theorem test_numbers_of_eleven_digits_are_ill_formed :
    ∀ c ∈ [Instr.setInfeed (some 10000000000), .setGeometry (some ⟨10000000000, 0, 0, 0, 0, 0⟩), .reject (some 10000000000),
      .writeRecipe (some ⟨10000000000, codes "X", white⟩), .writeRecipe (some ⟨0, codes "X", { white with crumb := 10000000000 }⟩),
      .erase (some 10000000000), .readRecipe (some 10000000000), .run (some 10000000000), .lock (some 10000000000),
      .unlock (some 10000000000), .tryPlan (some ⟨0, 10000000000, true⟩), .loadBags (some ⟨.a, 10000000000⟩),
      .setStation (some ⟨.a, 10000000000, 0⟩), .setBagging (some ⟨0, 10000000000⟩), .loadClips (some ⟨.a, 10000000000⟩),
      .setTyer (some ⟨.a, 0, 0, 0, 0, 10000000000⟩), .setCrumb (some ⟨0, 0, 0, 0, 10000000000⟩),
      .setLimits (some ⟨0, 0, 0, 0, 0, 10000000000⟩), .setSampling (some ⟨[0], [1], none, 10000000000, 0⟩),
      .setTrend (some ⟨0, 10000000000⟩), .setMask (some ⟨none, 10000000000⟩), .readHistory (some 10000000000),
      .setPoint (some ⟨0, none, none, 10000000000, none, 0⟩), .writeOut (some ⟨0, 10000000000⟩)], WellFormed c = false := by
  decide +kernel

theorem test_other_ill_formed_terms :
    ∀ c ∈ [Instr.writeRecipe (some ⟨0, [], white⟩), .writeRecipe (some ⟨0, codes "A B", white⟩), .writeRecipe (some ⟨0, [0x7F], white⟩),
      .setSampling (some ⟨[1, 1], [], none, 0, 0⟩), .setSampling (some ⟨[], [10], none, 0, 0⟩),
      .setClock (some ⟨10000, 1, 1, 0, 0, 0⟩), .setClock (some ⟨2028, 1, 100, 0, 0, 0⟩), .setShifts (some []),
      .setShifts (some (List.replicate 5 ⟨0x41, 6, 0⟩)), .setShifts (some [⟨0x20, 6, 0⟩]), .setShifts (some [⟨0x41, 100, 0⟩]),
      .setReports (some [.w, .w]), .lengthCheckExpiry 0, .stopCheckExpiry 65536, .rejectCheckExpiry 0, .exitCheckExpiry 65536,
      .characterReceived 13], WellFormed c = false := by
  decide +kernel

theorem test_well_formed_terms :
    ∀ c ∈ [Instr.setInfeed (some 9999999999), .setInfeed none, .writeRecipe (some ⟨6, codes "WHITE", white⟩),
      .setSampling (some ⟨[1, 0], [], some .edge, 1234, 40⟩), .setShifts (some [⟨0x61, 6, 0⟩]), .lengthCheckExpiry 65535,
      .characterReceived 10], WellFormed c = true := by
  decide +kernel

/-! ## The table's words and the queue -/

theorem test_no_row_has_bits : decodeTableWord 8 0 = none ∧ (State.reset.withFetchWord 8 0).pending = [] := by decide +kernel

theorem test_reset_queue_is_empty : State.reset.pending = [] ∧ goesOn (step State.reset) = true := by decide +kernel

/-! ## Lines of the link (12) -/

theorem test_start_line_is_taken : lineOut (ask "START;8E" bench) = sealed "=START RUNNING" := by decide +kernel

theorem test_state_refusal_line : lineOut (ask "START;8E" running) = some (codes "!STATE;A2" ++ [13]) := by decide +kernel

theorem test_wrong_checksum_is_frame : lineOut (ask "START;8F" running) = sealed "!FRAME" := by decide +kernel

theorem test_lower_case_is_read : (ask "set bagging 1500 40;A5" bench).stations.times = ⟨1000, 50⟩ := by decide +kernel

theorem test_silence_discards_a_part_line :
    (after .silenceTimeout (after (.characterReceived 0x41) bench)).link.buffer = [] := by decide +kernel

theorem test_set_reports_example :
    lineOut (after (.setReports (some [.e, .c, .d])) bench) = sealed "=SET REPORTS DCE" := by decide +kernel

theorem test_ident_line : lineOut (after (.ident (some ())) bench) = sealed "=IDENT BL-340 C 1 1 1 POWER_ON" := by decide +kernel

/-! ## Worked examples of the manual, chapter by chapter -/

theorem test_set_infeed_example :
    let s := holding [loaf 42 .infeed, loaf 43 .infeed, loaf 44 .outfeed] { running with track := { running.track with infeedHold := true } }
    (after (.setInfeed (some 3)) s).track.infeedHold = false ∧ (after (.setInfeed (some 0)) s).track.infeedHold = true ∧
      (after (.setInfeed (some 9)) s).track.limit = 4 := by decide +kernel

theorem test_set_geometry_example :
    let s := holding [{ loaf 57 .outfeed with check := some ⟨.exit, 4200⟩ }] bench
    let t := after (.setGeometry (some ⟨500, 450, 900, 1200, 800, 1250⟩)) s
    t.track.geometry.dExit = 1200 ∧ t.track.loaves.head?.bind Loaf.check = some ⟨.exit, 4200⟩ := by decide +kernel

theorem test_write_recipe_example :
    let s := holding [loaf 88 .infeed] bench
    let t := after (.writeRecipe (some ⟨6, codes "WHITE", { white with thickness := 110, crumb := 45 }⟩)) s
    (t.recipes.slots[6]).map (fun r => (r.figures.thickness, r.locked)) = some (110, false) ∧ t.track = s.track := by decide +kernel

theorem test_witness_PlanArithmetic_units : unitsOf 3302 800 = 4128 ∧ unitsOf 1 2000 = 1 ∧ unitsOf 65535 200 = 327675 := by decide +kernel

theorem test_wide_heels_example :
    let p := planOf { white with thickness := 60, heel := 30, maxSlices := 4 } 7000 1250
    p.n = 2 ∧ p.leadHeel = 3440 ∧ p.trailHeel = 3440 ∧ p.cutCount = 3 := by decide +kernel

theorem test_try_plan_lines :
    ((after (.tryPlan (some ⟨6, 999, false⟩)) bench).link.sending.map Sending.text) = sealed "=TRY PLAN 0 999 SHORT - - - -" := by
  decide +kernel

theorem test_read_slicer_example :
    let s := slicing .cutting 12 1796 1795 running
    let t := { s with head := { s.head with phase := .cut, stamp := 5012 } }
    (after (.readSlicer (some ())) t).head = t.head := by decide +kernel

theorem test_load_bags_example :
    let t := after (.loadBags (some ⟨.a, 400⟩)) running
    t.stations.recs.a.magazine = 399 ∧ t.stations.recs.a.state = .opening ∧ t.stations.recs.a.attempt = some 1 ∧
      t.shift.openRecord.stations.a.drawn = 1 ∧ (warnEntry t (.bagsLow .a)).present = false ∧
      (warnEntry t (.bagsEmpty .a)).present = false := by decide +kernel

theorem test_set_bagging_example :
    lineOut (after (.setBagging (some ⟨1500, 40⟩)) bench) = sealed "=SET BAGGING 1000 50" := by decide +kernel

theorem test_load_clips_example :
    let s := setTyer .a { tyerOf running .a with spool := 70, clipsOut := true } (faultAs (.clipsOut .a) (fun e => { e with state := .active }) running)
    let t := after (.loadClips (some ⟨.a, 1200000⟩)) s
    (tyerOf t .a).spool = 999999 ∧ (faultEntry t (.clipsOut .a)).state = .latched ∧ (warnEntry t (.clipsLow .a)).present = false := by
  decide +kernel

theorem test_set_tyer_example :
    let t := after (.setTyer (some ⟨.b, 30, 85, 95, 130, 10⟩)) (setTyer .b { tyerOf bench .b with spool := 1500 } bench)
    (tyerOf t .b).settings = ⟨40, 85, 95, 120, 20⟩ ∧ (warnEntry t (.clipsLow .b)).present = true := by decide +kernel

theorem test_clean_now_example :
    let s := slicing .cutting 2 200 200 running
    let t := after (.cleanNow (some ())) { s with crumb := { s.crumb with trayLoad := 7400 } }
    t.crumb.pending = some .command ∧ t.crumb.sweep = none := by decide +kernel

theorem test_set_crumb_example :
    let s := slicing .cutting 2 200 200 { running with crumb := { running.crumb with trayLoad := 16000 } }
    let t := after (.setCrumb (some ⟨1500, 40, 15000, 12, 1100⟩)) s
    t.crumb.settings = ⟨1500, 50, 15000, 10, 1023⟩ ∧ t.crumb.pending = some .threshold ∧ (warnEntry t .crumbHigh).present = false := by
  decide +kernel

theorem test_set_limits_example :
    (after (.setLimits (some ⟨2, 0, 0, 520, 1200, 20⟩)) bench).meas.limits[2] = ⟨0, 0, 520, 1023, 15⟩ := by decide +kernel

theorem test_set_sampling_example :
    (after (.setSampling (some ⟨[1, 0], [], some .edge, 1234, 40⟩)) bench).meas.sampling = ⟨[0, 1], [], .edge, 1200, 50⟩ := by
  decide +kernel

theorem test_set_action_example :
    let s := faultAs .bladeHot (fun e => { e with state := .active }) (lineAs .draining (holding [loaf 1 .outfeed] running))
    (after (.setAction (some ⟨some .bladeHot, some .halt⟩)) s).sup.line = .draining := by decide +kernel

theorem test_close_shift_example :
    let s := holding [loaf 1 .outfeed, loaf 2 .outfeed, loaf 3 .infeed] bench
    let r := { freshRecord 1 0x45 (some 10289) 0 true 0 with loavesIn := 40, bagged := 35 }
    let full := List.replicate 8 (⟨freshRecord 1 0x41 none 0 false 0, 0, 0, false, .command⟩ : ClosedRecord)
    let t := after (.closeShift (some ())) { s with shift := { s.shift with openRecord := r, history := full } }
    t.shift.history.length = 8 ∧ t.shift.history.head?.map ClosedRecord.carriedOut = some 3 ∧
      t.shift.openRecord = freshRecord 1 0x45 (some 10289) 0 true 3 := by decide +kernel

theorem test_set_point_example :
    let s := after (.setPoint (some ⟨4, some .input, some .pushPull, 0, some .never, 0⟩)) bench
    let w : PointWrite := ⟨4, some .func2, some .pushPull, 1, some .never, 0⟩
    let free := fun u : State => { u with link := Link.powerOn }
    let t := after (.setPoint (some ⟨9, some .input, some .pushPull, 0, some .never, 0⟩)) (free s)
    lineOut (after (.setPoint (some w)) (free s)) = sealed "!IN_USE" ∧
      pointFunction (after (.setPoint (some w)) (free t)) 4 = some .trayFull := by decide +kernel

theorem test_take_edges_line :
    let s := { bench with points := bench.points.set 3 { bench.points[3] with latch := true } }
    lineOut (after (.takeEdges (some ())) s) = sealed "=TAKE EDGES 3" := by decide +kernel

theorem test_clock_wraps_after_2099 :
    (after .clockTick { bench with shift := { bench.shift with clock := 3155759999 } }).shift.clock = 0 := by decide +kernel

/-- The worked cases of section 6.7: entry 1's start minute, the moment, the shelf days, the day and month printed. -/
def dateCases : List (Nat × Moment × Nat × Nat × Nat) :=
  [(1320, ⟨2028, 2, 27, 23, 10, 0⟩, 4, 3, 3), (1320, ⟨2028, 2, 27, 21, 59, 0⟩, 4, 2, 3), (1320, ⟨2029, 1, 31, 22, 0, 0⟩, 0, 1, 2),
    (1320, ⟨2099, 12, 31, 23, 30, 0⟩, 5, 31, 12), (360, ⟨2027, 3, 1, 2, 30, 0⟩, 1, 1, 3), (360, ⟨2028, 3, 1, 2, 30, 0⟩, 0, 29, 2),
    (360, ⟨2031, 4, 30, 10, 0, 0⟩, 30, 30, 5), (360, ⟨2000, 1, 1, 5, 0, 0⟩, 0, 1, 1)]

theorem test_date_codes : ∀ c ∈ dateCases,
    (fun d : Date => (d.day, d.month)) (bestBefore c.1 (readingOf c.2.1) c.2.2.1) = c.2.2.2 := by decide +kernel

/-! ## Every statement's hypotheses are met: the track -/

theorem test_witness_StepRunsFrontCommand :
    let s : State := { bench with pending := [.clockTick, .lineSent] }
    s.pending = Instr.clockTick :: [.lineSent] ∧ goesOn (step s) = true := by decide +kernel

theorem test_witness_laws_kept_from_reset :
    let s : State := { State.reset with pending := [.clockTick] }
    s.head.knife = (moving s && decide (s.head.state ≠ .passing)) ∧ s.track.infeedHold = true ∧ holdOwed s = true ∧ s.sup.beltWatch = false ∧
      s.track.loaves.length ≤ 12 ∧ s.shift.history.length ≤ 8 ∧ s.link.queue.length ≤ 16 ∧ s.link.buffer.length ≤ 124 ∧
      s.crumb.bladeLoad ≤ 65535 ∧ s.crumb.trayLoad ≤ 65535 ∧ goesOn (step s) = true := by decide +kernel

theorem test_witness_laws_kept_while_running :
    let s : State := { holding [{ loaf 1 .reject with mark := some .short }] running with pending := [.rejectEyeTrailingEdge] }
    s.head.knife = (moving s && decide (s.head.state ≠ .passing)) ∧ s.sup.line = .running ∧ s.track.infeedHold = false ∧
      holdOwed s = false ∧ s.sup.beltWatch = true ∧ (∀ r ∈ s.track.loaves, r.zone = .reject → r.mark.isSome = true) ∧ goesOn (step s) = true := by
  decide +kernel

/-- A record in SLICER, one in TRANSFER and one at station A, each known to its owner. -/
def spread : State :=
  let s := slicing .cutting 2 200 200 running
  stationAs .a (fun r => { r with state := .filling, tag := some 3, travel := some 40 })
    (holding [{ loaf 3 (.station .a) with station := some .a }, loaf 2 .transfer, { loaf 1 .slicer with cutsDone := some 1 }]
      { s with track := { s.track with nextTag := 65535 }, pending := [.travelCountExpiry .a] })

theorem test_witness_TrackStaysInOrder : TrackInOrder spread ∧ StationsTimed spread ∧
    (∀ r ∈ spread.track.loaves, r.tag ≠ spread.track.nextTag) ∧ goesOn (step spread) = true := by
  refine ⟨⟨by decide +kernel, by decide +kernel, by decide +kernel, fun x => ?_, by decide +kernel, by decide +kernel,
    fun r h x => ?_, fun x => ?_⟩, ⟨fun x => ?_, fun x => ?_, fun x => ?_, fun x => ?_, fun x => ?_, fun x => ?_,
    fun x => ?_⟩, by decide +kernel, by decide +kernel⟩
  case refine_2 => revert r; cases x <;> decide +kernel
  all_goals cases x <;> decide +kernel

/-- START repeats the tying stage of a held station; at an empty spool it is skipped, and leaves no stage behind. -/
theorem test_witness_TrackStaysInOrder_held :
    let s := stationAs .a (fun r => { r with held := true }) (filled .a .tying bench)
    let t := after (.start (some ())) s
    ((stationRec s .a).held = true ∧ (stationRec s .a).scoopTimer = none ∧ (tyerOf s .a).stage = none ∧ (tyerOf s .a).spool = 0) ∧
      t.sup.line = .running ∧ (stationRec t .a).held = false ∧ (tyerOf t .a).stage = none ∧
      (t.track.loaves.map fun r => (r.zone, r.tie)) = [(.outfeed, some .untied)] := by decide +kernel

theorem test_witness_LevelWarningsFollow : WarningsFollow running ∧ bagsEmptyFollow running := by
  have none' : (warnEntry running .noStation).present = true ↔ noStationEver running := by
    have h : oldestIn running .transfer = none := by decide +kernel
    have w : (warnEntry running .noStation).present = false := by decide +kernel
    simp [noStationEver, h, w]
  refine ⟨⟨by decide +kernel, by decide +kernel, fun x => ?_, none', fun x => ?_, by decide +kernel⟩, fun x => ?_⟩ <;>
    cases x <;> decide +kernel

theorem test_witness_StoresKeepTheirLaws :
    let w : Sweep := ⟨3, 400, false, true, true, none⟩
    let s := { running with crumb := { running.crumb with sweep := some w, pending := some .command } }
    (s.crumb.sweep ≠ none ∧ (∀ r ∈ s.track.loaves, r.zone ≠ .slicer) ∧ s.sup.line ≠ .halted ∧ vacuumOn s = true) ∧
      (1 ≤ s.shift.schedule.length ∧ s.shift.schedule.length ≤ 4 ∧
        (∀ e ∈ s.shift.schedule, (65 ≤ e.letter.toNat ∧ e.letter.toNat ≤ 90) ∧ e.startMinute ≤ 1439)) ∧
      vacuumOn (after (.guardDoorChange false) s) = false ∧ vacuumOn (after .clockTick s) = true := by decide +kernel

theorem test_witness_TotalsBalance :
    let s : State := { holding [loaf 1 .outfeed] running with
      shift := { running.shift with openRecord := { running.shift.openRecord with loavesIn := 1 } }, pending := [.exitEyeTrailingEdge] }
    (∀ r ∈ s.track.loaves, r.zone = .reject → r.mark.isSome = true) ∧ s.shift.openRecord.loavesIn < Config.countCap ∧
      s.shift.openRecord.bagged < Config.countCap ∧ s.shift.openRecord.lost + s.track.loaves.length ≤ Config.countCap ∧
      s.shift.openRecord.rejected.total < Config.countCap ∧
      s.shift.openRecord.carriedIn + s.shift.openRecord.loavesIn =
        s.shift.openRecord.bagged + s.shift.openRecord.rejected.total + s.shift.openRecord.lost + s.track.loaves.length ∧
      s.shift.history = [] ∧ goesOn (step s) = true := by decide +kernel

theorem test_witness_LockdownKeepsLockedSlots :
    let s : State := { bench with
      recipes := { bench.recipes with slots := bench.recipes.slots.set 15 (some ⟨codes "BRAN", white, true⟩), lockdown := true }
      pending := [.erase (some 15)] }
    s.recipes.lockdown = true ∧ s.recipes.bypass = false ∧ (s.recipes.slots[15]).map Recipe.locked = some true ∧
      goesOn (step s) = true := by decide +kernel

theorem test_witness_laws_of_faults_and_recipes : faultsLawful State.reset ∧ recipesLawful State.reset := by
  have e : ∀ k ∈ allFaults, (faultEntry State.reset k).state = .inactive ∧ (faultEntry State.reset k).count = 0 := by decide +kernel
  have m : ∀ k, k ∈ allFaults := by
    intro k
    cases k with
    | station x => cases x <;> decide
    | clipsOut x => cases x <;> decide
    | _ => decide
  refine ⟨fun k => ⟨fun _ => ?_, ?_⟩, fun i h => ?_, fun h => ?_⟩
  · rw [(e k (m k)).1]; decide
  · rw [(e k (m k)).2]; decide
  · cases h
  · cases h

/-- An operator's bench: no key in. -/
def operator : State := { wire [.guardDoor] bench with link := Link.powerOn }

theorem test_witness_SetInfeedClampsLimit :
    Free bench ∧ tierOk bench .setter = true ∧ BeltRuns bench ∧ Free operator ∧ tierOk operator .setter = false ∧
      number (codes "X") = none ∧ (after (.powerOn ⟨true, true, true⟩) running).track.limit = 2 ∧
      ({ bench.link with sending := some ⟨.reply, codes "=RESET"⟩, owed := some ⟨[], true⟩ }).owed = some ⟨[], true⟩ := by decide +kernel

theorem test_witness_SetGeometryAllOrNothing :
    Free bench ∧ Free operator ∧ tierOk bench .engineer = true ∧ tierOk operator .engineer = false ∧ bench.sup.line = .stopped ∧
      running.sup.line ≠ .stopped ∧ ¬(50 ≤ 49) ∧ bench.track.loaves = [] ∧
      (holding [loaf 1 .outfeed] bench).track.loaves ≠ [] ∧ bench.track.geometry.k ≠ 2000 := by decide +kernel

theorem test_witness_RejectMarksAndDiverts :
    Free running ∧ findLoaf running 65535 = none ∧
      (∀ z ∈ [Zone.infeed, .slicer, .transfer, .station .a, .outfeed, .reject],
        findLoaf (holding [loaf 1 z] running) 1 = some (loaf 1 z)) ∧
      (slicing .cutting 2 200 200 running).head.state = .cutting ∧ 1 ≤ ({ loaf 1 .slicer with cutsDone := some 1 }).cutsDone.getD 0 ∧
      ({ loaf 1 .slicer with cutsDone := some 0 }).cutsDone.getD 0 = 0 ∧ (loaf 1 .slicer).mark = none ∧
      running.head.state ≠ .ejecting ∧ running.head.state ≠ .passing := by decide +kernel

theorem test_witness_RejectMarksAndDiverts_paused :
    let s := fun h n => pausedFrom h (slicing h n 200 200 running)
    let t := fun h n => after (.reject (some 1)) (s h n)
    (∀ h ∈ [HeadState.entering, .advancing, .cutting, .ejecting, .passing],
      (s h 1).head.state = .paused ∧ (s h 1).head.pausedFrom = some h ∧ Free (s h 1)) ∧
    ((t .advancing 1).head.pausedFrom = some .passing ∧ (t .advancing 1).head.nextCut = some 1) ∧
    ((t .advancing 3).head.pausedFrom = some .ejecting ∧ (t .advancing 3).head.nextCut = some 3) ∧
    (t .cutting 3).head.pausedFrom = some .ejecting ∧ lineOut (after (.reject (some 65536)) bench) = sealed "!RANGE" := by
  decide +kernel

theorem test_witness_PurgeEmptiesTrack :
    Free bench ∧ tierOk bench .setter = true ∧ bench.sup.line = .stopped ∧ Free running ∧ tierOk running .setter = true ∧
      running.sup.line = .running := by decide +kernel

theorem test_witness_PurgeEmptiesTrack_stations :
    let s := filled .a .tying bench
    let bag := stationAs .a (fun r => { r with magazine := 1 }) s
    let out := stationAs .a (fun r => { r with inServiceFlag := false }) s
    let state := fun u => ((stationRec (after (.purge (some ())) u) .a).state, (stationRec (after (.purge (some ())) u) .a).held)
    BeltRuns s ∧ (stationRec s .a).tag ≠ none ∧ (stationRec s .b).tag = none ∧ Held s (.bagEye .a) ∧ Held s (.blower .a) ∧
      inputHigh s (.bagEye .a) = false ∧ inService s .a = true ∧ inService out .a = false ∧ state s = (.empty, false) ∧
      state bag = (.opening, false) ∧ state (wire [.guardDoor, .key .b, .bagEye .a] bag) = (.ready, false) ∧
      state (lineAs .halted s) = (.opening, true) ∧ state out = (.outOfService, false) := by decide +kernel

/-- A track of 12 records. -/
def full (s : State) : State := holding ((List.range 12).map fun i => loaf (i + 1) .outfeed) s

theorem test_witness_InfeedEdgeOpensRecord :
    Held running .infeedEye ∧ running.sup.line = .running ∧ running.track.loaves.length < 12 ∧
      (holding ((List.range 11).map fun i => loaf (i + 1) .outfeed) running).track.loaves.length < 12 ∧ BeltRuns running ∧
      running.recipes.runRecipe = some 6 ∧ (running.recipes.slots[6]).isSome = true ∧ State.reset.recipes.runRecipe = none ∧
      (after .infeedEyeLeadingEdge running).track.loaves.length = 1 := by decide +kernel

theorem test_witness_InfeedEdgeOpensRecord_none :
    Held bench .infeedEye ∧ bench.sup.line = .stopped ∧ Held (full running) .infeedEye ∧ (full running).sup.line = .running ∧
      12 ≤ (full running).track.loaves.length ∧ (faultEntry running .trackOverrun).action = .halt ∧
      (after .infeedEyeLeadingEdge (full running)).sup.line = .halted := by decide +kernel

theorem test_witness_InfeedEdgeOpensRecord_halts :
    let s := listening (full (filled .a .tying (slicing .cutting 2 200 200 running)))
    let t := after .infeedEyeLeadingEdge s
    s.link.sending ≠ none ∧ s.link.queue = [] ∧ (faultEntry s .trackOverrun).action = .halt ∧ Held s .infeedEye ∧
      t.link.queue = [.fault .trackOverrun .latched 1, .line .halted] ∧ t.head.state = .interrupted ∧ (stationRec t .a).held = true := by
  decide +kernel

/-- A loaf whose length is open. -/
def open' (tag : Nat) : Loaf := { loaf tag .infeed with measured := none, plan := none, check := some ⟨.length, 6400⟩ }

/-- The belt count that makes that loaf's length `l` counts. -/
def beltAt (l : Nat) (s : State) : State := { s with track := { s.track with beltCount := BitVec.ofNat 32 l } }

theorem test_witness_TrailingEdgeFixesLength :
    let s := holding [open' 7] running
    Held s .infeedEye ∧ s.track.loaves.getLast? = some (open' 7) ∧ (open' 7).measured = none ∧ findLoaf s 7 = some (open' 7) ∧
      inputHigh s .stopEye = false ∧ (open' 7).mark = none ∧ unitsOf 799 800 < 1000 ∧ 1000 ≤ unitsOf 800 800 ∧
      unitsOf 4000 800 ≤ 5000 ∧ 5000 < unitsOf 4001 800 ∧
      ((after .infeedEyeTrailingEdge (beltAt 799 s)).track.loaves.map Loaf.mark) = [some .short] ∧
      ((after .infeedEyeTrailingEdge (beltAt 4001 s)).track.loaves.map Loaf.mark) = [some .double] ∧
      ((after .infeedEyeTrailingEdge (beltAt 800 s)).track.loaves.map fun r => r.plan.isSome) = [true] := by decide +kernel

theorem test_witness_TrailingEdgeFixesLength_covered :
    let covered := fun ls : List Loaf => beltAt 1032 (holding ls (wire [.guardDoor, .key .b, .stopEye] running))
    let s := covered [open' 7]
    let t := after .infeedEyeTrailingEdge s
    let second := after .infeedEyeTrailingEdge (covered [loaf 6 .infeed, open' 7])
    (oldestIn s .infeed = some (open' 7) ∧ inputHigh s .stopEye = true ∧ BeltRuns s) ∧
      (t.head.state = .entering ∧ t.track.loaves.map (fun r => (r.zone, r.check)) = [(.slicer, none)]) ∧
      second.head.state = .empty ∧ second.track.loaves.map Loaf.check = [none, none] := by decide +kernel

theorem test_witness_StopEdgePresentsLoaf :
    let s := holding [loaf 1 .infeed] running
    let m := holding [{ loaf 1 .infeed with mark := some .short, plan := none }] running
    Held s .stopEye ∧ oldestIn s .infeed = some (loaf 1 .infeed) ∧ findLoaf s 1 = some (loaf 1 .infeed) ∧ BeltRuns s ∧
      moving s = true ∧ s.head.state = .empty ∧ s.head.pusher.natAbs ≤ 2 ∧ (loaf 1 .infeed).measured ≠ none ∧
      s.crumb.sweep = none ∧ s.crumb.pending = none ∧ changeoverTest s (loaf 1 .infeed) = false ∧
      moving (holding [loaf 1 .infeed] bench) = false ∧ (after .stopEyeLeadingEdge s).head.state = .entering ∧
      (after .stopEyeLeadingEdge m).head.state = .passing := by decide +kernel

theorem test_witness_StopEdgePresentsLoaf_answers :
    let clean : Loaf := { loaf 1 .infeed with snapshot := some ⟨6, { white with clearBefore := 1 }, false⟩ }
    let s := crumbAs (fun c => { c with lastAdmitted := some 5 }) (holding [clean] running)
    let full := holding [clean, loaf 2 .slicer] s
    let swept := crumbAs (fun c => { c with sweep := some ⟨3, 400, false, true, true, none⟩ }) s
    let due := crumbAs (fun c => { c with pending := some .threshold }) s
    let tray := faultAs .trayFull (fun e => { e with state := .latched }) due
    let asked := fun u => after .stopEyeLeadingEdge u
    changeoverTest s clean = true ∧ oldestIn s .infeed = some clean ∧ findLoaf s 1 = some clean ∧
      (asked s).crumb.pending = some .changeover ∧ (asked s).crumb.sweep.isSome = true ∧
      (asked full).crumb.pending = some .changeover ∧ (asked full).crumb.sweep = none ∧
      (asked swept).head.state = .empty ∧ (asked due).head.state = .empty ∧
      ((asked tray).head.state = .passing ∧ (asked tray).track.loaves.map Loaf.mark = [some .noClean]) := by decide +kernel

theorem test_witness_ExitEdgeBagsOldest :
    let s := holding [loaf 1 .outfeed] running
    let d := lineAs .draining s
    Held s .exitEye ∧ oldestIn s .outfeed = some (loaf 1 .outfeed) ∧ BeltRuns s ∧ s.sup.line ≠ .draining ∧ Held d .exitEye ∧
      oldestIn d .outfeed = some (loaf 1 .outfeed) ∧ BeltRuns d ∧ d.sup.line = .draining ∧
      d.track.loaves.eraseP (fun l => decide (l.tag = 1)) = [] ∧
      (holding [loaf 1 .outfeed, loaf 2 .outfeed] d).track.loaves.eraseP (fun l => decide (l.tag = 1)) ≠ [] := by decide +kernel

theorem test_witness_RejectEdgeRejectsOldest :
    let r := { loaf 1 .reject with mark := some .short }
    let s := holding [r] running
    let two := holding [r, { loaf 2 .reject with mark := some .miscut }] running
    Held s .rejectEye ∧ oldestIn s .reject = some r ∧ r.mark = some .short ∧ BeltRuns s ∧ Held two .rejectEye ∧
      oldestIn two .reject = some r ∧ BeltRuns two ∧
      (two.track.loaves.eraseP (fun l => decide (l.tag = 1))).any (fun q => decide (q.zone = .reject)) = true := by decide +kernel

theorem test_witness_RejectEdgeRejectsOldest_drains :
    let r := { loaf 1 .reject with mark := some .short }
    let s := listening (lineAs .draining (holding [r] running))
    s.sup.line = .draining ∧ oldestIn s .reject = some r ∧ s.track.loaves.eraseP (fun l => decide (l.tag = 1)) = [] ∧
      (after .rejectEyeTrailingEdge s).link.queue = [.rejected 1 (some .short), .line .stopped] ∧
      (after .exitEyeTrailingEdge (holding [loaf 1 .outfeed] s)).link.queue = [.done 1 none, .line .stopped] := by decide +kernel

theorem test_witness_StrayEdges :
    Held running .exitEye ∧ Held running .rejectEye ∧ (∀ r ∈ running.track.loaves, r.zone ≠ .outfeed) ∧
      (∀ r ∈ running.track.loaves, r.zone ≠ .reject) ∧
      (warnEntry (after .exitEyeTrailingEdge running) .strayEdge).present = true ∧
      (warnEntry (after (.exitRejectLeadingEdge .exit) (holding [loaf 1 .outfeed] running)) .strayEdge).present = false := by
  decide +kernel

theorem test_witness_BeltStepsAndStalls :
    let s := faultAs .beltStall (fun e => { e with state := .active }) running
    BeltRuns running ∧ (faultEntry s .beltStall).state = .active ∧ s.track.infeedHold = false ∧
      (after (.beltEncoderStep true) running).track.beltCount = 1 := by decide +kernel

theorem test_witness_ExpiredCheckRaisesFault :
    (∀ k ∈ [CheckKind.length, .stop, .reject, .exit],
      findLoaf (holding [{ loaf 65535 .infeed with check := some ⟨k, 0⟩ }] running) 65535 =
        some { loaf 65535 .infeed with check := some ⟨k, 0⟩ }) ∧
      ({ loaf 1 .infeed with check := some ⟨.length, 1⟩ }).check ≠ some ⟨.length, 0⟩ ∧
      (faultEntry running .jamInfeed).action = .halt := by decide +kernel

theorem test_witness_ExpiredCheckRaisesFault_acts :
    let s := fun k => listening (holding [{ loaf 1 .outfeed with check := some ⟨k, 0⟩ }] running)
    let t := fun k => after (expiryOf k 1) (s k)
    (faultEntry running .jamOutfeed).action = .hold ∧ (t .exit).sup.line = .draining ∧ (t .exit).track.infeedHold = true ∧
      (t .exit).link.queue = [.fault .jamOutfeed .latched 1, .line .draining] ∧ (t .stop).sup.line = .halted ∧ BeltRuns (s .exit) := by
  decide +kernel

theorem test_witness_BeltStepsAndStalls_watch :
    let s := listening (holding [loaf 1 .infeed] running)
    let t := after .beltWatchExpiry s
    bench.sup.beltWatch = false ∧ s.sup.beltWatch = true ∧ BeltRuns s ∧ (faultEntry s .beltStall).action = .hold ∧
      s.sup.line = .running ∧ s.track.loaves ≠ [] ∧ (faultEntry t .beltStall).state = .latched ∧ t.sup.line = .draining ∧
      t.track.infeedHold = true ∧ Report.line .draining ∈ t.link.queue ∧
      (after .beltWatchExpiry (holding [] s)).sup.line = .stopped := by decide +kernel

/-! ## Recipes and the planner -/

/-- The bench with slot 6 locked, and the same under an enforced lockdown. -/
def locked : State :=
  { bench with recipes := { bench.recipes with slots := bench.recipes.slots.set 6 (some ⟨codes "WHITE", white, true⟩), frozen := true } }

def lockedDown : State := { locked with recipes := { locked.recipes with lockdown := true } }

/-- The conditions of R24 on figures, at the ends of the ranges. -/
def least : Figures := ⟨60, 30, 4, 1000, 1000, 0, 0, 0, 0⟩
def greatest : Figures := ⟨250, 150, 40, 6000, 7000, 255, 3, 30, 1⟩

theorem test_witness_RecipeSlotsFollowRequests :
    Free bench ∧ tierOk bench .setter = true ∧ (bench.recipes.slots[6]).any Recipe.locked = false ∧ bench.recipes.slots[6] ≠ none ∧
      bench.recipes.runRecipe = some 6 ∧ bench.recipes.slots[15] = none ∧ (bench.recipes.slots[15]).any Recipe.locked = false ∧
      ({ bench with recipes := { bench.recipes with runRecipe := none } }).recipes.runRecipe ≠ some 6 ∧
      figuresInRange true least = true ∧ figuresInRange true greatest = true ∧
      figuresInRange true { least with thickness := 59 } = false ∧ figuresInRange true { greatest with shelfDays := 31 } = false := by
  decide +kernel

theorem test_witness_RecipeSlotsFollowRequests_locked :
    (Free locked ∧ tierOk locked .engineer = true ∧ (locked.recipes.slots[6]).any Recipe.locked = true ∧
      locked.recipes.lockdown = false) ∧
    (Free lockedDown ∧ tierOk lockedDown .engineer = true ∧ (lockedDown.recipes.slots[6]).any Recipe.locked = true ∧
      lockedDown.recipes.lockdown = true ∧ lockedDown.recipes.bypass = false) := by decide +kernel

theorem test_witness_LocksAndRunRecipe :
    (Free bench ∧ bench.recipes.slots[6] = some ⟨codes "WHITE", white, false⟩ ∧ bench.recipes.lockdown = false ∧
      tierOk bench .engineer = true ∧ bench.recipes.frozen = false) ∧
    (Free lockedDown ∧ lockedDown.recipes.slots[6] = some ⟨codes "WHITE", white, true⟩ ∧ lockedDown.recipes.lockdown = true ∧
      lockedDown.recipes.bypass = false ∧ lockedDown.recipes.frozen = true ∧ tierOk lockedDown .engineer = true) ∧
    lineOut (after (.run (some 6)) { bench with recipes := { bench.recipes with lockdown := true } }) = sealed "!LOCKED" := by
  decide +kernel

theorem test_witness_LocksAndRunRecipe_refused :
    Free bench ∧ bench.recipes.slots[15] = none ∧ tierOk bench .engineer = true ∧
      (∀ c ∈ [Instr.run (some 16), .lock (some 16), .unlock (some 16)], lineOut (after c bench) = sealed "!RANGE") ∧
      ∀ c ∈ [Instr.run (some 15), .lock (some 15), .unlock (some 15)], lineOut (after c bench) = sealed "!NO_SUCH" := by decide +kernel

theorem test_witness_PlanArithmetic :
    (figuresInRange true least = true ∧ least.minLength ≤ 1000 ∧ 1000 ≤ least.maxLength ∧ 500 ≤ 500 ∧ 500 ≤ 4000) ∧
    (figuresInRange true greatest = true ∧ greatest.minLength ≤ 7000 ∧ 7000 ≤ greatest.maxLength ∧ 500 ≤ 4000 ∧ 4000 ≤ 4000) := by
  decide +kernel

theorem test_witness_TryPlanAnswersPlan :
    Free bench ∧ bench.recipes.slots[slotOf 15] = none ∧ bench.recipes.slots[slotOf 6] = some ⟨codes "WHITE", white, false⟩ ∧
      999 < white.minLength ∧ white.minLength ≤ 1000 ∧ 5000 ≤ white.maxLength ∧ white.maxLength < 5001 ∧ unitsOf 800 800 = 1000 := by
  decide +kernel

/-! ## The slicing head -/

theorem test_witness_CutIsCounted :
    let s := slicing .advancing 3 200 198 running
    let r := { loaf 1 .slicer with cutsDone := some 2 }
    s.head.knife = true ∧ s.head.state = .advancing ∧ headLoaf s = some r ∧ s.head.nextCut = some 3 ∧
      (s.head.pusher - s.head.target).natAbs ≤ 2 ∧ (after (.cutBegin 700) s).head.state = .cutting := by decide +kernel

theorem test_witness_CutIsCounted_crumb :
    let s := fun blade tray => listening (crumbAs (fun c => { c with bladeLoad := blade, trayLoad := tray })
      (slicing .advancing 3 200 202 running))
    let t := fun blade tray => after (.cutBegin 700) (s blade tray)
    (t 1969 0).crumb.bursting = false ∧ (t 1970 0).crumb.bursting = true ∧ (t 0 19969).crumb.pending = none ∧
      (t 0 19970).crumb.pending = some .threshold ∧ (warnEntry (t 0 39969) .crumbHigh).present = false ∧
      (warnEntry (t 0 39970) .crumbHigh).present = true ∧ Report.warning .crumbHigh true ∈ (t 0 39970).link.queue := by decide +kernel

theorem test_witness_MiscutAbandonsLoaf :
    let s := slicing .advancing 3 200 197 running
    let r := { loaf 1 .slicer with cutsDone := some 2 }
    let u := slicing .advancing 1 200 197 running
    let third := { s with head := { s.head with miscuts := 2 } }
    (s.head.knife = true ∧ s.head.state = .advancing ∧ headLoaf s = some r ∧ s.head.nextCut = some 3 ∧
      2 < (s.head.pusher - s.head.target).natAbs ∧ s.head.miscuts < 2 ∧ 1 ≤ r.cutsDone.getD 0) ∧
    (headLoaf u = some { loaf 1 .slicer with cutsDone := some 0 } ∧ (after (.cutBegin 700) u).head.state = .passing) ∧
    (2 ≤ third.head.miscuts ∧ (faultEntry (after (.cutBegin 700) third) .pusherFault).state = .latched) := by decide +kernel

theorem test_witness_MiscutAbandonsLoaf_halts :
    let s := slicing .advancing 3 200 203 running
    let t := after (.cutBegin 700) (listening { s with head := { s.head with miscuts := 2 } })
    (faultEntry s .pusherFault).action = .halt ∧ s.sup.line ≠ .halted ∧ t.head.state = .interrupted ∧
      t.link.queue = [.warning .miscut true, .fault .pusherFault .latched 1, .line .halted] := by decide +kernel

theorem test_witness_BladeTimesRevolutions :
    bench.head.knife = false ∧ running.head.knife = true ∧ running.head.state ≠ .advancing ∧ running.head.state ≠ .entering ∧
      running.head.state ≠ .cutting ∧ (after (.cutBegin 700) running).head.phase = .cut ∧ running.crumb.bursting = false ∧
      (after (.returnBegin 700) { running with
        head := { running.head with phase := .cut }
        crumb := { running.crumb with bursting := true, bladeLoad := 2000 } }).crumb.bladeLoad = 1500 := by decide +kernel

/-- A turning blade's phase with previous durations of 80000 and 40001 microseconds, a mode and an edge delay. -/
def timed (ph : BladePhase) (m : SampleMode) (delay : Nat) : State := { running with
  head := { running.head with phase := ph, cutTime := some 9, previous := some (80000, 40001) }
  meas := { running.meas with
    edgeRun := true, idleTimer := true, scan := [6], cutPointer := some 1
    sampling := ⟨[1, 3], [], m, delay, 121⟩ } }

theorem test_witness_BladeTimesRevolutions_timing :
    let due := fun (t : State) => (t.meas.centreTimer, t.meas.edgeTimer, t.meas.edgeRun)
    let cut := fun ph m d => after (.cutBegin 7) (timed ph m d)
    let ret := fun ph m d => after (.returnBegin 7) (timed ph m d)
    due (cut .cut .centre 500) = (some 40000, none, false) ∧ due (ret .cut .hybrid 500) = (some 20000, none, false) ∧
      due (cut .ret .centre 500) = (some 4, none, false) ∧ due (ret .cut .edge 500) = (none, some 500, false) ∧
      due (ret .cut .edge 0) = (none, none, true) ∧ (ret .cut .edge 0).meas.converter = none ∧
      ((cut .cut .edge 0).meas.converter = some ⟨1, 1, .cut, none⟩ ∧ (cut .cut .edge 0).meas.cutPointer = some 3) ∧
      ((cut .idle .edge 500).meas.idleTimer = false ∧ (cut .idle .edge 500).meas.scan = []) ∧
      (ret .ret .edge 500).head.cutTime = some 9 ∧ due (ret .idle .edge 500) = (none, none, true) ∧
      (timed .cut .edge 0).head.state ≠ .entering ∧ (timed .cut .edge 0).head.knife = true := by decide +kernel

theorem test_witness_BladeTimesRevolutions_contexts :
    let s := fun h p => slicing h 3 200 p { timed .cut .edge 500 with crumb := { running.crumb with bursting := true, bladeLoad := 2000 } }
    let uncut := slicing .advancing 1 200 197 (timed .cut .edge 500)
    let cut := fun h p => after (.cutBegin 7) (s h p)
    let ret := fun h => after (.returnBegin 7) (s h 200)
    ((s .advancing 200).head.knife = true ∧ (cut .advancing 200).head.stallTimer = some 240002 ∧
      (cut .advancing 200).meas.edgeTimer = some 500 ∧ (cut .advancing 200).head.phase = .cut) ∧
    ((cut .advancing 190).head.knife = true ∧ (cut .advancing 190).head.state = .ejecting ∧
      (cut .advancing 190).head.stallTimer = some 240002) ∧
    ((after (.cutBegin 7) uncut).head.knife = false ∧ (after (.cutBegin 7) uncut).head.stallTimer = none ∧
      (after (.cutBegin 7) uncut).head.phase = .idle ∧ (after (.cutBegin 7) uncut).meas.idleTimer = true) ∧
    (∀ h ∈ [HeadState.entering, .cutting], (ret h).head.cutTime = some 7 ∧ (ret h).crumb.airKnife = true ∧
      (ret h).crumb.bladeLoad = 1500 ∧ (ret h).meas.edgeTimer = some 500 ∧ (ret h).head.state = .advancing) := by decide +kernel

theorem test_witness_ReturnAdvancesContext :
    let s := slicing .entering 1 0 0 running
    let p := planOf white 1290 1250
    let done := slicing .cutting 11 1540 1540 running
    (s.head.knife = true ∧ s.head.state = .entering ∧ headLoaf s = some { loaf 1 .slicer with cutsDone := some 0 } ∧
      (loaf 1 .slicer).plan = some p ∧ s.head.nextCut = some 1 ∧ p.targets[0]?.isSome = true) ∧
    (done.head.state = .cutting ∧ headLoaf done = some { loaf 1 .slicer with cutsDone := some 10 } ∧ p.targets[10]? = none ∧
      2 < (done.head.pusher - (p.ejectTarget : Int)).natAbs) := by decide +kernel

theorem test_witness_PusherStepMovesContext :
    let s := slicing .ejecting 12 400 397 running
    let ready := stationAs .a (fun r => { r with state := .ready }) s
    let homing := { running with head := { running.head with state := .homing, pusher := 3 } }
    (slicing .entering 1 0 0 running).head.state = .entering ∧
    (s.head.state = .ejecting ∧ headLoaf s = some { loaf 1 .slicer with cutsDone := some 11 } ∧
      (s.head.pusher + 1 - s.head.target).natAbs ≤ 2 ∧ (∀ q ∈ s.track.loaves, q.zone ≠ .transfer) ∧ s.sup.line ≠ .halted) ∧
    ((loaf 1 .slicer).mark = none ∧ (∀ q ∈ ready.track.loaves, q.zone ≠ .reject) ∧ (loaf 1 .slicer).bagClass = some 1 ∧
      chooseStation ready 1 = some .a) ∧
    (homing.head.state = .homing ∧ inputHigh homing .stopEye = false ∧ homing.crumb.pending = none ∧
      (homing.head.pusher - 1).natAbs ≤ 2 ∧ 2 < (homing.head.pusher + 1).natAbs ∧
      (after (.pusherEncoderStep false) homing).head.state = .empty) := by decide +kernel

theorem test_witness_PusherStepMovesContext_more :
    let pass := slicing .passing 1 400 397 { running with head := { running.head with knife := false } }
    let marked := holding [{ loaf 1 .slicer with mark := some .short }] pass
    let blocked := holding [{ loaf 1 .slicer with cutsDone := some 11 }, loaf 2 .transfer] (slicing .ejecting 12 400 397 running)
    let away := wire [.guardDoor, .key .b, .stopEye] { running with head := { running.head with pusher := 3 } }
    let waits := holding [loaf 1 .infeed] away
    let due := crumbAs (fun c => { c with pending := some .command }) away
    let go := fun u b => after (.pusherEncoderStep b) u
    (pass.head.state = .passing ∧ (headLoaf pass).isSome = true ∧ (go pass true).head.state = .homing ∧ (go pass true).head.knife = true) ∧
      ((go marked true).track.loaves.map Loaf.zone) = [.reject] ∧ (go blocked true).head.state = .ejecting ∧
      (away.head.state = .empty ∧ 2 < away.head.pusher.natAbs ∧ (go waits true).head.state = .empty ∧
        (go waits false).head.state = .entering ∧ (go due false).crumb.sweep.isSome = true) ∧
      away.crumb.lastAdmitted = none ∧ waits.crumb.pending = none := by decide +kernel

theorem test_witness_PusherStepMovesContext_asks :
    let clean : Loaf := { loaf 1 .infeed with snapshot := some ⟨6, { white with clearBefore := 1 }, false⟩ }
    let away := wire [.guardDoor, .key .b, .stopEye] { running with head := { running.head with pusher := 3 } }
    let s := fun r last => crumbAs (fun c => { c with lastAdmitted := some last }) (holding [r] away)
    let tray := faultAs .trayFull (fun e => { e with state := .latched }) (s clean 5)
    let go := fun u => after (.pusherEncoderStep false) u
    (∀ r ∈ [clean, loaf 1 .infeed], ∀ l ∈ [(5 : Slot), 6], oldestIn (s r l) .infeed = some r ∧ BeltRuns (s r l) ∧
        (s r l).crumb.pending = none) ∧
      ((go (s clean 6)).head.state = .entering ∧ (go (s (loaf 1 .infeed) 5)).head.state = .entering) ∧
      ((go (s clean 5)).crumb.pending = some .changeover ∧ (go (s clean 5)).crumb.sweep.isSome = true) ∧
      (Suspended tray ∧ (go tray).track.loaves.map Loaf.mark = [some .noClean]) := by decide +kernel

theorem test_witness_ParkAndStallTimer :
    let s := { running with head := { running.head with stallTimer := some 1000000 } }
    bench.head.stallTimer = none ∧ s.head.stallTimer = some 1000000 ∧ (faultEntry s .bladeStall).action = .halt ∧
      (after .stallTimerExpiry s).sup.line = .halted := by decide +kernel

/-! ## Stations and tyers -/

theorem test_witness_LoadsReplaceStock :
    Free bench ∧ stationFitted bench.member .a = true ∧ (∀ r ∈ bench.track.loaves, r.zone ≠ .transfer) ∧ bench.head.state ≠ .ejecting ∧
      bench.head.state ≠ .passing ∧ (stationRec bench .a).state = .empty ∧ (stationRec bench .a).held = false ∧
      bench.sup.line ≠ .halted ∧ Held bench (.bagEye .a) ∧ Held bench (.blower .a) ∧ inputHigh bench (.bagEye .a) = false ∧
      tyerFitted bench .a = true ∧ (faultEntry bench (.clipsOut .a)).state ≠ .active ∧
      (stationRec (stationAs .a (fun r => { r with state := .ready }) bench) .a).state ≠ .empty := by decide +kernel

theorem test_witness_StationSettings :
    (Free bench ∧ tierOk bench .setter = true ∧ (∀ r ∈ bench.track.loaves, r.zone ≠ .transfer) ∧ bench.head.state ≠ .ejecting ∧
      bench.head.state ≠ .passing ∧ bench.member = .bl340 ∧ stationFitted bench.member .b = true ∧
      (stationRec bench .b).inServiceFlag = true ∧ tyerFitted bench .b = true) ∧
    (Free small ∧ tierOk small .setter = true ∧ small.member = .bl320) ∧
    (stationRec (stationAs .a (fun r => { r with state := .ready }) bench) .a).state = .ready ∧
    (stationRec (filled .a .filling bench) .a).state = .filling ∧
    tyerFitted { bench with options := ⟨true, ⟨false, false⟩⟩ } .a = false := by decide +kernel

theorem test_witness_StationSettings_returns :
    let out := stationAs .a (fun r => { r with state := .outOfService, inServiceFlag := false, misties := 2 }) bench
    let one := stationAs .a (fun r => { r with magazine := 1 }) out
    let back := fun u => stationRec (after (.setStation (some ⟨.a, 1, 1⟩)) u) .a
    (stationRec out .a).inServiceFlag = false ∧ faultHold out .a = false ∧ (stationRec out .a).held = false ∧
      faultHold (faultAs (.station .a) (fun e => { e with state := .latched }) out) .a = true ∧
      ((back out).state = .empty ∧ (back out).misties = 0) ∧ ((back one).state = .opening ∧ (back one).attempt = some 1) ∧
      (back (wire [.guardDoor, .key .b, .bagEye .a] one)).state = .ready ∧
      ((back (lineAs .halted out)).state = .opening ∧ (back (lineAs .halted out)).held = true) ∧
      (back (stationAs .a (fun r => { r with inServiceFlag := false }) (filled .a .filling bench))).state = .filling := by decide +kernel

theorem test_witness_BagEyeEdges :
    let opening := stationAs .a (fun r => { r with state := .opening, attempt := some 1, bagTimer := some 400 }) running
    let releasing := filled .a .releasing running
    let ready := stationAs .a (fun r => { r with state := .ready }) running
    (Held opening (.bagEye .a) ∧ (stationRec opening .a).state = .opening ∧ (stationRec opening .a).attempt ≠ none ∧
      opening.sup.line ≠ .halted ∧ (∀ r ∈ opening.track.loaves, r.zone ≠ .transfer) ∧ opening.head.state ≠ .ejecting ∧
      opening.head.state ≠ .passing) ∧
    (Held releasing (.bagEye .a) ∧ (stationRec releasing .a).state = .releasing ∧
      stationLoaf releasing .a = some { loaf 1 (.station .a) with station := some .a } ∧ inService releasing .a = true) ∧
    (Held ready (.bagEye .a) ∧ (stationRec ready .a).state = .ready) ∧
    (Held running (.bagEye .a) ∧ (stationRec running .a).state ≠ .opening ∧ (stationRec running .a).state ≠ .releasing ∧
      (stationRec running .a).state ≠ .ready) ∧
    inService (stationAs .a (fun r => { r with inServiceFlag := false }) releasing) .a = false := by decide +kernel

theorem test_witness_StationTimeouts :
    let first := stationAs .b (fun r => { r with state := .opening, attempt := some 1, bagTimer := some 400, magazine := 1 }) running
    let second := stationAs .b (fun r => { r with attempt := some 2 }) first
    let waiting := stationAs .b (fun r => { r with releaseTimer := some 400 }) (filled .b .releasing running)
    ((stationRec running .b).bagTimer = none ∧ (stationRec running .b).releaseTimer = none) ∧
    ((stationRec first .b).bagTimer ≠ none ∧ (stationRec first .b).attempt = some 1 ∧ 1 ≤ (stationRec first .b).magazine ∧
      inputHigh first (.bagEye .b) = false) ∧
    ((stationRec second .b).bagTimer ≠ none ∧ (stationRec second .b).attempt ≠ some 1) ∧
    ((stationRec waiting .b).releaseTimer ≠ none ∧
      stationLoaf waiting .b = some { loaf 1 (.station .b) with station := some .b }) := by decide +kernel

theorem test_witness_StationTimeouts_last_bag :
    let s := stationAs .b (fun r => { r with state := .opening, attempt := some 1, bagTimer := some 400, magazine := 0 }) running
    (stationRec s .b).bagTimer ≠ none ∧ (stationRec s .b).magazine = 0 ∧ stationFitted s.member .b = true ∧
      (stationRec (after (.bagOpenTimeout .b) s) .b).state = .empty := by decide +kernel

theorem test_witness_ScoopLeadsToTying :
    let scooping := stationAs .a (fun r => { r with scoopTimer := some 150 }) (filled .a .filling running)
    let stocked := setTyer .a { tyerOf scooping .a with spool := 70 } scooping
    let bare := wire [.guardDoor, .key .b, .bagEye .a] { scooping with options := ⟨true, ⟨false, false⟩⟩ }
    ((stationRec running .a).travel ≠ some 0 ∧ (stationRec running .a).scoopTimer = none) ∧
    (stationRec (stationAs .a (fun r => { r with travel := some 0 }) running) .a).travel = some 0 ∧
    ((stationRec stocked .a).scoopTimer ≠ none ∧ tyerFitted stocked .a = true ∧
      clipLength (tyerOf stocked .a).settings (tieClass stocked .a) ≤ (tyerOf stocked .a).spool) ∧
    ((tyerOf scooping .a).spool < clipLength (tyerOf scooping .a).settings (tieClass scooping .a) ∧
      stationLoaf scooping .a = some { loaf 1 (.station .a) with station := some .a }) ∧
    ((stationRec bare .a).scoopTimer ≠ none ∧ tyerFitted bare .a = false ∧ inputHigh bare (.bagEye .a) = true ∧
      (stationRec bare .a).held = false ∧ (stationLoaf bare .a).isSome = true) := by decide +kernel

/-- Where a command leaves the loaves, with their tie results, and in which state station A. -/
def leftAt (c : Instr) (s : State) : List (Zone × Option TieResult) × StationState :=
  let t := after c s
  (t.track.loaves.map fun r => (r.zone, r.tie), (stationRec t .a).state)

/-- The release at the entry into RELEASING over a clear bag eye: without a tyer, at a short spool, and at a short spool under HALT. -/
theorem test_witness_ScoopLeadsToTying_releases :
    let s := stationAs .a (fun r => { r with scoopTimer := some 150 }) (filled .a .filling running)
    let bare := { s with options := ⟨true, ⟨false, false⟩⟩ }
    let halting := faultAs (.clipsOut .a) (fun e => { e with action := .halt }) s
    let covered := wire [.guardDoor, .key .b, .bagEye .a] s
    let again := faultAs (.clipsOut .a) (fun e => { e with state := .active }) halting
    let seen := leftAt (.scoopEnd .a)
    (inputHigh s (.bagEye .a) = false ∧ (stationRec s .a).held = false ∧ BeltRuns s ∧ inService bare .a = true) ∧
      seen bare = ([(.outfeed, some .notTied)], .empty) ∧ seen s = ([(.outfeed, some .untied)], .outOfService) ∧
      seen again = ([(.outfeed, some .untied)], .outOfService) ∧ seen halting = ([(.station .a, some .untied)], .releasing) ∧
      seen covered = ([(.station .a, some .untied)], .releasing) ∧ (stationRec (after (.scoopEnd .a) halting) .a).held = true := by
  decide +kernel

theorem test_witness_ScoopLeadsToTying_prints :
    let s := { bench with shift := { bench.shift with
      clock := 888621000, schedule := [⟨0x4E, 1320⟩, ⟨0x45, 360⟩, ⟨0x4C, 840⟩]
      openRecord := { bench.shift.openRecord with letter := 0x4E } } }
    s.shift.schedule.head?.map ShiftEntry.startMinute = some 1320 ∧ s.shift.openRecord.letter = BitVec.ofNat 8 0x4E ∧
      printedCode (clipCodeNow s 4) = codes "03.03 N" ∧ clipCodeText (clipCodeNow s 4) = codes "03.03/N" := by decide +kernel

theorem test_witness_StrikeJudgesTension :
    let half := striking .a none 0 running
    let s := fun j n => wire [.guardDoor, .key .b, .bagEye .a] (striking .a j n running)
    ((tyerOf half .a).stage = some ⟨60, true, none⟩ ∧ half.meas.converter = none ∧ half.meas.requests = [] ∧
      (converting half).meas.converter ≠ none) ∧
    ((tyerOf (s (some .tied) 0) .a).stage = some ⟨60, false, some .tied⟩ ∧
      stationLoaf (s (some .tied) 0) .a = some { loaf 1 (.station .a) with station := some .a } ∧
      inputHigh (s (some .tied) 0) (.bagEye .a) = true ∧ (stationRec (s (some .tied) 0) .a).held = false) ∧
    ((tyerOf (s (some .mistie) 1) .a).stage = some ⟨60, false, some .mistie⟩ ∧ (stationRec (s (some .mistie) 1) .a).misties < 2) ∧
    (2 ≤ (stationRec (s (some .mistie) 2) .a).misties ∧ (stationLoaf (s (some .mistie) 2) .a).isSome = true) := by decide +kernel

theorem test_witness_StrikeJudgesTension_releases :
    let s := fun j n => striking .a (some j) n running
    let halting := faultAs (.station .a) (fun e => { e with action := .halt }) (s .mistie 2)
    let mild := faultAs (.station .a) (fun e => { e with action := .nothing }) (s .mistie 2)
    let covered := wire [.guardDoor, .key .b, .bagEye .a] mild
    let seen := leftAt (.strikeEnd .a)
    let misties := fun u => (stationRec (after (.strikeEnd .a) u) .a).misties
    (inputHigh (s .tied 0) (.bagEye .a) = false ∧ (stationRec (s .tied 0) .a).held = false ∧ BeltRuns (s .tied 0)) ∧
      seen (s .tied 2) = ([(.outfeed, some .tied)], .empty) ∧ seen (s .mistie 1) = ([(.outfeed, some .mistie)], .empty) ∧
      seen mild = ([(.outfeed, some .mistie)], .outOfService) ∧ seen halting = ([(.station .a, some .mistie)], .releasing) ∧
      seen covered = ([(.station .a, some .mistie)], .releasing) ∧ (stationRec (after (.strikeEnd .a) halting) .a).held = true ∧
      [s .tied 2, s .mistie 1, mild].map misties = [0, 2, 3] := by decide +kernel

theorem test_witness_StrikeJudgesTension_limit :
    let s := fun live => requested 4 (some ⟨.station .a, live⟩) (striking .a none 0 running)
    let judged := fun v live => ((tyerOf (after (.conversionComplete v) (s live)) .a).stage).bind Strike.judged
    (running.meas.limits[(4 : Channel)]).warnLow = 300 ∧ judged 299 true = some .mistie ∧ judged 300 true = some .tied ∧
      judged 300 false = none := by decide +kernel

/-- An unmarked loaf in TRANSFER, with station A READY and loaded with its class. -/
def waiting (s : State) : State :=
  stationAs .a (fun r => { r with state := .ready, bagClass := 1, magazine := 40 }) (holding [loaf 9 .transfer] s)

theorem test_witness_WaitingLoafIsRoutedAgain :
    let w := loaf 9 .transfer
    let opening := stationAs .a (fun r => { r with state := .opening, attempt := some 1, bagTimer := some 400 }) (waiting running)
    let rejecting := holding [{ loaf 8 .reject with mark := some .short }, w] (waiting running)
    let zone := fun c s => (after c s).track.loaves.map Loaf.zone
    (oldestIn opening .transfer = some w ∧ findLoaf opening 9 = some w ∧ Held opening (.bagEye .a) ∧
      zone (.bagEyeLeadingEdge .a) opening = [.station .a] ∧
      (stationRec (after (.bagEyeLeadingEdge .a) opening) .a).travel =
        some (running.track.geometry.dTransfer * running.track.geometry.k / 100)) ∧
    (oldestIn rejecting .reject = some { loaf 8 .reject with mark := some .short } ∧ BeltRuns rejecting ∧
      (rejecting.track.loaves.map Loaf.tag).Nodup ∧ zone .rejectEyeTrailingEdge rejecting = [.station .a]) ∧
    (Free (waiting running) ∧ tierOk (waiting running) .setter = true ∧ (waiting running).member = .bl340 ∧
      zone (.loadBags (some ⟨.a, 50⟩)) (waiting running) = [.station .a] ∧
      zone (.setDistribution (some (some .aOnly))) (waiting running) = [.station .a] ∧
      zone (.setStation (some ⟨.a, 1, 1⟩)) (waiting running) = [.station .a] ∧
      zone (.setStation (some ⟨.a, 2, 1⟩)) (waiting running) = [.transfer]) := by decide +kernel

theorem test_witness_WaitingLoafIsRoutedAgain_leaves :
    let halted := lineAs .halted (waiting bench)
    let marked := lineAs .halted (holding [{ loaf 9 .transfer with mark := some .interrupted }] bench)
    let drives := holding [loaf 9 .transfer, { loaf 10 .slicer with cutsDone := some 11 }]
      (let s := slicing .ejecting 12 400 399 (waiting running)
       { s with head := { s.head with tag := some 10 } })
    let zone := fun c s => (after c s).track.loaves.map Loaf.zone
    (halted.sup.line = .halted ∧ (∀ x ∈ [Station.a, .b], faultHold halted x = false ∧ (stationRec halted x).state ≠ .opening) ∧
      zone (.clearFaults (some ())) halted = [.station .a] ∧ zone (.clearFaults (some ())) marked = [.reject] ∧
      zone (.setDistribution (some (some .aOnly))) halted = [.transfer]) ∧
    (drives.head.state = .ejecting ∧ (drives.head.pusher - drives.head.target).natAbs ≤ 2 ∧ (headLoaf drives).isSome = true ∧
      zone (.setDistribution (some (some .aOnly))) drives = [.station .a, .transfer] ∧
      (after (.setDistribution (some (some .aOnly))) drives).head.state = .homing) := by decide +kernel

/-! ## Crumb control and measurement -/

theorem test_witness_CrumbRequests :
    (Free bench ∧ bench.sup.line ≠ .halted ∧ bench.crumb.sweep = none ∧ bench.head.state = .empty ∧ bench.head.pusher.natAbs ≤ 2 ∧
      (∀ r ∈ bench.track.loaves, r.zone ≠ .slicer) ∧ sweepsSuspended bench = false ∧ tierOk bench .setter = true) ∧
    (Free (lineAs .halted bench) ∧ (lineAs .halted bench).sup.line = .halted) ∧
    (slicing .cutting 2 200 200 running).head.state ≠ .empty ∧
    sweepsSuspended (faultAs .trayFull (fun e => { e with state := .latched }) bench) = true := by decide +kernel

/-- A sweep under way. -/
def sweeping (w : Sweep) (s : State) : State := { s with crumb := { s.crumb with sweep := some w, pending := some .command } }

theorem test_witness_SweepTimers :
    let s := fun w => sweeping w running
    running.crumb.sweep = none ∧ (s ⟨3, 400, true, true, true, none⟩).meas.converter = none ∧
      (s ⟨3, 400, true, true, true, none⟩).meas.requests = [] ∧ (converting (s ⟨3, 400, true, true, true, none⟩)).meas.converter ≠ none ∧
      inputHigh (s ⟨3, 400, true, false, true, some .success⟩) .stopEye = false ∧
      (after .sweepTimerExpiry (s ⟨3, 400, true, false, true, some .success⟩)).crumb.sweep = none ∧
      (after .sweepTimerExpiry (s ⟨3, 400, true, false, true, some .weak⟩)).crumb.weakCount = 1 ∧
      1 ≤ ({ (s ⟨3, 400, true, false, true, some .weak⟩).crumb with weakCount := 1 }).weakCount := by decide +kernel

theorem test_witness_SweepTimers_ends :
    let w : Sweep := ⟨3, 400, false, false, true, none⟩
    let s := fun w => listening (requested 3 (some ⟨.crumb, true⟩) (sweeping w running))
    let t := fun v => after (.conversionComplete v) (s w)
    let late := after (.conversionComplete 399) (s { w with timerRunning := false })
    let again := after .sweepTimerExpiry (crumbAs (fun c => { c with weakCount := 1, pending := some .changeover })
      (s { w with judged := some .weak }))
    let kept := after .sweepTimerExpiry (crumbAs (fun c => { c with pending := some .changeover }) (s { w with judged := some .weak }))
    ((t 399).crumb.sweep.bind Sweep.judged = some .weak ∧ (t 400).crumb.sweep.bind Sweep.judged = some .success) ∧
      (late.crumb.sweep = none ∧ late.link.queue = [.warning .sweepWeak true, .sweep .command .weak 0]) ∧
      ((faultEntry again .vacuumFail).state = .latched ∧ again.crumb.pending = none ∧ again.crumb.weakCount = 0) ∧
      (kept.crumb.pending = some .changeover ∧ kept.crumb.sweep.isSome = true) ∧ inputHigh (s w) .stopEye = false := by decide +kernel

/-- A sweep that no point serves is weak, whatever the sample (R117). -/
theorem test_witness_SweepTimers_no_point :
    let w : Sweep := ⟨3, 0, false, false, true, none⟩
    let s := requested 3 (some ⟨.crumb, true⟩) (sweeping w running)
    let bare := { s with points := s.points.set 22 { s.points[22] with mode := .input } }
    (isHeld s .vacuum = true ∧ isHeld bare .vacuum = false) ∧
      (after (.conversionComplete 1023) s).crumb.sweep = some { w with reached := true, judged := some .success } ∧
      (after (.conversionComplete 1023) bare).crumb.sweep = some { w with judged := some .weak } := by decide +kernel

/-- The end of the hold over a loaf at the stop: taken after SUCCESS, a new sweep for a changeover, NO_CLEAN after the second weak sweep. -/
theorem test_witness_SweepTimers_admits :
    let clean : Loaf := { loaf 1 .infeed with snapshot := some ⟨6, { white with clearBefore := 1 }, false⟩ }
    let s := fun result weak => crumbAs (fun c => { c with lastAdmitted := some 5, weakCount := weak })
      (sweeping ⟨3, 400, false, false, true, some result⟩ (holding [clean] (wire [.guardDoor, .key .b, .stopEye] running)))
    let t := fun result weak => after .sweepTimerExpiry (s result weak)
    let judged := after (.conversionComplete 400) (requested 3 (some ⟨.crumb, true⟩)
      (crumbAs (fun c => { c with sweep := some ⟨3, 400, false, false, false, none⟩ }) (s .success 0)))
    ((s .success 0).head.state = .empty ∧ BeltRuns (s .success 0) ∧ oldestIn (s .success 0) .infeed = some clean) ∧
      ((t .success 0).head.state = .entering ∧ judged.head.state = .entering) ∧
      ((t .weak 0).crumb.pending = some .changeover ∧ (t .weak 0).crumb.sweep = some ⟨3, 400, false, true, true, none⟩) ∧
      ((t .weak 1).head.state = .passing ∧ (t .weak 1).track.loaves.map Loaf.mark = [some .noClean]) := by decide +kernel

theorem test_witness_MeasurementRequests :
    let s := converting bench
    let w : SamplingWrite := ⟨[7, 0], [], some .edge, 2049, 49⟩
    Free s ∧ tierOk s .setter = true ∧ tierOk s .engineer = true ∧ s.member = .bl340 ∧ (∀ d ∈ w.cutSet ++ w.retSet, d ≤ 7) ∧
      s.meas.converter ≠ none ∧ lineOut (after (.setTrend (some ⟨7, 1000⟩)) s) = sealed "=SET TREND 7 1000" ∧
      lineOut (after (.setTrend (some ⟨7, 300⟩)) s) = sealed "!RANGE" ∧
      lineOut (after (.setLimits (some ⟨7, 0, 1, 0, 2, 1⟩)) s) = sealed "!RANGE" ∧ WellFormed (.setSampling (some w)) = true ∧
      lineOut (after (.setSampling (some ⟨[1, 1], [], some .edge, 0, 50⟩)) s) = sealed "!SYNTAX" := by decide +kernel

theorem test_witness_ConversionCompletes :
    let tension := { bench with meas := { bench.meas with converter := some ⟨4, 0, .ret, none⟩ } }
    let waits := { tension with meas := { tension.meas with requests := [⟨.crumb, true⟩] } }
    bench.meas.converter = none ∧ tension.meas.converter = some ⟨4, 0, .ret, none⟩ ∧ tension.meas.trend.channel ≠ 4 ∧
      tension.meas.requests = [] ∧ tension.meas.centreDue = false ∧ tension.meas.edgeRun = false ∧ tension.meas.scan = [] ∧
      waits.meas.requests = [⟨.crumb, true⟩] ∧
      ((after (.conversionComplete 512) waits).meas.converter.map Conversion.channel) = some 3 := by decide +kernel

theorem test_witness_ConversionCompletes_next :
    let tension := requested 4 none running
    let run := fun ph => { tension with meas := { tension.meas with edgeRun := true }, head := { tension.head with phase := ph } }
    let next := fun u => (after (.conversionComplete 512) u).meas.converter.map Conversion.channel
    (tension.meas.cutPointer = some 0 ∧ tension.meas.sampling.cutSet ≠ [] ∧ tension.meas.retPointer = some 1) ∧
      next (run .cut) = some 0 ∧ next (run .ret) = some 1 ∧
      next { tension with meas := { tension.meas with scan := [6, 7] } } = some 6 ∧ next tension = none ∧
      (after (.conversionComplete 512) { tension with meas := { tension.meas with
        trend := { tension.meas.trend with channel := 4 } } }).meas.trend.value = 512 := by decide +kernel

theorem test_witness_ConversionCompletes_due :
    let run := fun v ph => { requested 6 v running with
      meas := { (requested 6 v running).meas with centreDue := true, retPointer := some 1 }, head := { running.head with phase := ph } }
    let t := fun v ph => (after (.conversionComplete 700) (run v ph)).meas
    ((run none .cut).meas.requests = [] ∧ (run none .cut).meas.cutPointer = some 0) ∧
      ((t none .cut).converter.map Conversion.channel = some 0 ∧ (t none .cut).centreDue = false) ∧
      ((t (some ⟨.station .a, false⟩) .ret).converter.map Conversion.channel = some 1 ∧
        (t (some ⟨.station .a, false⟩) .ret).samples[(6 : Channel)] = ⟨700, 0, .request⟩) ∧
      (after (.conversionComplete 700) { run none .cut with meas := { (run none .cut).meas with
        sampling := { running.meas.sampling with cutSet := [] } } }).meas.centreDue = false := by decide +kernel

theorem test_witness_ConversionCompletes_halts :
    let s := requested 7 none { running with meas := { running.meas with
      trend := { running.meas.trend with channel := 7, value := 5 }, bounds := running.meas.bounds.set (boundIndex .boardFault) ⟨false, 15⟩ } }
    let t := after (.conversionComplete 1023) s
    t.sup.line = .halted ∧ (t.meas.samples[(7 : Channel)]).value = 1023 ∧ t.meas.trend.value = 5 := by decide +kernel

theorem test_witness_BoundLimitsDeglitch :
    let s := fun b (c : Channel) p n => listening (requested c none { bench with
      meas := { bench.meas with bounds := bench.meas.bounds.set (boundIndex b) ⟨p, n⟩ } })
    let t := fun b c p n v => after (.conversionComplete v) (s b c p n)
    let warm := fun n v => (t .bladeWarn 2 false n v).meas.bounds[boundIndex .bladeWarn]
    let low := t .supplyFault 6 false 5 639
    (warm 7 480 = ⟨false, 0⟩ ∧ warm 6 481 = ⟨false, 7⟩ ∧ warm 7 481 = ⟨true, 0⟩) ∧
      Report.warning .bladeWarm true ∈ (t .bladeWarn 2 false 7 481).link.queue ∧
      ((t .supplyFault 6 false 5 640).meas.bounds[boundIndex .supplyFault] = ⟨false, 0⟩ ∧ (faultEntry low .supplyLow).state = .active ∧
        low.sup.line = .halted ∧ Report.fault .supplyLow .active 1 ∈ low.link.queue) ∧
      (faultEntry (after (.conversionComplete 640) (faultAs .supplyLow (fun e => { e with state := .active })
        (s .supplyFault 6 true 5))) .supplyLow).state = .latched := by decide +kernel

theorem test_witness_SamplingTimers :
    let due := { running with
      meas := { running.meas with centreTimer := some 350, edgeTimer := some 500 }, head := { running.head with phase := .cut } }
    let ret := { due with head := { due.head with phase := .ret } }
    (bench.meas.centreTimer = none ∧ bench.meas.edgeTimer = none ∧ bench.meas.idleTimer = true ∧
      ({ bench with meas := { bench.meas with idleTimer := false } }).meas.idleTimer = false) ∧
    (due.meas.centreTimer = some 350 ∧ due.meas.converter = none ∧ due.meas.requests = [] ∧ due.head.phase = .cut ∧
      due.meas.cutPointer = some 0 ∧ due.meas.sampling.cutSet ≠ [] ∧ (converting due).meas.converter ≠ none) ∧
    (ret.meas.edgeTimer = some 500 ∧ ret.head.phase = .ret ∧ ret.meas.retPointer = some 1 ∧ ret.meas.sampling.retSet ≠ []) ∧
    (bench.meas.converter = none ∧ bench.meas.requests = [] ∧ bench.meas.centreDue = false ∧ bench.meas.edgeRun = false ∧
      (after .idleTimerExpiry bench).meas.scan = [1, 2, 3, 6, 7]) := by decide +kernel

theorem test_witness_SamplingTimers_phases :
    let due := fun ph => { running with
      meas := { running.meas with centreTimer := some 350, edgeTimer := some 500 }, head := { running.head with phase := ph } }
    let empty := { due .cut with meas := { (due .cut).meas with sampling := ⟨[], [1], .edge, 500, 200⟩, cutPointer := none } }
    let next := fun u => u.meas.converter.map Conversion.channel
    next (after .centreConversionDue (due .ret)) = some 1 ∧ next (after .edgeDelayExpiry (due .cut)) = some 0 ∧
      next (after .centreConversionDue empty) = none ∧ empty.meas.sampling.cutSet = [] := by decide +kernel

/-! ## Supervision, the clock, the points, the link and the resets -/

theorem test_witness_StartRunsLine_answers :
    let go := fun s => lineOut (after (.start (some ())) s)
    go bench = sealed "=START RUNNING" ∧ go running = sealed "!STATE" ∧
      go { State.reset with link := Link.powerOn } = sealed "!NOT_CONFIGURED" ∧
      go (faultAs .bladeHot (fun e => { e with state := .latched }) bench) = sealed "!BLOCKED" ∧
      go { bench with recipes := { bench.recipes with runRecipe := none } } = sealed "!NO_RECIPE" ∧
      go { bench with shift := { bench.shift with clockSet := false } } = sealed "!NO_CLOCK" ∧
      go (stationAs .a (fun r => { r with inServiceFlag := false }) (stationAs .b (fun r => { r with inServiceFlag := false }) bench)) =
        sealed "!NO_STATION" := by decide +kernel

theorem test_witness_StartRunsLine_resumes :
    let s := fun h => pausedFrom h (slicing h 3 200 180 bench)
    let halted := fun n => let u := slicing .interrupted n 200 180 bench; { u with head := { u.head with pausedFrom := none } }
    let head := fun u => let t := after (.start (some ())) u; (t.head.state, t.head.nextCut, t.head.knife)
    head (s .cutting) = (.entering, some 3, true) ∧ head (s .ejecting) = (.ejecting, some 3, true) ∧
      head (s .passing) = (.passing, none, false) ∧ head (halted 1) = (.passing, none, false) ∧
      head (halted 3) = (.ejecting, some 3, true) ∧ (headLoaf (halted 3)).isSome = true := by decide +kernel

theorem test_witness_StartRunsLine_stations :
    let s := fun st f => stationAs .a (fun r => f { r with held := true }) (filled .a st bench)
    let t := fun u => stationRec (after (.start (some ())) u) .a
    let tied := setTyer .a { tyerOf bench .a with spool := 70 } (s .tying id)
    let wasted := fun u => ((after (.start (some ())) u).shift.openRecord.stations.get .a).wasted
    (s .filling id).stations.recs.b.held = false ∧ (s .filling id).stations.recs.a.held = true ∧
      (t (s .opening fun r => { r with attempt := some 1, magazine := 0 })).state = .empty ∧
      ((t (s .ready fun r => { r with magazine := 1 })).state = .opening ∧ (t (s .ready fun r => { r with magazine := 1 })).magazine = 0) ∧
      wasted (s .opening id) = 0 ∧ wasted (s .ready id) = 1 ∧
      (t (s .filling id)).scoopTimer = some 150 ∧ (t (s .filling fun r => { r with travel := some 9 })).scoopTimer = none ∧
      clipLength (tyerOf tied .a).settings (tieClass tied .a) = 70 ∧ (tyerOf (after (.start (some ())) tied) .a).spool = 0 ∧
      (t (s .releasing id)).tag = none ∧
      (t (wire [.guardDoor, .key .b, .bagEye .a] (s .releasing id))).releaseTimer = some 400 := by decide +kernel

theorem test_witness_StartRunsLine :
    Free bench ∧ bench.sup.line = .stopped ∧
      (∀ f ∈ [Func.infeedEye, .stopEye, .rejectEye, .exitEye, .infeedHold, .knifeRun, .pusherEnable, .rejectGate, .stationGate,
        .bagEye .a, .bagEye .b, .blower .a, .blower .b, .scoop .a, .scoop .b, .tie .a, .tie .b], Held bench f) ∧
      (∀ k ∈ allFaults, (faultEntry bench k).state = .inactive) ∧ bench.recipes.runRecipe = some 6 ∧ bench.recipes.lockdown = false ∧
      bench.shift.clockSet = true ∧ inService bench .a = true ∧ (stationRec bench .a).held = false ∧ (stationRec bench .b).held = false ∧
      BeltRuns bench ∧ (after (.start (some ())) bench).head.knife = true := by decide +kernel

theorem test_witness_StopEndsRun :
    let s := slicing .cutting 2 200 200 running
    Free s ∧ BeltRuns s ∧ s.sup.line = .running ∧ s.track.loaves ≠ [] ∧ s.head.state = .cutting ∧ running.track.loaves = [] ∧
      Free bench ∧ BeltRuns bench ∧ bench.sup.line = .stopped ∧ (after (.stopNow (some ())) s).head.state = .paused ∧
      lineOut (after (.stopDrain (some ())) s) = sealed "=STOP DRAINING" := by decide +kernel

theorem test_witness_StopEndsRun_sweep :
    let s := listening (sweeping ⟨3, 400, false, true, true, none⟩ (striking .a none 0 running))
    let t := after (.stopNow (some ())) { s with link := { s.link with owed := none } }
    Free s ∧ s.crumb.sweep ≠ none ∧ s.crumb.pending = some .command ∧ t.link.queue = [.line .stopped, .sweep .command .aborted 0] ∧
      (tyerOf t .a).stage = none ∧ (stationRec t .a).held = true ∧
      (after (.stopDrain (some ())) (listening running)).link.queue = [.line .draining, .line .stopped] := by decide +kernel

theorem test_witness_ClearFaultsReturnsLine :
    let s := lineAs .halted (faultAs .jamInfeed (fun e => { e with state := .latched }) bench)
    Free s ∧ s.sup.line = .halted ∧ lineOut (after (.clearFaults (some ())) s) = sealed "=CLEAR FAULTS 1 STOPPED" ∧
      lineOut (after (.clearFaults (some ())) (faultAs .guardOpen (fun e => { e with state := .active }) s)) =
        sealed "=CLEAR FAULTS 1 HALTED" := by decide +kernel

theorem test_witness_ClearFaultsReturnsLine_stations :
    let latched := fun k u => faultAs k (fun e : FaultEntry => { e with state := .latched }) u
    let out := latched (.station .a) (stationAs .a (fun r => { r with state := .outOfService, misties := 3 }) bench)
    let one := stationAs .a (fun r => { r with magazine := 1 }) out
    let t := fun u => stationRec (after (.clearFaults (some ())) u) .a
    let tray := crumbAs (fun c => { c with pending := some .command }) (latched .trayFull bench)
    ((stationRec out .a).inServiceFlag = true ∧ (stationRec out .a).held = false ∧ (faultEntry out (.clipsOut .a)).state ≠ .active) ∧
      (t out).state = .empty ∧ ((t one).state = .opening ∧ (t one).attempt = some 1) ∧
      ((t (lineAs .halted out)).state = .opening ∧ (t (lineAs .halted out)).held = true) ∧
      (t (latched (.clipsOut .a) (filled .a .filling bench))).state = .filling ∧
      (sweepsSuspended tray = true ∧ (after (.clearFaults (some ())) tray).crumb.sweep.isSome = true) ∧
      (after (.clearFaults (some ())) (listening out)).link.queue.head? = some (.fault (.station .a) .inactive 0) := by decide +kernel

theorem test_witness_SupervisionSettings :
    Free bench ∧ tierOk bench .setter = true ∧ tierOk bench .engineer = true ∧ faultExists bench.member (.station .b) = true ∧
      lineOut (after (.setAction (some ⟨some (.station .b), some .nothing⟩)) bench) = sealed "=SET ACTION STATION_B NONE" ∧
      lineOut (after (.setAction (some ⟨some .guardOpen, some .hold⟩)) bench) = sealed "!RANGE" ∧ Free small ∧
      lineOut (after (.setAction (some ⟨some (.clipsOut .b), some .hold⟩)) small) = sealed "!NOT_FITTED" ∧
      warnExists bench.member (.bagsLow .b) = true ∧ ReportKind.f ∉ [ReportKind.w, .d, .x, .c, .s, .e] ∧
      ReportKind.l ∉ [ReportKind.w, .d, .x, .c, .s, .e] ∧ WellFormed (.setReports (some [.e, .c, .d])) = true ∧
      lineOut (after (.setReports (some [.e, .c, .d])) bench) = sealed "=SET REPORTS DCE" ∧
      lineOut (after (.setReports (some [.e, .e])) bench) = sealed "!SYNTAX" := by decide +kernel

theorem test_witness_SwitchInputsTaken :
    let s := after (.guardDoorChange false) running
    Held running .guardDoor ∧ Held running .trayFull ∧ ¬Held State.reset .guardDoor ∧ (faultEntry running .guardOpen).state ≠ .active ∧
      (faultEntry s .guardOpen).state = .active ∧ s.sup.line = .halted ∧ (∀ k ∈ allFaults, (faultEntry running k).state = .inactive) ∧
      (faultEntry (after (.guardDoorChange true) s) .guardOpen).state = .latched ∧ Held running (.key .a) ∧
      ¬Held State.reset (.key .a) ∧ tier running = .engineer ∧ tier operator = .operator ∧
      tier (after (.keyInputChange .b false) (after (.keyInputChange .a true) bench)) = .setter := by decide +kernel

theorem test_witness_SwitchInputsTaken_tray :
    let w : Sweep := ⟨3, 400, false, true, true, none⟩
    let s := fun sweep => listening (crumbAs (fun c => { c with pending := some .changeover, sweep := sweep, lastAdmitted := some 5 }) running)
    let halts := fun sweep => faultAs .trayFull (fun e => { e with action := .halt }) (s sweep)
    let clean : Loaf := { loaf 1 .infeed with snapshot := some ⟨6, { white with clearBefore := 1 }, false⟩ }
    let waits := wire [.guardDoor, .key .b, .stopEye] (holding [clean] (s none))
    let t := fun u => after (.trayFullChange true) u
    (BeltRuns (s none) ∧ Held (s none) .trayFull ∧ sweepsSuspended (s none) = false ∧ (faultEntry (s none) .trayFull).state ≠ .active) ∧
      (t (s none)).crumb.pending = none ∧ ((t (s (some w))).crumb.pending = some .changeover ∧ (t (s (some w))).crumb.sweep = some w) ∧
      ((t (halts (some w))).crumb.pending = some .changeover ∧ (t (halts (some w))).crumb.sweep = none) ∧
      Report.sweep .changeover .aborted 0 ∈ (t (halts (some w))).link.queue ∧
      ((t waits).head.state = .passing ∧ (t waits).track.loaves.map Loaf.mark = [some .noClean]) := by decide +kernel

theorem test_witness_SwitchInputsTaken_latches :
    let act := fun k => listening (lineAs .running (faultAs k (fun e => { e with state := .active, action := .halt })
      (wire [.trayFull, .key .b] running)))
    let tray := after (.trayFullChange false) (act .trayFull)
    let guard := after (.guardDoorChange true) (act .guardOpen)
    BeltRuns (act .trayFull) ∧ (faultEntry tray .trayFull).state = .latched ∧ tray.sup.line = .halted ∧
      (faultEntry guard .guardOpen).state = .latched ∧ guard.sup.line = .halted ∧ Report.line .halted ∈ guard.link.queue := by
  decide +kernel

theorem test_witness_ShiftRequestsClose :
    let unset := { bench with shift := { bench.shift with clockSet := false } }
    let same := { bench with shift := { bench.shift with openRecord := { bench.shift.openRecord with bakeryDay := some 0 } } }
    Free bench ∧ tierOk bench .setter = true ∧ momentInRange ⟨2100, 1, 1, 0, 0, 0⟩ = false ∧
      WellFormed (.setClock (some ⟨2100, 1, 1, 0, 0, 0⟩)) = true ∧
      WellFormed (.setShifts (some [⟨0x61, 6, 0⟩, ⟨0x62, 6, 0⟩])) = true ∧
      momentInRange ⟨2000, 1, 1, 6, 0, 0⟩ = true ∧ momentInRange ⟨2099, 12, 31, 23, 59, 59⟩ = true ∧ unset.shift.clockSet = false ∧
      (after (.setClock (some ⟨2000, 1, 1, 6, 0, 0⟩)) same).shift.history = [] ∧
      (after (.setClock (some ⟨2099, 12, 31, 23, 59, 59⟩)) same).shift.history.length = 1 ∧
      lineOut (after (.setClock (some ⟨2000, 1, 2, 6, 0, 1⟩)) bench) = sealed "=SET CLOCK 2000-01-02 108001 A 2000-01-02" ∧
      lineOut (after (.readClock (some ())) bench) = sealed "=READ CLOCK 2000-01-01 0 0 1 A:06:00 1 2000-01-01" ∧
      lineOut (after (.setShifts (some [⟨0x61, 23, 59⟩, ⟨0x62, 0, 0⟩])) bench) = sealed "=SET SHIFTS A:23:59,B:00:00" ∧
      lineOut (after (.setShifts (some [⟨0x61, 6, 0⟩, ⟨0x62, 6, 0⟩])) bench) = sealed "!RANGE" ∧
      lineOut (after (.setShifts (some [])) bench) = sealed "!SYNTAX" ∧
      lineOut (after (.setShifts (some (List.replicate 5 ⟨0x41, 6, 0⟩))) bench) = sealed "!SYNTAX" := by decide +kernel

theorem test_witness_ClockTickCountsAndCloses :
    let s := { bench with shift := { bench.shift with clock := 21599 } }
    s.shift.clock ≤ 3155759999 ∧ s.shift.clockSet = true ∧ (s.shift.clock + 1) % 86400 = 360 * 60 ∧
      (s.shift.schedule.map ShiftEntry.startMinute) = [360] ∧ (after .clockTick s).shift.history.length = 1 ∧
      (after .clockTick bench).shift.history = [] := by decide +kernel

theorem test_witness_ClockTickCountsAndCloses_identity :
    let s := fun minute => { bench with shift := { bench.shift with
      clock := minute * 60, schedule := [⟨0x4E, 1320⟩, ⟨0x45, 360⟩, ⟨0x4C, 840⟩] } }
    (s 0).shift.schedule.head?.map ShiftEntry.startMinute = some 1320 ∧ (s 0).shift.schedule.length ≤ 4 ∧
      ([0, 359, 360, 839, 840, 1319, 1320, 1439].map fun m => entryNow (s m)) = [1, 1, 2, 2, 3, 3, 1, 1] ∧
      ([1319, 1320].map fun m => bakeryNow (s m)) = [0, 1] ∧
      ([58, 59, 60].map dateOfDay) = [⟨2000, 2, 28⟩, ⟨2000, 2, 29⟩, ⟨2000, 3, 1⟩] ∧ dateOfDay 36524 = ⟨2099, 12, 31⟩ ∧
      momentInRange ⟨2027, 2, 29, 0, 0, 0⟩ = false := by decide +kernel

theorem test_witness_PointTakesConfiguration :
    let put := fun (n : Nat) m s => lineOut (after (.setPoint (some ⟨n, some m, some .openDrain, 1, some .both, 1⟩)) s)
    let guarded := { bench with recipes := { bench.recipes with lockdown := true } }
    let bare := { State.reset with link := Link.powerOn }
    put 23 .input operator = sealed "!TIER" ∧ put 23 .input running = sealed "!STATE" ∧ put 8 .input guarded = sealed "!LOCKED" ∧
      put 0 .func2 bench = sealed "!NOT_AVAILABLE" ∧ put 18 .func1 { bare with member := .bl320 } = sealed "!NOT_FITTED" ∧
      put 18 .func2 bench = sealed "!IN_USE" ∧ put 23 .input bench = sealed "=SET POINT 23 IN OD 1 BOTH 1" ∧
      put 23 .func1 bench = sealed "=SET POINT 23 FUNC1 OD 0 NONE 0" ∧ moving bench = false ∧ tierOk bench .engineer = true := by
  decide +kernel

theorem test_witness_PointTakesConfiguration_moves :
    let s := { bench with points := bench.points.set 5 { bench.points[5] with driven := false } }
    let put := fun u b => after (.setPoint (some ⟨5, some .func1, some .pushPull, b, some .never, 0⟩)) u
    pointFunction s 5 = some .exitEye ∧ inputHigh s .exitEye = false ∧ inputHigh (put s 1) .exitEye = true ∧
      (warnEntry (put s 1) .strayEdge).present = true ∧ (warnEntry (put s 0) .strayEdge).present = false := by decide +kernel

theorem test_witness_PointTakesConfiguration_law : pointsLawful State.reset := by
  refine ⟨fun p q g hp => ?_, fun p h => ?_, fun p h => ?_, fun h => ?_⟩
  · have e : ∀ p : PointNo, pointFunction State.reset p = none := by decide +kernel
    rw [e p] at hp; cases hp
  · have e : ∀ p : PointNo, State.reset.points[p].pullUp = false := by decide +kernel
    exact e p
  · have e : ∀ p : PointNo, State.reset.points[p].edge = .never ∧ State.reset.points[p].report = false ∧
        State.reset.points[p].latch = false := by decide +kernel
    exact e p
  · exact absurd h (by decide +kernel)

theorem test_witness_EdgesAndLevelsTaken :
    let s := { bench with points := bench.points.set 23 ⟨.input, .pushPull, true, .both, true, false, false, true, false⟩ }
    let o := { bench with points := bench.points.set 23 ⟨.output, .pushPull, false, .never, false, false, false, true, false⟩ }
    s.points[23].mode = .input ∧ pointLevel s 23 = false ∧ s.points[23].edge = .both ∧ s.points[23].report = true ∧
      s.points[23].pullUp = true ∧ (after (.plainInputEdge 23 .high) s).points[23].latch = true ∧
      pointLevel (after (.plainInputEdge 23 .undriven) s) 23 = true ∧ Free s ∧ tierOk s .setter = true ∧ o.points[23].mode = .output ∧
      lineOut (after (.writeOut (some ⟨23, 1⟩)) o) = sealed "=WRITE OUT 23 1" ∧
      lineOut (after (.writeOut (some ⟨23, 1⟩)) s) = sealed "!STATE" := by decide +kernel

theorem test_witness_EdgesAndLevelsTaken_drive :
    let s := fun d (b : Bool) => { bench with points := bench.points.set 23 ⟨.output, d, false, .never, false, false, b, true, false⟩ }
    (terminalDrive (s .pushPull true) 23 = .drivenHigh ∧ terminalDrive (s .pushPull false) 23 = .drivenLow) ∧
      (terminalDrive (s .openDrain true) 23 = .letGo ∧ terminalDrive (s .openDrain false) 23 = .pulledLow) ∧
      terminalDrive bench 0 = .letGo ∧ (pointFunction running 11 = some .knifeRun ∧ pointLevel running 11 = true) := by decide +kernel

theorem test_witness_EdgesAndLevelsTaken_reports :
    let s := fun e (r : Bool) => listening { bench with points := bench.points.set 23 ⟨.input, .pushPull, false, e, r, false, false, true, false⟩ }
    let queue := fun e r => (after (.plainInputEdge 23 .high) (s e r)).link.queue
    queue .rise true = [.edge 23 true true] ∧ queue .fall true = [] ∧ queue .both false = [] ∧ (s .rise true).points[23].mode = .input ∧
      (warnEntry (after (.plainInputEdge 5 .high) bench) .strayEdge).present = true ∧ bench.points[5].mode ≠ .input := by decide +kernel

/-- Outside IN the level goes to the function's owner: the guard door opens and halts the line, the tray is full, an eye is covered. -/
theorem test_witness_EdgesAndLevelsTaken_owners :
    let s := listening running
    let t := after (.plainInputEdge 8 .low) s
    (s.points[8].mode ≠ .input ∧ pointFunction s 8 = some .guardDoor ∧ (∀ q, pointFunction s q = some .guardDoor → q = 8) ∧
      terminalLevel s.points[8] = true ∧ edgeCommand .guardDoor false = some (.guardDoorChange false)) ∧
      (t = after (.guardDoorChange false) s ∧ t.sup.line = .halted ∧ (faultEntry t .guardOpen).state = .active) ∧
      (t.points[8].latch = false ∧ t.link.queue = [.fault .guardOpen .active 1, .line .halted]) ∧
      (faultEntry (after (.plainInputEdge 9 .high) s) .trayFull).state = .active ∧
      (after (.plainInputEdge 0 .high) s).track.loaves.length = 1 := by decide +kernel

theorem test_witness_EdgesAndLevelsTaken_functions :
    let on := fun f u => (List.finRange 24).any fun p => decide (pointFunction u p = some f) && pointLevel u p
    let s := stationAs .a (fun r => { r with state := .filling, scoopTimer := some 9 }) running
    let drawn := stationAs .a (fun r => { r with state := .opening, attempt := some 1 }) running
    let set := fun n => { bench with
      points := bench.points.map fun q => { q with mode := .func2 }, meas := { bench.meas with trend := { bench.meas.trend with duty := n } } }
    on (.blower .a) s = true ∧ on (.scoop .a) s = true ∧ on (.blower .a) (lineAs .halted s) = false ∧ on (.blower .a) drawn = true ∧
      on (.scoop .a) (lineAs .halted s) = false ∧ on (.blower .a) running = false ∧
      (set 0).meas.trend.duty = 0 ∧ on .trend (set 0) = false ∧ on .trend (set 1023) = true := by decide +kernel

theorem test_witness_RefusalsChangeNothing :
    let busy := { bench with link := { bench.link with owed := some ⟨[codes "=X"], false⟩ } }
    Free bench ∧ isRequest (.setGeometry none) = true ∧ tierRank (tier operator) < tierRank (requestTier (.setGeometry none)) ∧
      Free operator ∧ ¬Free busy ∧ (after (.ident (some ())) busy).link.pendingAnswer = some .busy ∧
      isRequest (.run (some 15)) = true ∧ after (.run (some 15)) bench = answered (refusal .noSuch) bench ∧
      after (.run (some 16)) bench = answered (refusal .range) bench ∧
      after (.lockdown (some ())) bench =
        answered ⟨[codes "=LOCKDOWN"], false⟩ { bench with recipes := { bench.recipes with lockdown := true } } := by decide +kernel

theorem test_witness_ReceptionTakesLines :
    let s := { bench with link := { bench.link with buffer := codes "START;8E" } }
    (0x41 : Byte) ≠ 0x0A ∧ (0x41 : Byte) ≠ 0x0D ∧ bench.link.buffer = [] ∧ bench.link.silence = false ∧
      (after (.characterReceived 0x41) bench).link.silence = true ∧ s.link.buffer = codes "START" ++ [0x3B, 0x38, 0x45] ∧
      hexValue 0x38 = some 8 ∧ hexValue 0x45 = some 14 ∧ ((codes "START").map BitVec.toNat).sum % 256 = 16 * 8 + 14 ∧
      (codes "START").length ≤ 120 ∧ (∀ c ∈ s.link.buffer, 32 ≤ c.toNat ∧ c.toNat ≤ 126) ∧ Free s := by decide +kernel

theorem test_witness_TransmitterKeepsOrder :
    let u : Report := .line .halted
    let n : Report := .done 1 none
    let sending := fun k : TxKind => { bench.link with sending := some ⟨k, codes "=X"⟩ }
    u.urgent = true ∧ n.urgent = false ∧ bench.link.sending = none ∧ bench.link.enables.allow n = true ∧
      (sending .reply).sending = some ⟨.reply, codes "=X"⟩ ∧
      (report n { bench with link := { bench.link with queue := List.replicate 16 u } }).link.lost = true ∧
      (report u { bench with link := { bench.link with queue := u :: n :: List.replicate 14 u } }).link.queue.length = 16 ∧
      ({ bench.link.enables with d := false }).allow n = false ∧
      (after .lineSent { bench with link := { sending .report with queue := [n, u] } }).link.queue = [n] := by decide +kernel

theorem test_witness_ReadsAnswerAsTheStateStands :
    let c : ClosedRecord := ⟨freshRecord 1 0x41 none 0 false 0, 0, 0, false, .command⟩
    let s := { bench with shift := { bench.shift with history := List.replicate 8 c } }
    Free s ∧ s.shift.history[7]? = some c ∧ s.recipes.slots[15] = none ∧ s.recipes.slots[6] ≠ none ∧ tierOk s .engineer = true := by
  decide +kernel

theorem test_witness_PowerOnSetsEveryBlock :
    let t := after (.powerOn ⟨false, true, true⟩) (full running)
    t.sup.line = .stopped ∧ t.track.loaves = [] ∧ t.options = ⟨false, ⟨true, true⟩⟩ ∧ t.sup.resetCause = .powerOn := by decide +kernel

theorem test_witness_WarmResetsKeepAndClear :
    let s := { holding [loaf 1 .outfeed] running with link := { running.link with
      sending := some ⟨.reply, codes "=RESET"⟩, owed := some ⟨[], true⟩ } }
    let t := after .lineSent s
    s.link.sending = some ⟨.reply, codes "=RESET"⟩ ∧ s.link.owed = some ⟨[], true⟩ ∧ t.sup.resetCause = .message ∧
      t.track.loaves = [] ∧ t.shift.openRecord.lost = 1 ∧ t.sup.line = .stopped ∧
      (after (.resetLine ⟨true, true, true⟩) s).sup.resetCause = .resetLine := by decide +kernel

/-- The stations at a RESET message: a bag held is wasted, a station in service draws, and an open guard holds it. -/
theorem test_witness_WarmResetsKeepAndClear_stations :
    let reset := fun s : State => after .lineSent { s with link := { s.link with
      sending := some ⟨.reply, codes "=RESET"⟩, owed := some ⟨[], true⟩ } }
    let s := stationAs .a (fun r => { r with state := .ready, magazine := 40 })
      (stationAs .b (fun r => { r with inServiceFlag := false }) running)
    let covered := wire [.guardDoor, .key .b, .bagEye .a] s
    let open' := wire [.key .b] s
    let counts := fun u : State => (u.shift.openRecord.stations.a.wasted, u.shift.openRecord.stations.a.drawn)
    (holdsBag (stationRec s .a) = true ∧ Held s (.bagEye .a) ∧ Held s (.blower .a) ∧ stationFitted s.member .a = true) ∧
      (stationRec (reset s) .a = restartedRec s .a true ∧ (stationRec (reset s) .a).attempt = some 1 ∧ counts (reset s) = (1, 1)) ∧
      (stationRec (reset covered) .a).state = .ready ∧ stationRec (reset s) .b = restartedRec s .b true ∧
      ((reset open').sup.line = .halted ∧
        stationRec (reset open') .a = { restartedRec open' .a true with held := true, bagTimer := none }) ∧
      (stationRec (after (.resetLine ⟨true, true, true⟩) s) .a = restartedRec s .a false ∧
        counts (after (.resetLine ⟨true, true, true⟩) s) = (1, 0)) := by decide +kernel

end Sys2Proof.Tests
end

-- ==== The loaf track, proofs: the laws at reset and the hold ====
section
/-! The laws at reset (O10), the exact law of INFEED_HOLD (O4). -/

namespace Sys2Proof.LoafTrack

open Sys2Proof.Machine Sys2Proof.Safety Sys2Proof.Laws

/-! ## The state after reset -/

theorem reset_faultsLawful : faultsLawful State.reset := fun k => by
  obtain ⟨hstate, hcount⟩ := powerOn_faults .bl340 k
  have hentry : faultEntry State.reset k = (faultsPowerOn .bl340)[faultIndex k] := rfl
  rw [hentry, hstate, hcount]
  exact ⟨fun _ h => (by cases h), Nat.zero_le _⟩

theorem reset_pointsLawful : pointsLawful State.reset :=
  pointsLawful_of_inputs fun p => by simp [State.reset, Point.powerOn]

theorem reset_stationRec (x : Station) : stationRec State.reset x = StationRec.powerOn := by cases x <;> rfl

theorem reset_tyerOf (x : Station) : tyerOf State.reset x = Tyer.powerOn := by cases x <;> rfl

theorem reset_trackInOrder : TrackInOrder State.reset where
  tags := List.nodup_nil
  slicer := Nat.zero_le _
  transfer := Nat.zero_le _
  stations := fun _ => Nat.zero_le _
  context := fun _ h => by cases h
  free := fun _ => rfl
  held := fun _ h => by cases h
  idle := fun x _ => by rw [reset_stationRec]; rfl

theorem reset_stationsTimed : StationsTimed State.reset where
  bag := fun x h => absurd (by rw [reset_stationRec]; rfl) h
  travel := fun x h => absurd (by rw [reset_stationRec]; rfl) h
  scoop := fun x h => absurd (by rw [reset_stationRec]; rfl) h
  stage := fun x h => absurd (by rw [reset_tyerOf]; rfl) h
  release := fun x h => absurd (by rw [reset_stationRec]; rfl) h
  heldScoop := fun x _ => by rw [reset_stationRec]; rfl
  heldStage := fun x _ => by rw [reset_tyerOf]; rfl

theorem reset_warningsFollow : WarningsFollow State.reset where
  trackFull := by decide
  keyInvalid := by decide +kernel
  bagsLow := fun x => by cases x <;> decide
  noStation := ⟨fun h => (by cases h), fun ⟨_, h, _⟩ => by cases h⟩
  clipsLow := fun x => by cases x <;> decide
  crumbHigh := by decide

theorem reset_bagsEmptyFollow : bagsEmptyFollow State.reset := fun x => by cases x <;> decide

theorem reset_scheduleLaw : scheduleLaw State.reset := by
  refine ⟨by decide, by decide, fun first h => ?_⟩
  exact List.pairwise_singleton _ _

/-- Settles O10: every law holds of the state after reset, block by block. -/
theorem resetHasTheLaws : Obligations.ResetHasTheLaws :=
  ⟨rfl, rfl, fun h => (by cases h), Nat.zero_le _, fun _ h => (by cases h),
    ⟨rfl, fun _ h => (by cases h)⟩, Nat.zero_le _, ⟨by decide, Nat.zero_le _⟩,
    ⟨fun _ h => (by cases h), fun h => (by cases h)⟩, reset_faultsLawful, ⟨Nat.zero_le _, Nat.zero_le _⟩,
    fun h => (by cases h), ⟨by decide, by decide, by decide, by decide⟩, reset_pointsLawful, reset_trackInOrder,
    reset_stationsTimed, fun h => absurd rfl h, reset_scheduleLaw, reset_warningsFollow, reset_bagsEmptyFollow⟩

/-! ## One step -/

/-- Every step keeps the laws of every command, but for the queue that it takes its command from. -/
theorem step_lawful (s t : State) (h : step s = .next t) : ∃ (power : Bool) (rest : List Instr), Lawful power (s.setPending rest) t := by
  cases hp : s.pending with
  | nil =>
    unfold step at h
    rw [hp] at h
    injection h with h
    subst h
    exact ⟨false, s.pending, Lawful.refl s⟩
  | cons c rest =>
    rw [step_front c rest s hp] at h
    exact ⟨powersOn c, rest, exec_lawful c _ t h⟩

/-! ## The hold and the belt watch -/

/-- Settles O4: the laws of the hold and of the belt watch are carried over by every command (R8, R144). -/
theorem infeedHoldStands : Obligations.InfeedHoldStands := by
  unfold Obligations.InfeedHoldStands
  intro due s t h
  obtain ⟨power, rest, hl⟩ := step_lawful s t h
  exact ⟨hl.obeys.hold, hl.obeys.watch⟩

end Sys2Proof.LoafTrack
end

-- ==== The loaf track, proofs: the level warnings ====
section
/-! A disordered state in which SET INFEED leaves NO_STATION behind (O7). -/

namespace Sys2Proof.LoafTrack

open Sys2Proof.Machine Sys2Proof.Safety Sys2Proof.Laws

/-! ## The level warnings -/

/-- A record as a leading edge opens it, of a recipe of class 1, in a zone. -/
def plainLoaf (tag : Nat) (z : Zone) : Loaf :=
  ⟨tag, z, some ⟨0, ⟨120, 50, 40, 1000, 5000, 30, 1, 5, 0⟩, false⟩, 0, none, none, none, none, none, none, none, none, none⟩

/-- A RUNNING line whose context names the record that waits in TRANSFER (R12 gives no such state): BELT_STALL is ACTIVE with the action
HALT, both stations are EMPTY, NO_STATION is present, and SET INFEED 1 waits in the queue. -/
def crossed : State :=
  { State.reset with
    track := { Track.powerOn with loaves := [plainLoaf 1 .transfer, plainLoaf 2 .infeed], infeedHold := false }
    head := { Head.powerOn false false with state := .entering, tag := some 1, knife := true }
    sup := { State.reset.sup with
      line := .running
      faults := State.reset.sup.faults.set (faultIndex .beltStall) ⟨.active, .halt, 1, none, none, false⟩
      warnings := State.reset.sup.warnings.set (warnIndex .noStation) ⟨true, true, false⟩
      beltWatch := true }
    link := Link.powerOn
    pending := [.setInfeed (some 1)] }

/-- The state after SET INFEED on `crossed`: the hold it asserts ends BELT_STALL's condition, whose HALT interrupts record 1. -/
def crossedAfter : State := serve (svcSetInfeed (some 1)) (crossed.setPending [])

theorem step_crossed : step crossed = .next crossedAfter := rfl

theorem crossed_noStationEver : noStationEver crossed := by
  refine ⟨plainLoaf 1 .transfer, rfl, rfl, 1, rfl, fun x hx => ?_⟩
  obtain ⟨_, _, _, hstate⟩ := hx
  cases x <;> exact hstate rfl

theorem crossed_warningsFollow : WarningsFollow crossed where
  trackFull := by decide
  keyInvalid := by decide +kernel
  bagsLow := fun x => by cases x <;> decide
  noStation := ⟨fun _ => crossed_noStationEver, fun _ => by decide⟩
  clipsLow := fun x => by cases x <;> decide
  crumbHigh := by decide


theorem crossedAfter_present : (warnEntry crossedAfter .noStation).present = true := by decide +kernel

theorem crossedAfter_marked : (oldestIn crossedAfter .transfer).map Loaf.mark = some (some .interrupted) := by decide +kernel

theorem crossedAfter_not_noStationEver : ¬noStationEver crossedAfter := by
  rintro ⟨r, hr, hmark, _⟩
  have h := crossedAfter_marked
  rw [show oldestIn crossedAfter .transfer = some r from hr, Option.map_some, hmark] at h
  cases h

/-- Refutes O7: SET INFEED does not evaluate NO_STATION again, and in `crossed`, whose context names a record outside SLICER, the halt that
its review of the hold brings marks the record that waits in TRANSFER, so that NO_STATION stays present over a marked record. The statement
has no premise that the track is in order (R12). -/
theorem not_levelWarningsFollow : ¬ Obligations.LevelWarningsFollow := fun h =>
  crossedAfter_not_noStationEver
    (((h crossed crossedAfter step_crossed).1 crossed_warningsFollow).noStation.mp crossedAfter_present)
end Sys2Proof.LoafTrack
end

-- ==== The loaf track, proofs: the view of the track, the stations and the sweep ====
section
/-! What the laws of the track's order, of the stations' timers, of the sweep and of the schedule read of a state: its `View`, the laws on
views, and what a change of one part of a view needs to keep them. -/

namespace Sys2Proof.LoafTrack

open Sys2Proof.Machine Sys2Proof.Safety Sys2Proof.Laws

/-! ## The view of a state -/

/-- A record's place: its tag and its zone. -/
abbrev Place := Nat × Zone

/-- What the laws of order, of the timers, of the sweep and of the schedule read of a state. -/
structure View where
  places : List Place
  nextTag : Nat
  state : HeadState
  tag : Option Nat
  recs : Station → StationRec
  stages : Station → Option Strike
  sweep : Option Sweep
  line : LineState
  schedule : List ShiftEntry

/-- The place of a record. -/
def placeOf (r : Loaf) : Place := (r.tag, r.zone)

/-- The view of a state. -/
def view (s : State) : View where
  places := s.track.loaves.map placeOf
  nextTag := s.track.nextTag
  state := s.head.state
  tag := s.head.tag
  recs := stationRec s
  stages := fun x => (tyerOf s x).stage
  sweep := s.crumb.sweep
  line := s.sup.line
  schedule := s.shift.schedule

/-! ## The laws on views -/

/-- A station has no loaf in these states (R78). -/
def idleState (st : StationState) : Prop := st = .outOfService ∨ st = .empty ∨ st = .opening ∨ st = .ready

/-- A station's timers and its tyer's stage run in their states (R81, R88, R89, R99), with no scoop and no stage while it is held (R94). -/
structure TimedAt (r : StationRec) (k : Option Strike) : Prop where
  bag : r.bagTimer ≠ none → r.state = .opening
  travel : r.travel ≠ none → r.state = .filling
  scoop : r.scoopTimer ≠ none → r.state = .filling ∧ r.travel = none
  stage : k ≠ none → r.state = .tying
  release : r.releaseTimer ≠ none → r.state = .releasing
  heldScoop : r.held = true → r.scoopTimer = none
  heldStage : r.held = true → k = none

/-- A station whose timers all rest, with no tying stage, is timed. -/
theorem TimedAt.of_rest {r : StationRec} (hb : r.bagTimer = none) (ht : r.travel = none) (hs : r.scoopTimer = none)
    (hr : r.releaseTimer = none) : TimedAt r none :=
  ⟨fun h => absurd hb h, fun h => absurd ht h, fun h => absurd hs h, fun h => absurd rfl h, fun h => absurd hr h, fun _ => hs, fun _ => rfl⟩

theorem TimedAt.bag_none {r : StationRec} {k : Option Strike} (h : TimedAt r k) (hs : r.state ≠ .opening) : r.bagTimer = none :=
  Decidable.of_not_not fun e => hs (h.bag e)

theorem TimedAt.travel_none {r : StationRec} {k : Option Strike} (h : TimedAt r k) (hs : r.state ≠ .filling) : r.travel = none :=
  Decidable.of_not_not fun e => hs (h.travel e)

theorem TimedAt.scoop_none {r : StationRec} {k : Option Strike} (h : TimedAt r k) (hs : r.state ≠ .filling) : r.scoopTimer = none :=
  Decidable.of_not_not fun e => hs (h.scoop e).1

theorem TimedAt.stage_none {r : StationRec} {k : Option Strike} (h : TimedAt r k) (hs : r.state ≠ .tying) : k = none :=
  Decidable.of_not_not fun e => hs (h.stage e)

theorem TimedAt.release_none {r : StationRec} {k : Option Strike} (h : TimedAt r k) (hs : r.state ≠ .releasing) : r.releaseTimer = none :=
  Decidable.of_not_not fun e => hs (h.release e)

/-- A station knows the tag of the record in its zone, and has none where it holds no loaf (R78). -/
structure KnownAt (ps : List Place) (x : Station) (r : StationRec) : Prop where
  held : ∀ n, (n, .station x) ∈ ps → r.tag = some n
  idle : idleState r.state → r.tag = none

/-- Every station is timed. -/
def View.Timed (v : View) : Prop := ∀ x, TimedAt (v.recs x) (v.stages x)

/-- The track is in order. -/
structure View.InOrder (v : View) : Prop where
  tags : (v.places.map Prod.fst).Nodup
  transfer : ∀ n m, (n, .transfer) ∈ v.places → (m, .transfer) ∈ v.places → n = m
  context : ∀ n, (n, .slicer) ∈ v.places → v.tag = some n
  free : v.state = .empty ∨ v.state = .homing → v.tag = none
  stations : ∀ x, KnownAt v.places x (v.recs x)

/-- No record has the next tag (R3). -/
def View.Fresh (v : View) : Prop := ∀ p ∈ v.places, p.1 ≠ v.nextTag

/-- While a sweep runs, SLICER is empty and the line is not HALTED (R117). -/
def View.Swept (v : View) : Prop := v.sweep ≠ none → (∀ n, (n, .slicer) ∉ v.places) ∧ v.line ≠ .halted

/-- The schedule is that of R158. -/
def Scheduled (es : List ShiftEntry) : Prop :=
  (1 ≤ es.length ∧ es.length ≤ 4) ∧ (∀ e ∈ es, (65 ≤ e.letter.toNat ∧ e.letter.toNat ≤ 90) ∧ e.startMinute ≤ 1439) ∧
    ∀ first ∈ es.head?, (es.map fun e => (e.startMinute + 1440 - first.startMinute) % 1440).Pairwise (· < ·)

/-! ## The laws of the statements, read on the view -/

theorem mem_places {s : State} {n : Nat} {z : Zone} : (n, z) ∈ (view s).places ↔ ∃ r ∈ s.track.loaves, r.tag = n ∧ r.zone = z := by
  unfold view
  simp [placeOf]

/-- With tags that differ, a zone whose records all have one tag holds at most one. -/
theorem inZone_le_one {s : State} {z : Zone} (ht : (s.track.loaves.map Loaf.tag).Nodup)
    (h : ∀ r ∈ s.track.loaves, ∀ q ∈ s.track.loaves, r.zone = z → q.zone = z → r.tag = q.tag) : inZone s z ≤ 1 := by
  unfold inZone
  have hsub := List.filter_sublist (l := s.track.loaves) (p := fun r => decide (r.zone = z))
  have hnd := ht.sublist (hsub.map Loaf.tag)
  rcases hf : s.track.loaves.filter (fun r => decide (r.zone = z)) with _ | ⟨r, _ | ⟨q, _⟩⟩
  · simp [hf]
  · simp [hf]
  · rw [hf] at hnd
    have hr : r ∈ s.track.loaves.filter (fun r => decide (r.zone = z)) := hf ▸ List.mem_cons_self
    have hq : q ∈ s.track.loaves.filter (fun r => decide (r.zone = z)) := hf ▸ List.mem_cons_of_mem _ List.mem_cons_self
    simp only [List.mem_filter, decide_eq_true_eq] at hr hq
    exact absurd (h r hr.1 q hq.1 hr.2 hq.2) (by simp at hnd; exact hnd.1.1)

/-- A zone with at most one record names it by its tag. -/
theorem tag_of_inZone {s : State} {z : Zone} (h : inZone s z ≤ 1) {r q : Loaf} (hr : r ∈ s.track.loaves) (hq : q ∈ s.track.loaves)
    (zr : r.zone = z) (zq : q.zone = z) : r.tag = q.tag := by
  unfold inZone at h
  have mr : r ∈ s.track.loaves.filter (fun r => decide (r.zone = z)) := List.mem_filter.mpr ⟨hr, by simpa using zr⟩
  have mq : q ∈ s.track.loaves.filter (fun r => decide (r.zone = z)) := List.mem_filter.mpr ⟨hq, by simpa using zq⟩
  rcases hf : s.track.loaves.filter (fun r => decide (r.zone = z)) with _ | ⟨o, _ | ⟨p, _⟩⟩
  · rw [hf] at mr
    cases mr
  · rw [hf, List.mem_singleton] at mr mq
    rw [mr, mq]
  · rw [hf] at h
    simp at h

theorem stationsTimed_iff (s : State) : StationsTimed s ↔ (view s).Timed := by
  constructor
  · exact fun h x => ⟨h.bag x, h.travel x, h.scoop x, h.stage x, h.release x, h.heldScoop x, h.heldStage x⟩
  · exact fun h => ⟨fun x => (h x).bag, fun x => (h x).travel, fun x => (h x).scoop, fun x => (h x).stage, fun x => (h x).release,
      fun x => (h x).heldScoop, fun x => (h x).heldStage⟩

theorem places_tags (s : State) : (view s).places.map Prod.fst = s.track.loaves.map Loaf.tag := by
  unfold view
  rw [List.map_map]
  rfl

theorem trackInOrder_iff (s : State) : TrackInOrder s ↔ (view s).InOrder := by
  constructor
  · intro h
    refine ⟨places_tags s ▸ h.tags, fun n m hn hm => ?_, fun n hn => ?_, h.free, fun x => ⟨fun n hn => ?_, h.idle x⟩⟩
    · obtain ⟨r, hr, rfl, zr⟩ := mem_places.mp hn
      obtain ⟨q, hq, rfl, zq⟩ := mem_places.mp hm
      exact tag_of_inZone h.transfer hr hq zr zq
    · obtain ⟨r, hr, rfl, zr⟩ := mem_places.mp hn
      exact h.context r hr zr
    · obtain ⟨r, hr, rfl, zr⟩ := mem_places.mp hn
      exact h.held r hr x zr
  · intro h
    have ht : (s.track.loaves.map Loaf.tag).Nodup := places_tags s ▸ h.tags
    have hc : ∀ r ∈ s.track.loaves, r.zone = .slicer → s.head.tag = some r.tag :=
      fun r hr zr => h.context r.tag (mem_places.mpr ⟨r, hr, rfl, zr⟩)
    have hs : ∀ r ∈ s.track.loaves, ∀ x, r.zone = .station x → (stationRec s x).tag = some r.tag :=
      fun r hr x zr => (h.stations x).held r.tag (mem_places.mpr ⟨r, hr, rfl, zr⟩)
    refine ⟨ht, inZone_le_one ht fun r hr q hq zr zq => ?_, inZone_le_one ht fun r hr q hq zr zq => ?_,
      fun x => inZone_le_one ht fun r hr q hq zr zq => ?_, hc, h.free, hs, fun x => (h.stations x).idle⟩
    · exact Option.some.inj ((hc r hr zr).symm.trans (hc q hq zq))
    · exact h.transfer _ _ (mem_places.mpr ⟨r, hr, rfl, zr⟩) (mem_places.mpr ⟨q, hq, rfl, zq⟩)
    · exact Option.some.inj ((hs r hr x zr).symm.trans (hs q hq x zq))

theorem fresh_iff (s : State) : (∀ r ∈ s.track.loaves, r.tag ≠ s.track.nextTag) ↔ (view s).Fresh := by
  unfold View.Fresh view
  simp [placeOf]

theorem sweepLaw_iff (s : State) : sweepLaw s ↔ (view s).Swept := by
  have h : (∀ r ∈ s.track.loaves, r.zone ≠ .slicer) ↔ ∀ n, (n, Zone.slicer) ∉ (view s).places := by
    simp only [mem_places]
    exact ⟨fun h n ⟨r, hr, _, hz⟩ => h r hr hz, fun h r hr hz => h r.tag ⟨r, hr, rfl, hz⟩⟩
  unfold sweepLaw View.Swept
  rw [h]
  rfl

/-! ## What is kept -/

/-- The laws of the view carried over; the order of the track where the stations are timed. -/
structure Keeps (v w : View) : Prop where
  timed : v.Timed → w.Timed
  order : v.Timed → v.InOrder → w.InOrder
  swept : v.Swept → w.Swept
  schedule : Scheduled v.schedule → Scheduled w.schedule

theorem Keeps.refl (v : View) : Keeps v v := ⟨id, fun _ => id, id, id⟩

theorem Keeps.trans {u v w : View} (h : Keeps u v) (k : Keeps v w) : Keeps u w :=
  ⟨k.timed ∘ h.timed, fun a b => k.order (h.timed a) (h.order a b), k.swept ∘ h.swept, k.schedule ∘ h.schedule⟩

theorem Keeps.of_eq {v w : View} (h : w = v) : Keeps v w := h ▸ Keeps.refl v

/-- The laws of order, of the timers and of the schedule alone: what holds on the way to HALTED, until the sweep is aborted. -/
structure Orderly (v w : View) : Prop where
  timed : v.Timed → w.Timed
  order : v.Timed → v.InOrder → w.InOrder
  schedule : Scheduled v.schedule → Scheduled w.schedule

theorem Keeps.orderly {v w : View} (h : Keeps v w) : Orderly v w := ⟨h.timed, h.order, h.schedule⟩

theorem Orderly.trans {u v w : View} (h : Orderly u v) (k : Orderly v w) : Orderly u w :=
  ⟨k.timed ∘ h.timed, fun a b => k.order (h.timed a) (h.order a b), k.schedule ∘ h.schedule⟩

/-- With no sweep running at the end, the sweep's law holds there. -/
theorem Orderly.keeps {v w : View} (h : Orderly v w) (hs : w.sweep = none) : Keeps v w :=
  ⟨h.timed, h.order, fun _ k => absurd hs k, h.schedule⟩

/-- The same where the next tag is fresh: the premise of an event that opens a record. -/
structure KeepsFresh (v w : View) : Prop where
  timed : v.Timed → w.Timed
  order : v.Timed → v.InOrder → v.Fresh → w.InOrder
  swept : v.Swept → w.Swept
  schedule : Scheduled v.schedule → Scheduled w.schedule

theorem Keeps.fresh {v w : View} (h : Keeps v w) : KeepsFresh v w := ⟨h.timed, fun a b _ => h.order a b, h.swept, h.schedule⟩

theorem KeepsFresh.trans {u v w : View} (h : KeepsFresh u v) (k : Keeps v w) : KeepsFresh u w :=
  ⟨k.timed ∘ h.timed, fun a b c => k.order (h.timed a) (h.order a b c), k.swept ∘ h.swept, k.schedule ∘ h.schedule⟩

/-! ## Changes of one part -/

/-- The sweep ends. -/
theorem Keeps.endSweep (v : View) : Keeps v { v with sweep := none } :=
  ⟨id, fun _ h => ⟨h.tags, h.transfer, h.context, h.free, h.stations⟩, fun _ h => absurd rfl h, id⟩

/-- The sweep starts, or goes on, over an empty slicer of a line that is not HALTED. -/
theorem Keeps.runSweep (v : View) (w : Option Sweep) (h : v.Swept → (∀ n, (n, .slicer) ∉ v.places) ∧ v.line ≠ .halted) :
    Keeps v { v with sweep := w } :=
  ⟨id, fun _ h => ⟨h.tags, h.transfer, h.context, h.free, h.stations⟩, fun k _ => h k, id⟩

/-- The line enters a state other than HALTED. -/
theorem Keeps.setLine (v : View) (l : LineState) (h : l ≠ .halted) : Keeps v { v with line := l } :=
  ⟨id, fun _ h => ⟨h.tags, h.transfer, h.context, h.free, h.stations⟩, fun k e => ⟨(k e).1, h⟩, id⟩

theorem Orderly.setLine (v : View) (l : LineState) : Orderly v { v with line := l } :=
  ⟨id, fun _ h => ⟨h.tags, h.transfer, h.context, h.free, h.stations⟩, id⟩

/-- The context changes its state and keeps its tag, which it has none of on its way home. -/
theorem Keeps.setState (v : View) (st : HeadState) (h : v.InOrder → st = .empty ∨ st = .homing → v.tag = none) :
    Keeps v { v with state := st } :=
  ⟨id, fun _ k => ⟨k.tags, k.transfer, k.context, h k, k.stations⟩, id, id⟩

/-- A context without a loaf is emptied. -/
theorem Keeps.emptied (v : View) (h : v.state = .empty ∨ v.state = .homing) : Keeps v { v with state := .empty, tag := none } :=
  ⟨id, fun _ k => ⟨k.tags, k.transfer, fun n m => (k.free h ▸ k.context n m), fun _ => rfl, k.stations⟩, id, id⟩

/-- The record of one station and its tyer's stage change. -/
def View.setAt (v : View) (x : Station) (r : StationRec) (k : Option Strike) : View :=
  { v with recs := Function.update v.recs x r, stages := Function.update v.stages x k }

/-! ## Moves of records -/

/-- The first record with a tag and a zone gets another zone. -/
def move (z : Zone) (n : Nat) (z' : Zone) : List Place → List Place
  | [] => []
  | p :: ps => if p = (n, z) then (n, z') :: ps else p :: move z n z' ps

theorem move_tags (z : Zone) (n : Nat) (z' : Zone) (ps : List Place) : (move z n z' ps).map Prod.fst = ps.map Prod.fst := by
  induction ps with
  | nil => rfl
  | cons p ps ih =>
    unfold move
    split
    · rename_i h
      rw [h]
      rfl
    · simp [ih]

theorem nodup_move {z z' : Zone} {n : Nat} {ps : List Place} (h : (ps.map Prod.fst).Nodup) : ((move z n z' ps).map Prod.fst).Nodup := by
  rw [move_tags]
  exact h

/-- What a move brings in is the moved record in its new zone. -/
theorem mem_of_mem_move {z z' : Zone} {n : Nat} {ps : List Place} {p : Place} (h : p ∈ move z n z' ps) :
    p ∈ ps ∨ (p = (n, z') ∧ (n, z) ∈ ps) := by
  induction ps with
  | nil => cases h
  | cons q ps ih =>
    unfold move at h
    split at h
    · rename_i hq
      rcases List.mem_cons.mp h with rfl | h
      · exact .inr ⟨rfl, hq ▸ List.mem_cons_self⟩
      · exact .inl (List.mem_cons_of_mem _ h)
    · rcases List.mem_cons.mp h with rfl | h
      · exact .inl List.mem_cons_self
      · exact (ih h).imp (List.mem_cons_of_mem _) fun h => ⟨h.1, List.mem_cons_of_mem _ h.2⟩

/-- A move brings nothing into a zone but the new one. -/
theorem mem_move_other {z z' y : Zone} {n m : Nat} {ps : List Place} (h : (m, y) ∈ move z n z' ps) (hy : y ≠ z') : (m, y) ∈ ps := by
  rcases mem_of_mem_move h with h | ⟨h, _⟩
  · exact h
  · exact absurd (Prod.mk.inj h).2 hy

/-- With tags that differ, the moved record is no longer in its old zone. -/
theorem not_mem_move {z z' : Zone} {n : Nat} {ps : List Place} (hz : z ≠ z') (ht : (ps.map Prod.fst).Nodup) : (n, z) ∉ move z n z' ps := by
  induction ps with
  | nil => exact List.not_mem_nil
  | cons q ps ih =>
    rw [List.map_cons, List.nodup_cons] at ht
    unfold move
    split
    · rename_i hq
      rw [List.mem_cons, not_or]
      refine ⟨fun h => hz (Prod.mk.inj h).2, fun h => ht.1 ?_⟩
      rw [hq]
      exact List.mem_map_of_mem h
    · rename_i hq
      rw [List.mem_cons, not_or]
      exact ⟨fun h => hq h.symm, ih ht.2⟩

/-- A record moves to REJECT or OUTFEED. -/
theorem Keeps.moveOut (v : View) (z : Zone) (n : Nat) (z' : Zone) (h : z' = .reject ∨ z' = .outfeed) :
    Keeps v { v with places := move z n z' v.places } := by
  have old : ∀ {m y}, (m, y) ∈ move z n z' v.places → y ≠ z' → (m, y) ∈ v.places := mem_move_other
  have hs : Zone.slicer ≠ z' := by rcases h with rfl | rfl <;> nofun
  have ht : Zone.transfer ≠ z' := by rcases h with rfl | rfl <;> nofun
  have hx : ∀ x, Zone.station x ≠ z' := fun x => by rcases h with rfl | rfl <;> nofun
  refine ⟨id, fun _ k => ?_, fun k e => ⟨fun m hm => (k e).1 m (old hm hs), (k e).2⟩, id⟩
  exact ⟨nodup_move k.tags, fun a b ha hb => k.transfer a b (old ha ht) (old hb ht), fun m hm => k.context m (old hm hs),
    k.free, fun x => ⟨fun m hm => (k.stations x).held m (old hm (hx x)), (k.stations x).idle⟩⟩

/-- The timers of the stations, one station changed. -/
theorem View.Timed.setAt {v : View} (h : v.Timed) {x : Station} {r : StationRec} {k : Option Strike} (hr : TimedAt r k) :
    (v.setAt x r k).Timed := fun y => by
  unfold View.setAt
  by_cases hy : y = x
  · subst hy
    simpa using hr
  · simpa [hy] using h y

/-- What the stations know, one station changed. -/
theorem known_setAt {v : View} {ps : List Place} {x : Station} {r : StationRec} {k : Option Strike}
    (h : ∀ y, y ≠ x → KnownAt ps y (v.recs y)) (hr : KnownAt ps x r) : ∀ y, KnownAt ps y ((v.setAt x r k).recs y) := fun y => by
  unfold View.setAt
  by_cases hy : y = x
  · subst hy
    simpa using hr
  · simpa [hy] using h y hy

/-- One station changes: its timers and its tag are all that is to be shown. -/
theorem Keeps.setAt (v : View) (x : Station) (r : StationRec) (k : Option Strike)
    (ht : TimedAt (v.recs x) (v.stages x) → TimedAt r k)
    (ho : TimedAt (v.recs x) (v.stages x) → KnownAt v.places x (v.recs x) → KnownAt v.places x r) : Keeps v (v.setAt x r k) where
  timed := fun h => h.setAt (ht (h x))
  order := fun h o => ⟨o.tags, o.transfer, o.context, o.free, known_setAt (fun y _ => o.stations y) (ho (h x) (o.stations x))⟩
  swept := id
  schedule := id

/-- A station that was READY takes the record that waits in TRANSFER (R85). -/
theorem Keeps.assign (v : View) (x : Station) (n : Nat) (r : StationRec) (hr : (v.recs x).state = .ready) (hn : r.tag = some n)
    (hf : ¬idleState r.state) (ht : TimedAt (v.recs x) (v.stages x) → TimedAt r (v.stages x)) :
    Keeps v (View.setAt { v with places := move .transfer n (.station x) v.places } x r (v.stages x)) where
  timed := fun k => View.Timed.setAt (v := { v with places := _ }) k (ht (k x))
  order := fun _ k => by
    refine ⟨nodup_move k.tags, fun a b ha hb => k.transfer a b (mem_move_other ha nofun) (mem_move_other hb nofun),
      fun m hm => k.context m (mem_move_other hm nofun), k.free, known_setAt (fun y hy => ⟨fun m hm => ?_, (k.stations y).idle⟩)
        ⟨fun m hm => ?_, fun h => absurd h hf⟩⟩
    · exact (k.stations y).held m (mem_move_other hm fun h => hy (Zone.station.inj h))
    · rcases mem_of_mem_move hm with hm | ⟨hm, _⟩
      · have h1 := (k.stations x).held m hm
        rw [(k.stations x).idle (.inr (.inr (.inr hr)))] at h1
        cases h1
      · rw [hn, (Prod.mk.inj hm).1]
  swept := fun k e => ⟨fun m hm => (k e).1 m (mem_move_other hm nofun), (k e).2⟩
  schedule := id

/-- The loaf of the context leaves for an empty TRANSFER, and the context goes home (R70, R71). -/
theorem Keeps.eject (v : View) (n : Nat) (hn : v.tag = some n) (he : ∀ m, (m, .transfer) ∉ v.places) :
    Keeps v { v with places := move .slicer n .transfer v.places, state := .homing, tag := none } := by
  have new : ∀ {m}, (m, .transfer) ∈ move .slicer n .transfer v.places → m = n := fun hm => by
    rcases mem_of_mem_move hm with hm | ⟨hm, _⟩
    · exact absurd hm (he _)
    · exact (Prod.mk.inj hm).1
  refine ⟨id, fun _ k => ?_, fun k e => ⟨fun m hm => (k e).1 m (mem_move_other hm nofun), (k e).2⟩, id⟩
  refine ⟨nodup_move k.tags, fun a b ha hb => (new ha).trans (new hb).symm, fun m hm => ?_, fun _ => rfl,
    fun x => ⟨fun m hm => (k.stations x).held m (mem_move_other hm nofun), (k.stations x).idle⟩⟩
  have hm' := k.context m (mem_move_other hm nofun)
  rw [hn] at hm'
  cases hm'
  exact absurd hm (not_mem_move nofun k.tags)

/-- An empty context without a sweep takes the record at the stop (R63). -/
theorem Keeps.take (v : View) (n : Nat) (st : HeadState) (hs : v.sweep = none) (hv : v.state = .empty)
    (hst : ¬(st = .empty ∨ st = .homing)) :
    Keeps v { v with places := move .infeed n .slicer v.places, state := st, tag := some n } := by
  refine ⟨id, fun _ k => ?_, fun _ e => absurd hs e, id⟩
  refine ⟨nodup_move k.tags, fun a b ha hb => k.transfer a b (mem_move_other ha nofun) (mem_move_other hb nofun),
    fun m hm => ?_, fun h => absurd h hst, fun x => ⟨fun m hm => (k.stations x).held m (mem_move_other hm nofun), (k.stations x).idle⟩⟩
  rcases mem_of_mem_move hm with hm | ⟨hm, _⟩
  · have h1 := k.context m hm
    rw [k.free (.inl hv)] at h1
    cases h1
  · rw [(Prod.mk.inj hm).1]

/-- The loaf of a station leaves for OUTFEED, and its tag leaves the station (R89). -/
theorem Keeps.release (v : View) (x : Station) (n : Nat) (hn : (v.recs x).tag = some n) :
    Keeps v (View.setAt { v with places := move (.station x) n .outfeed v.places } x
      { v.recs x with tag := none, releaseTimer := none } (v.stages x)) where
  timed := fun h => View.Timed.setAt (v := { v with places := _ }) h
    ⟨(h x).bag, (h x).travel, (h x).scoop, (h x).stage, fun e => absurd rfl e, (h x).heldScoop, (h x).heldStage⟩
  order := fun _ k => by
    refine ⟨nodup_move k.tags, fun a b ha hb => k.transfer a b (mem_move_other ha nofun) (mem_move_other hb nofun),
      fun m hm => k.context m (mem_move_other hm nofun), k.free, known_setAt (fun y _ => ⟨fun m hm => ?_, (k.stations y).idle⟩)
        ⟨fun m hm => ?_, fun _ => rfl⟩⟩
    · exact (k.stations y).held m (mem_move_other hm nofun)
    · have h1 := (k.stations x).held m (mem_move_other hm nofun)
      rw [hn] at h1
      cases h1
      exact absurd hm (not_mem_move nofun k.tags)
  swept := fun k e => ⟨fun m hm => (k e).1 m (mem_move_other hm nofun), (k e).2⟩
  schedule := id

/-- Records leave the track. -/
theorem Keeps.remove (v : View) (ps : List Place) (h : ps.Sublist v.places) : Keeps v { v with places := ps } where
  timed := id
  order := fun _ k => ⟨k.tags.sublist (h.map _), fun a b ha hb => k.transfer a b (h.mem ha) (h.mem hb),
    fun m hm => k.context m (h.mem hm), k.free, fun x => ⟨fun m hm => (k.stations x).held m (h.mem hm), (k.stations x).idle⟩⟩
  swept := fun k e => ⟨fun m hm => (k e).1 m (h.mem hm), (k e).2⟩
  schedule := id

/-- A record opens in INFEED with the next tag (R4). -/
theorem KeepsFresh.opens (v : View) (n : Nat) : KeepsFresh v { v with places := v.places ++ [(v.nextTag, .infeed)], nextTag := n } := by
  have old : ∀ {m y}, (m, y) ∈ v.places ++ [(v.nextTag, .infeed)] → y ≠ .infeed → (m, y) ∈ v.places := by
    intro m y hm hy
    rcases List.mem_append.mp hm with hm | hm
    · exact hm
    · exact absurd (Prod.mk.inj (List.mem_singleton.mp hm)).2 hy
  refine ⟨id, fun _ k hf => ?_, fun k e => ⟨fun m hm => (k e).1 m (old hm nofun), (k e).2⟩, id⟩
  refine ⟨?_, fun a b ha hb => k.transfer a b (old ha nofun) (old hb nofun), fun m hm => k.context m (old hm nofun), k.free,
    fun x => ⟨fun m hm => (k.stations x).held m (old hm nofun), (k.stations x).idle⟩⟩
  show ((v.places ++ [(v.nextTag, Zone.infeed)]).map Prod.fst).Nodup
  rw [List.map_append]
  refine k.tags.append (List.nodup_singleton _) fun m hm hm' => ?_
  obtain ⟨p, hp, rfl⟩ := List.mem_map.mp hm
  exact hf p hp (List.mem_singleton.mp hm')

end Sys2Proof.LoafTrack
end

-- ==== The loaf track, proofs: the view after an operation of the line ====
section
/-! What each shared operation does to the view of a state, up to the changes of the line state and the action of a fault. -/

namespace Sys2Proof.LoafTrack

open Sys2Proof.Machine Sys2Proof.Safety Sys2Proof.Laws

/-- An operation carries the laws of the view over. -/
abbrev Tidy (s t : State) : Prop := Keeps (view s) (view t)

/-! ## Updates of one block -/

@[simp] theorem view_setMeas (m : Meas) (s : State) : view (s.setMeas m) = view s := rfl
@[simp] theorem view_setLink (l : Link) (s : State) : view (s.setLink l) = view s := rfl
@[simp] theorem view_setPoints (v : Vector Point 24) (s : State) : view (s.setPoints v) = view s := rfl
@[simp] theorem view_setFresh (n : Nat) (s : State) : view (s.setFresh n) = view s := rfl
@[simp] theorem view_setRecipes (v : Recipes) (s : State) : view (s.setRecipes v) = view s := rfl
@[simp] theorem view_setPending (v : List Instr) (s : State) : view (s.setPending v) = view s := rfl

@[simp] theorem view_setHead (h : Head) (s : State) : view (s.setHead h) = { view s with state := h.state, tag := h.tag } := rfl
@[simp] theorem view_setCrumb (c : Crumb) (s : State) : view (s.setCrumb c) = { view s with sweep := c.sweep } := rfl
@[simp] theorem view_setSup (v : Supervision) (s : State) : view (s.setSup v) = { view s with line := v.line } := rfl
@[simp] theorem view_setShift (v : Shift) (s : State) : view (s.setShift v) = { view s with schedule := v.schedule } := rfl
@[simp] theorem view_setLoaves (ls : List Loaf) (s : State) : view (setLoaves ls s) = { view s with places := ls.map placeOf } := rfl

theorem stationRec_setStation (x : Station) (r : StationRec) (s : State) :
    stationRec (setStation x r s) = Function.update (stationRec s) x r := by
  funext y
  cases x <;> cases y <;> rfl

@[simp] theorem stationRec_setStation_self (x : Station) (r : StationRec) (s : State) : stationRec (setStation x r s) x = r := by
  rw [stationRec_setStation, Function.update_self]

theorem tyerOf_setTyer (x : Station) (t : Tyer) (s : State) : tyerOf (setTyer x t s) = Function.update (tyerOf s) x t := by
  funext y
  cases x <;> cases y <;> rfl

@[simp] theorem tyerOf_setTyer_self (x : Station) (t : Tyer) (s : State) : tyerOf (setTyer x t s) x = t := by
  rw [tyerOf_setTyer, Function.update_self]

@[simp] theorem tyerOf_setStation (x y : Station) (r : StationRec) (s : State) : tyerOf (setStation x r s) y = tyerOf s y := rfl

@[simp] theorem stationRec_setTyer (x y : Station) (t : Tyer) (s : State) : stationRec (setTyer x t s) y = stationRec s y := rfl

/-- A change of a station's record. -/
theorem view_setStation (x : Station) (r : StationRec) (s : State) :
    view (setStation x r s) = (view s).setAt x r ((view s).stages x) := by
  unfold view View.setAt
  rw [stationRec_setStation, Function.update_eq_self]
  rfl

/-- A change of a tyer shows as its stage. -/
theorem view_setTyer (x : Station) (t : Tyer) (s : State) : view (setTyer x t s) = (view s).setAt x ((view s).recs x) t.stage := by
  unfold view View.setAt
  rw [tyerOf_setTyer, Function.update_eq_self]
  congr 1
  funext y
  by_cases h : y = x
  · subst h
    simp
  · simp [h]

@[simp] theorem View.setAt_recs (v : View) (x : Station) (r : StationRec) (k : Option Strike) : (v.setAt x r k).recs x = r :=
  Function.update_self ..

@[simp] theorem View.setAt_stages (v : View) (x : Station) (r : StationRec) (k : Option Strike) : (v.setAt x r k).stages x = k :=
  Function.update_self ..

@[simp] theorem View.setAt_setAt (v : View) (x : Station) (r q : StationRec) (k j : Option Strike) :
    (v.setAt x r k).setAt x q j = v.setAt x q j := by
  simp [View.setAt]

/-! ## Operations that the view does not show -/

theorem view_noticed {s t : State} (h : Noticed s t) : view t = view s := by
  rw [h.rest]
  rfl

@[simp] theorem view_report (r : Report) (s : State) : view (report r s) = view s := view_noticed (report_noticed r s)
@[simp] theorem view_warn (w : WarnKind) (p : Bool) (s : State) : view (warn w p s) = view s := view_noticed (warn_noticed w p s)
@[simp] theorem view_evaluate (w : WarnKind) (s : State) : view (evaluate w s) = view s := view_noticed (evaluate_noticed w s)
@[simp] theorem view_transmit (s : State) : view (transmit s) = view s := rfl
@[simp] theorem view_finish (s : State) : view (finish s) = view s := view_noticed (finish_noticed s)

@[simp] theorem view_countShift (f : ShiftRecord → ShiftRecord) (s : State) : view (countShift f s) = view s := rfl
@[simp] theorem view_countStation (x : Station) (f : StationCounts → StationCounts) (s : State) : view (countStation x f s) = view s := rfl
@[simp] theorem view_wasteBag (x : Station) (s : State) : view (wasteBag x s) = view s := rfl
@[simp] theorem view_setFault (k : FaultKind) (e : FaultEntry) (s : State) : view (setFault k e s) = view s := rfl
@[simp] theorem view_setWarning (w : WarnKind) (e : WarnEntry) (s : State) : view (setWarning w e s) = view s := rfl

@[simp] theorem view_recordFirst (k : FaultKind) (loaf : Option Nat) (s : State) : view (recordFirst k loaf s) = view s := by
  unfold recordFirst
  split <;> rfl

@[simp] theorem view_faultOccurs (k : FaultKind) (st : FaultState) (loaf : Option Nat) (s : State) :
    view (faultOccurs k st loaf s) = view s := by
  simp [faultOccurs]

@[simp] theorem view_faultMoves (k : FaultKind) (st : FaultState) (s : State) : view (faultMoves k st s) = view s := by
  simp [faultMoves]

@[simp] theorem view_assertHold (s : State) : view (assertHold s) = view s := rfl
@[simp] theorem view_releaseHold (s : State) : view (releaseHold s) = view s := rfl
@[simp] theorem view_dropRequests (who : Requester) (s : State) : view (dropRequests who s) = view s := rfl
@[simp] theorem view_startConversion (c : Channel) (ph : SamplePhase) (q : Option ConvRequest) (s : State) :
    view (startConversion c ph q s) = view s := rfl

@[simp] theorem view_arbitrate (s : State) : view (arbitrate s) = view s := by
  obtain ⟨m, h⟩ := arbitrate_meas s
  rw [h, view_setMeas]

@[simp] theorem view_askConversion (who : Requester) (s : State) : view (askConversion who s) = view s := by
  simp [askConversion]

@[simp] theorem view_phaseBegins (s : State) : view (phaseBegins s) = view s := by
  obtain ⟨m, h⟩ := phaseBegins_meas s
  rw [h, view_setMeas]

@[simp] theorem view_knifeTo (on : Bool) (s : State) : view (knifeTo on s) = view s := by
  unfold knifeTo
  split
  · rfl
  · split
    · rfl
    · simp only
      split <;> rfl

/-- A change of a record that keeps its place. -/
theorem places_modifyFirst (p : Loaf → Bool) (f : Loaf → Loaf) (ls : List Loaf) (hf : ∀ r, placeOf (f r) = placeOf r) :
    (modifyFirst p f ls).map placeOf = ls.map placeOf := by
  induction ls with
  | nil => rfl
  | cons r rs ih =>
    unfold modifyFirst
    split
    · simp [hf]
    · simp [ih]

theorem view_modifyLoaf (n : Nat) (f : Loaf → Loaf) (s : State) (hf : ∀ r, placeOf (f r) = placeOf r) : view (modifyLoaf n f s) = view s := by
  unfold modifyLoaf
  rw [view_setLoaves, places_modifyFirst _ _ _ hf]
  rfl

@[simp] theorem view_mark (n : Nat) (m : Mark) (s : State) : view (modifyLoaf n (Loaf.withMark m) s) = view s :=
  view_modifyLoaf n _ s fun _ => rfl

/-- A zone move shows as the move of a place. -/
theorem view_moveLoaf (z z' : Zone) (n : Nat) (f : Loaf → Loaf) (s : State) (hf : ∀ r, placeOf (f r) = (r.tag, z')) :
    view (moveLoaf z n f s) = { view s with places := move z n z' (view s).places } := by
  have h : ∀ ls : List Loaf, (modifyFirst (fun r => decide (r.tag = n) && decide (r.zone = z)) f ls).map placeOf =
      move z n z' (ls.map placeOf) := fun ls => by
    induction ls with
    | nil => rfl
    | cons r rs ih =>
      unfold modifyFirst
      rw [List.map_cons, move]
      by_cases hp : r.tag = n ∧ r.zone = z
      · rw [if_pos (by simpa using hp), if_pos (by rw [← hp.1, ← hp.2]; rfl), List.map_cons, hf, hp.1]
      · rw [if_neg (by simpa using hp), if_neg (show placeOf r ≠ (n, z) from fun e => hp (Prod.mk.inj e)), List.map_cons, ih]
  unfold moveLoaf
  rw [view_setLoaves, h]
  rfl

theorem mem_places_oldest {s : State} {z : Zone} (h : oldestIn s z = none) (n : Nat) : (n, z) ∉ (view s).places := fun hm => by
  obtain ⟨r, hr, _, hz⟩ := mem_places.mp hm
  exact absurd hz (by simpa using List.find?_eq_none.mp h r hr)

/-! ## Sweeps and stages -/

theorem abortSweep_sweep (s : State) : (view (abortSweep s)).sweep = none := by
  unfold abortSweep
  split
  · rename_i h
    exact h
  · simp

theorem abortSweep_tidy (s : State) : Tidy s (abortSweep s) := by
  unfold abortSweep
  split
  · exact Keeps.refl _
  · exact (Keeps.endSweep (view s)).trans (Keeps.of_eq (by simp))

theorem trySweep_tidy (s : State) : Tidy s (trySweep s) := by
  unfold trySweep
  split
  · rename_i h
    unfold sweepMayStart at h
    simp only [Bool.and_eq_true, decide_eq_true_eq, Option.isNone_iff_eq_none] at h
    obtain ⟨⟨⟨⟨⟨_, _⟩, hz⟩, _⟩, _⟩, hl⟩ := h
    exact Keeps.runSweep (view s) _ fun _ => ⟨mem_places_oldest hz, hl⟩
  · exact Keeps.refl _

@[simp] theorem view_cutStage (x : Station) (s : State) : view (cutStage x s) = (view s).setAt x ((view s).recs x) none := by
  unfold cutStage
  rw [view_dropRequests, view_setTyer]

/-- A station's record changes and its tyer's stage stays. -/
theorem setStation_tidy (x : Station) (r : StationRec) (s : State)
    (ht : TimedAt (stationRec s x) (tyerOf s x).stage → TimedAt r (tyerOf s x).stage)
    (ho : TimedAt (stationRec s x) (tyerOf s x).stage → KnownAt (view s).places x (stationRec s x) → KnownAt (view s).places x r) :
    Tidy s (setStation x r s) := by
  show Keeps _ (view (setStation x r s))
  rw [view_setStation]
  exact Keeps.setAt (view s) x r _ ht ho

theorem stationStops_tidy (x : Station) (s : State) : Tidy s (stationStops x s) := by
  unfold stationStops
  simp only
  split
  case h_1 hs =>
    exact setStation_tidy x _ s
      (fun h => ⟨h.bag, h.travel, fun e => absurd rfl e, h.stage, h.release, fun _ => rfl, fun _ => h.stage_none (by rw [hs]; nofun)⟩)
      fun _ h => ⟨h.held, h.idle⟩
  case h_2 hs =>
    show Keeps _ (view (cutStage x _))
    rw [view_cutStage, view_setStation, View.setAt_recs, View.setAt_setAt]
    exact Keeps.setAt (view s) x _ _ (fun h => ⟨h.bag, h.travel, h.scoop, fun e => absurd rfl e, h.release,
      fun _ => h.scoop_none (fun e => by cases e.symm.trans hs), fun _ => rfl⟩) fun _ h => ⟨h.held, h.idle⟩
  all_goals exact Keeps.refl _

/-- A halted station's record with its tying stage cut short (R94, R103). -/
theorem Keeps.halt (v : View) (x : Station) :
    Keeps v (v.setAt x { v.recs x with held := true, bagTimer := none, scoopTimer := none, releaseTimer := none } none) :=
  Keeps.setAt v x _ _ (fun h => ⟨fun e => absurd rfl e, h.travel, fun e => absurd rfl e, fun e => absurd rfl e, fun e => absurd rfl e,
    fun _ => rfl, fun _ => rfl⟩) fun _ h => ⟨h.held, h.idle⟩

/-- A station that is not in TYING has no stage to cut short. -/
theorem haltedStation_tidy (x : Station) (s : State) (hs : (stationRec s x).state ≠ .tying) :
    Tidy s (setStation x { stationRec s x with held := true, bagTimer := none, scoopTimer := none, releaseTimer := none } s) :=
  setStation_tidy x _ s (fun h => ⟨fun e => absurd rfl e, h.travel, fun e => absurd rfl e, h.stage, fun e => absurd rfl e,
    fun _ => rfl, fun _ => h.stage_none hs⟩) fun _ h => ⟨h.held, h.idle⟩

theorem stationHalts_tidy (x : Station) (s : State) : Tidy s (stationHalts x s) := by
  unfold stationHalts
  simp only
  split
  case h_4 =>
    show Keeps _ (view (cutStage x _))
    rw [view_cutStage, view_setStation, View.setAt_recs, View.setAt_setAt]
    exact Keeps.halt (view s) x
  case h_6 => exact Keeps.refl _
  case h_7 => exact Keeps.refl _
  all_goals
    rename_i hs
    exact haltedStation_tidy x s (by rw [hs]; nofun)

/-! ## The head at a stop or a halt -/

/-- A context that has left EMPTY and HOMING enters another such state. -/
theorem setHead_tidy (h : Head) (s : State) (ht : h.tag = s.head.tag) (hs : ¬(h.state = .empty ∨ h.state = .homing)) :
    Tidy s (s.setHead h) := by
  show Keeps _ (view (s.setHead h))
  rw [view_setHead, ht]
  exact Keeps.setState (view s) h.state fun _ e => absurd e hs

theorem emptied_tidy (s : State) (h : s.head.state = .empty ∨ s.head.state = .homing) : Tidy s (s.setHead s.head.emptied) :=
  Keeps.emptied (view s) h

theorem knifeTo_tidy (on : Bool) (s : State) : Tidy s (knifeTo on s) := Keeps.of_eq (view_knifeTo on s)

theorem headStops_tidy (s : State) : Tidy s (headStops s) := by
  refine (knifeTo_tidy false s).trans ?_
  unfold headStops
  simp only
  split
  case h_6 hs => exact emptied_tidy _ (.inr hs)
  case h_7 => exact Keeps.refl _
  case h_8 => exact Keeps.refl _
  case h_9 => exact Keeps.refl _
  all_goals exact setHead_tidy _ _ rfl (by simp)

theorem interruptLoaf_tidy (s : State) : Tidy s (interruptLoaf s) := by
  unfold interruptLoaf
  simp only
  split
  · exact setHead_tidy _ _ rfl (by simp)
  · exact (Keeps.of_eq (view_mark _ .interrupted s)).trans (setHead_tidy _ _ rfl (by simp))

theorem headHalts_tidy (s : State) : Tidy s (headHalts s) := by
  refine (knifeTo_tidy false s).trans ?_
  unfold headHalts
  simp only
  split
  case h_7 hs => exact emptied_tidy _ (.inr hs)
  case h_8 => exact Keeps.refl _
  case h_9 => exact Keeps.refl _
  all_goals exact interruptLoaf_tidy _

/-! ## Changes of the line state -/

@[simp] theorem view_setLine (l : LineState) (s : State) : view (setLine l s) = { view s with line := l } := by
  simp [setLine]

theorem setLine_tidy (l : LineState) (s : State) (h : l ≠ .halted) : Tidy s (setLine l s) := by
  show Keeps _ (view (setLine l s))
  rw [view_setLine]
  exact Keeps.setLine (view s) l h

theorem enterHalted_tidy (s : State) : Tidy s (enterHalted s) := by
  unfold enterHalted
  have hl : Orderly (view s) (view (countShift (fun r => { r with halts := raiseCount r.halts 1 }) (setLine .halted s))) := by
    rw [view_countShift, view_setLine]
    exact Orderly.setLine (view s) .halted
  refine (hl.trans ((headHalts_tidy _).trans ((stationHalts_tidy .a _).trans ((stationHalts_tidy .b _).trans
    (abortSweep_tidy _)))).orderly).keeps ?_
  exact abortSweep_sweep _

theorem enterStopped_tidy (now : Bool) (s : State) : Tidy s (enterStopped now s) := by
  have h : Tidy s (setLine .stopped s |> headStops |> stationStops .a |> stationStops .b) :=
    (setLine_tidy .stopped s nofun).trans ((headStops_tidy _).trans ((stationStops_tidy .a _).trans (stationStops_tidy .b _)))
  unfold enterStopped
  cases now
  · exact h
  · exact h.trans (abortSweep_tidy _)

theorem trackEmpty_tidy (s : State) : Tidy s (trackEmpty s) := by
  unfold trackEmpty
  split
  · exact enterStopped_tidy false s
  · exact Keeps.refl _

theorem enterDraining_tidy (s : State) : Tidy s (enterDraining s) :=
  (setLine_tidy .draining s nofun).trans ((trySweep_tidy (assertHold (setLine .draining s))).trans (trackEmpty_tidy _))

theorem applyToLine_tidy (a : Action) (s : State) : Tidy s (applyToLine a s) := by
  unfold applyToLine
  cases a with
  | nothing => exact Keeps.refl _
  | hold =>
    dsimp only
    split
    · exact enterDraining_tidy s
    · exact Keeps.refl _
  | halt =>
    dsimp only
    split
    · exact Keeps.refl _
    · exact enterHalted_tidy s

theorem settleBelt_tidy (s : State) : Tidy s (settleBelt s) := by
  unfold settleBelt
  simp only
  split
  · exact (Keeps.of_eq (view_faultMoves .beltStall .latched s)).trans (applyToLine_tidy _ _)
  · exact Keeps.refl _

theorem faultActs_tidy (k : FaultKind) (s : State) : Tidy s (faultActs k s) := (applyToLine_tidy _ s).trans (settleBelt_tidy _)

theorem raiseFault_tidy (k : FaultKind) (loaf : Option Nat) (s : State) : Tidy s (raiseFault k loaf s) :=
  (Keeps.of_eq (view_faultOccurs k .latched loaf s)).trans (faultActs_tidy k _)

theorem setCondition_tidy (k : FaultKind) (p : Bool) (s : State) : Tidy s (setCondition k p s) := by
  unfold setCondition
  split
  · exact Keeps.refl _
  · exact (Keeps.of_eq (view_faultOccurs k .active none s)).trans (faultActs_tidy k _)
  · exact (Keeps.of_eq (view_faultMoves k .latched s)).trans (faultActs_tidy k _)
  · exact Keeps.refl _

theorem reviewHold_tidy (s : State) : Tidy s (reviewHold s) := by
  unfold reviewHold
  split
  · exact settleBelt_tidy (assertHold s)
  · exact Keeps.refl _
  · exact Keeps.refl _

theorem afterRemoval_tidy (s : State) : Tidy s (afterRemoval s) :=
  (Keeps.of_eq (view_evaluate .trackFull s)).trans ((trackEmpty_tidy _).trans (reviewHold_tidy _))

end Sys2Proof.LoafTrack
end

-- ==== The loaf track, proofs: the view after an operation of a station ====
section
/-! What each operation of the station cycle, of the gate decision and of the tying stage does to the view of a state. -/

namespace Sys2Proof.LoafTrack

open Sys2Proof.Machine Sys2Proof.Safety Sys2Proof.Laws

/-! ## What a fault leaves of the stations -/

/-- Every station's state and tag stand. -/
def Stands (s t : State) : Prop := ∀ x, (stationRec t x).state = (stationRec s x).state ∧ (stationRec t x).tag = (stationRec s x).tag

theorem Stands.refl (s : State) : Stands s s := fun _ => ⟨rfl, rfl⟩

theorem Stands.trans {s t u : State} (h : Stands s t) (k : Stands t u) : Stands s u :=
  fun x => ⟨(k x).1.trans (h x).1, (k x).2.trans (h x).2⟩

theorem Stands.of_recs {s t : State} (h : (view t).recs = (view s).recs) : Stands s t := fun x => by
  have hx : stationRec t x = stationRec s x := congrFun h x
  exact ⟨congrArg StationRec.state hx, congrArg StationRec.tag hx⟩

theorem Stands.of_view {s t : State} (h : view t = view s) : Stands s t := Stands.of_recs (congrArg View.recs h)

theorem setStation_stands (x : Station) (r : StationRec) (s : State) (hs : r.state = (stationRec s x).state)
    (ht : r.tag = (stationRec s x).tag) : Stands s (setStation x r s) := fun y => by
  rw [stationRec_setStation]
  by_cases h : y = x
  · subst h
    simpa using ⟨hs, ht⟩
  · simp [h]

theorem stationHalts_stands (x : Station) (s : State) : Stands s (stationHalts x s) := by
  unfold stationHalts
  simp only
  split
  case h_4 => exact setStation_stands x _ s rfl rfl
  case h_6 => exact Stands.refl s
  case h_7 => exact Stands.refl s
  all_goals exact setStation_stands x _ s rfl rfl

theorem stationStops_stands (x : Station) (s : State) : Stands s (stationStops x s) := by
  unfold stationStops
  simp only
  split
  case h_1 => exact setStation_stands x _ s rfl rfl
  case h_2 => exact setStation_stands x _ s rfl rfl
  all_goals exact Stands.refl s

theorem interruptLoaf_recs (s : State) : (view (interruptLoaf s)).recs = (view s).recs := by
  unfold interruptLoaf
  simp only
  split <;> rfl

theorem headHalts_recs (s : State) : (view (headHalts s)).recs = (view s).recs := by
  refine Eq.trans ?_ (congrArg View.recs (view_knifeTo false s))
  unfold headHalts
  simp only
  split
  case h_7 => rfl
  case h_8 => rfl
  case h_9 => rfl
  all_goals exact interruptLoaf_recs _

theorem headStops_recs (s : State) : (view (headStops s)).recs = (view s).recs := by
  refine Eq.trans ?_ (congrArg View.recs (view_knifeTo false s))
  unfold headStops
  simp only
  split <;> rfl

theorem abortSweep_recs (s : State) : (view (abortSweep s)).recs = (view s).recs := by
  unfold abortSweep
  split <;> simp

theorem trySweep_recs (s : State) : (view (trySweep s)).recs = (view s).recs := by
  unfold trySweep
  split <;> rfl

theorem enterHalted_stands (s : State) : Stands s (enterHalted s) := by
  unfold enterHalted
  have h1 : Stands s (headHalts (countShift (fun r => { r with halts := raiseCount r.halts 1 }) (setLine .halted s))) :=
    Stands.of_recs (by simp [headHalts_recs])
  exact h1.trans ((stationHalts_stands .a _).trans ((stationHalts_stands .b _).trans (Stands.of_recs (abortSweep_recs _))))

theorem enterStopped_stands (now : Bool) (s : State) : Stands s (enterStopped now s) := by
  have h1 : Stands s (headStops (setLine .stopped s)) := Stands.of_recs (by simp [headStops_recs])
  have h2 := h1.trans ((stationStops_stands .a _).trans (stationStops_stands .b _))
  unfold enterStopped
  cases now
  · exact h2
  · exact h2.trans (Stands.of_recs (abortSweep_recs _))

theorem enterDraining_stands (s : State) : Stands s (enterDraining s) := by
  have h1 : Stands s (trySweep (assertHold (setLine .draining s))) := Stands.of_recs (by simp [trySweep_recs])
  unfold enterDraining trackEmpty
  split
  · exact h1.trans (enterStopped_stands false _)
  · exact h1

theorem applyToLine_stands (a : Action) (s : State) : Stands s (applyToLine a s) := by
  unfold applyToLine
  cases a with
  | nothing => exact Stands.refl s
  | hold =>
    dsimp only
    split
    · exact enterDraining_stands s
    · exact Stands.refl s
  | halt =>
    dsimp only
    split
    · exact Stands.refl s
    · exact enterHalted_stands s

theorem settleBelt_stands (s : State) : Stands s (settleBelt s) := by
  unfold settleBelt
  simp only
  split
  · exact (Stands.of_view (view_faultMoves .beltStall .latched s)).trans (applyToLine_stands _ _)
  · exact Stands.refl s

theorem raiseFault_stands (k : FaultKind) (loaf : Option Nat) (s : State) : Stands s (raiseFault k loaf s) :=
  (Stands.of_view (view_faultOccurs k .latched loaf s)).trans ((applyToLine_stands _ _).trans (settleBelt_stands _))

/-! ## The gate decision and the eject -/

theorem divert_tidy (n : Nat) (s : State) : Tidy s (divert n s) := by
  show Keeps _ (view (moveLoaf .transfer n _ s))
  rw [view_moveLoaf .transfer .reject n _ s fun _ => rfl]
  exact Keeps.moveOut (view s) .transfer n .reject (.inl rfl)

theorem isCandidate_ready {s : State} {cls : Nat} {x : Station} (h : isCandidate s cls x = true) : (stationRec s x).state = .ready := by
  unfold isCandidate at h
  simp only [Bool.and_eq_true, decide_eq_true_eq] at h
  exact h.1.2

/-- The station that the policy chooses is READY (R85). -/
theorem chooseStation_ready {s : State} {cls : Nat} {x : Station} (h : chooseStation s cls = some x) : (stationRec s x).state = .ready := by
  have pick : ∀ {y : Station} {o : Option Station}, (if isCandidate s cls y then some y else o) = some x →
      isCandidate s cls x = true ∨ o = some x := by
    intro y o e
    split at e
    · rename_i hc
      cases e
      exact .inl hc
    · exact .inr e
  have fst : isCandidate s cls x = true := by
    unfold chooseStation at h
    simp only at h
    split at h
    · exact (pick h).elim id fun h => (pick h).elim id nofun
    · exact (pick h).elim id fun h => (pick h).elim id nofun
    · exact (pick h).elim id nofun
    · exact (pick h).elim id nofun
  exact isCandidate_ready fst

theorem assignLoaf_tidy (x : Station) (n : Nat) (s : State) (hr : (stationRec s x).state = .ready) : Tidy s (assignLoaf x n s) := by
  show Keeps _ (view (setStation x _ (moveLoaf .transfer n _ s)))
  rw [view_setStation, view_moveLoaf .transfer (.station x) n _ s fun _ => rfl]
  refine Keeps.assign (view s) x n _ hr rfl (by simp [idleState]) fun h => ?_
  exact ⟨fun e => absurd (h.bag_none (by rw [show ((view s).recs x).state = _ from hr]; nofun)) e, fun _ => rfl,
    fun e => absurd (h.scoop_none (by rw [show ((view s).recs x).state = _ from hr]; nofun)) e,
    fun e => absurd (h.stage_none (by rw [show ((view s).recs x).state = _ from hr]; nofun)) e,
    fun e => absurd (h.release_none (by rw [show ((view s).recs x).state = _ from hr]; nofun)) e, h.heldScoop, h.heldStage⟩

theorem gateDecision_tidy (s : State) : Tidy s (gateDecision s) := by
  unfold gateDecision
  split
  · exact Keeps.refl _
  · split
    · exact Keeps.refl _
    · rename_i r _
      split
      · exact divert_tidy r.tag s
      · split
        · exact Keeps.refl _
        · split
          · exact Keeps.refl _
          · rename_i x hx
            obtain ⟨cls, _, hc⟩ := Option.bind_eq_some_iff.mp hx
            exact assignLoaf_tidy x r.tag s (chooseStation_ready hc)

theorem ejectLoaf_tidy (s : State) (h : oldestIn s .transfer = none) : Tidy s (ejectLoaf s) := by
  unfold ejectLoaf
  split
  · exact Keeps.refl _
  · rename_i n hn
    have hu : ∀ hd : Head, hd.state = .homing → hd.tag = none → Tidy s ((moveLoaf .slicer n (fun r =>
        { r with zone := .transfer, ejectCount := some s.track.beltCount }) s).setHead hd) := fun hd hs ht => by
      show Keeps _ (view (State.setHead _ hd))
      rw [view_setHead, view_moveLoaf .slicer .transfer n _ s fun _ => rfl, hs, ht]
      exact Keeps.eject (view s) n hn (mem_places_oldest h)
    simp only
    split
    · exact ((hu _ rfl rfl).trans (knifeTo_tidy true _)).trans (gateDecision_tidy _)
    · exact (hu _ rfl rfl).trans (gateDecision_tidy _)

theorem endStroke_tidy (s : State) : Tidy s (endStroke s) := by
  unfold endStroke
  split
  · rename_i h
    unfold ejectReached at h
    simp only [Bool.and_eq_true, Option.isNone_iff_eq_none] at h
    exact ejectLoaf_tidy s h.2
  · exact Keeps.refl _

theorem route_tidy (s : State) : Tidy s (route s) := (gateDecision_tidy s).trans (endStroke_tidy _)

/-! ## Opening a bag -/

/-- The station's timers, as the state gives them. -/
abbrev TimedIn (s : State) (x : Station) : Prop := TimedAt (stationRec s x) (tyerOf s x).stage

/-- What the station knows, as the state gives it. -/
abbrev KnownIn (s : State) (x : Station) : Prop := KnownAt (view s).places x (stationRec s x)

theorem idle_ne {st : StationState} (h : idleState st) : st ≠ .filling ∧ st ≠ .tying ∧ st ≠ .releasing := by
  rcases h with h | h | h | h <;> subst h <;> exact ⟨nofun, nofun, nofun⟩

/-- A station with neither a loaf nor a tying stage: it may open, or go out of service. -/
structure Vacant (s : State) (x : Station) : Prop where
  stage : TimedIn s x → (tyerOf s x).stage = none
  tag : TimedIn s x → KnownIn s x → (stationRec s x).tag = none

theorem Vacant.of_idle {s : State} {x : Station} (h : idleState (stationRec s x).state) : Vacant s x :=
  ⟨fun t => t.stage_none (idle_ne h).2.1, fun _ k => k.idle h⟩

/-- A vacant station changes to one with no tag, no travel count, no scoop and no release wait. -/
theorem vacate_tidy (x : Station) (r : StationRec) (s : State) (h : Vacant s x) (hb : r.bagTimer = none) (ht : r.travel = none)
    (hs : r.scoopTimer = none) (hl : r.releaseTimer = none) (hn : r.tag = none) : Tidy s (setStation x r s) := by
  refine setStation_tidy x r s (fun t => ?_) fun t k => ⟨fun n hm => ?_, fun _ => hn⟩
  · rw [h.stage t]
    exact TimedAt.of_rest hb ht hs hl
  · have hm := k.held n hm
    rw [h.tag t k] at hm
    cases hm

/-- A station without a loaf takes another state in which it has none. -/
theorem rest_tidy (x : Station) (r : StationRec) (s : State) (h : TimedIn s x → idleState (stationRec s x).state)
    (hb : TimedIn s x → r.bagTimer = none ∨ r.state = .opening) (htag : r.tag = (stationRec s x).tag)
    (ht : r.travel = (stationRec s x).travel) (hs : r.scoopTimer = (stationRec s x).scoopTimer)
    (hl : r.releaseTimer = (stationRec s x).releaseTimer) : Tidy s (setStation x r s) := by
  refine setStation_tidy x r s (fun t => ?_) fun t k => ⟨fun n hm => htag.trans (k.held n hm), fun _ => htag.trans (k.idle (h t))⟩
  obtain ⟨hf, hy, hz⟩ := idle_ne (h t)
  have hk := t.stage_none hy
  rw [hk]
  have ht := ht.trans (t.travel_none hf)
  have hs := hs.trans (t.scoop_none hf)
  have hl := hl.trans (t.release_none hz)
  exact ⟨fun e => (hb t).resolve_left e, fun e => absurd ht e, fun e => absurd hs e, fun e => absurd rfl e, fun e => absurd hl e,
    fun _ => hs, fun _ => rfl⟩

theorem stationEmpties_tidy (x : Station) (s : State) (h : TimedIn s x → idleState (stationRec s x).state) : Tidy s (stationEmpties x s) := by
  refine (rest_tidy x { stationRec s x with state := .empty, attempt := none, held := false, bagTimer := none } s h
    (fun _ => .inl rfl) rfl rfl rfl rfl).trans (Keeps.of_eq ?_)
  exact view_evaluate _ _

theorem stationReady_tidy (x : Station) (s : State) (h : TimedIn s x → idleState (stationRec s x).state) : Tidy s (stationReady x s) :=
  (rest_tidy x { stationRec s x with state := .ready, attempt := none, bagTimer := none } s h
    (fun _ => .inl rfl) rfl rfl rfl rfl).trans (route_tidy _)

theorem stationRec_of_view {s t : State} (h : view t = view s) (x : Station) : stationRec t x = stationRec s x :=
  congrFun (congrArg View.recs h) x

/-- The record of a station that has drawn a bag (R80). -/
def drawnRec (s : State) (x : Station) (n : Nat) : StationRec :=
  { stationRec s x with
    magazine := (stationRec s x).magazine - 1, attempt := some n, bagTimer := some s.stations.times.openTimeout }

/-- A draw, once the bag has left the magazine: the record, the count and BAGS_LOW. -/
def drawn (s : State) (x : Station) (n : Nat) : State :=
  setStation x (drawnRec s x n) s |> countStation x (fun c => { c with drawn := raiseCount c.drawn 1 }) |> evaluate (.bagsLow x)

theorem drawBag_eq (x : Station) (n : Nat) (s : State) :
    drawBag x n s = if (stationRec s x).magazine = 0 then stationEmpties x s
      else if inputHigh (drawn s x n) (.bagEye x) then stationReady x (drawn s x n) else drawn s x n := rfl

theorem view_drawn (s : State) (x : Station) (n : Nat) : view (drawn s x n) = (view s).setAt x (drawnRec s x n) (tyerOf s x).stage := by
  unfold drawn
  rw [view_evaluate, view_countStation, view_setStation]
  rfl

theorem drawn_tidy (x : Station) (n : Nat) (s : State) (h : TimedIn s x → (stationRec s x).state = .opening) : Tidy s (drawn s x n) :=
  (rest_tidy x (drawnRec s x n) s (fun t => .inr (.inr (.inl (h t)))) (fun t => .inr (h t)) rfl rfl rfl rfl).trans
    (Keeps.of_eq ((view_drawn s x n).trans (view_setStation x _ s).symm))

theorem drawBag_tidy (x : Station) (n : Nat) (s : State) (h : TimedIn s x → (stationRec s x).state = .opening) :
    Tidy s (drawBag x n s) := by
  rw [drawBag_eq]
  split
  · exact stationEmpties_tidy x s fun t => .inr (.inr (.inl (h t)))
  · split
    · refine (drawn_tidy x n s h).trans (stationReady_tidy x _ fun t => .inr (.inr (.inl (t.bag ?_))))
      have hr : stationRec (drawn s x n) x = drawnRec s x n := by
        rw [show stationRec (drawn s x n) x = (view (drawn s x n)).recs x from rfl, view_drawn, View.setAt_recs]
      rw [hr]
      nofun
    · exact drawn_tidy x n s h

theorem tryDraw_tidy (x : Station) (s : State) : Tidy s (tryDraw x s) := by
  unfold tryDraw
  split
  · rename_i h
    unfold drawDue at h
    simp only [Bool.and_eq_true, decide_eq_true_eq] at h
    exact drawBag_tidy x 1 s fun _ => h.1.1.1.1.1
  · exact Keeps.refl _

theorem enterOpening_tidy (x : Station) (s : State) (h : Vacant s x) : Tidy s (enterOpening x s) :=
  (vacate_tidy x { stationRec s x with
      state := .opening, tag := none, attempt := none, held := (stationRec s x).held || decide (s.sup.line = .halted)
      bagTimer := none, travel := none, scoopTimer := none, releaseTimer := none } s h rfl rfl rfl rfl rfl).trans
    ((Keeps.of_eq (view_evaluate _ _)).trans (tryDraw_tidy x _))

/-! ## Service -/

theorem stationOut_tidy (x : Station) (s : State) (h : Vacant s x) : Tidy s (stationOut x s) :=
  (vacate_tidy x { stationRec s x with
      state := .outOfService, tag := none, attempt := none, held := false, bagTimer := none, travel := none
      scoopTimer := none, releaseTimer := none } s h rfl rfl rfl rfl rfl).trans (Keeps.of_eq (view_evaluate _ _))

theorem serviceLost_tidy (x : Station) (s : State) : Tidy s (serviceLost x s) := by
  unfold serviceLost
  simp only
  split
  · rename_i hs
    exact stationOut_tidy x (wasteBag x s) (Vacant.of_idle (.inr (.inr (.inr hs))))
  · rename_i hs
    split
    · exact stationOut_tidy x (wasteBag x s) (Vacant.of_idle (.inr (.inr (.inl hs))))
    · exact stationOut_tidy x s (Vacant.of_idle (.inr (.inr (.inl hs))))
  · rename_i hs
    exact stationOut_tidy x s (Vacant.of_idle (.inr (.inl hs)))
  all_goals exact Keeps.refl _

/-- A station's record changes in what neither its timers nor its tag show. -/
theorem setStation_same (x : Station) (r : StationRec) (s : State) (hs : r.state = (stationRec s x).state)
    (hn : r.tag = (stationRec s x).tag) (hh : r.held = (stationRec s x).held) (hb : r.bagTimer = (stationRec s x).bagTimer)
    (ht : r.travel = (stationRec s x).travel) (hc : r.scoopTimer = (stationRec s x).scoopTimer)
    (hl : r.releaseTimer = (stationRec s x).releaseTimer) : Tidy s (setStation x r s) :=
  setStation_tidy x r s
    (fun k => ⟨hb ▸ hs ▸ k.bag, ht ▸ hs ▸ k.travel, hc ▸ hs ▸ ht ▸ k.scoop, hs ▸ k.stage, hl ▸ hs ▸ k.release, hh ▸ hc ▸ k.heldScoop,
      hh ▸ k.heldStage⟩)
    fun _ k => ⟨fun n hm => hn.trans (k.held n hm), fun e => hn.trans (k.idle (hs ▸ e))⟩

theorem serviceBack_tidy (x : Station) (s : State) : Tidy s (serviceBack x s) := by
  unfold serviceBack
  have h0 : Tidy s (setStation x { stationRec s x with misties := 0 } s) := setStation_same x _ s rfl rfl rfl rfl rfl rfl rfl
  simp only
  split
  · rename_i hs
    split
    · exact h0.trans (stationEmpties_tidy x _ fun _ => .inl hs)
    · exact h0.trans (enterOpening_tidy x _ (Vacant.of_idle (.inl hs)))
  · exact h0

/-! ## Release -/

theorem loafToOutfeed_rec (x : Station) (s : State) :
    stationRec (loafToOutfeed x s) x = { stationRec s x with tag := none, releaseTimer := none } := by
  simp [loafToOutfeed]

theorem loafToOutfeed_tidy (x : Station) (s : State) : Tidy s (loafToOutfeed x s) := by
  unfold loafToOutfeed
  simp only
  split
  · rename_i hn
    refine setStation_tidy x _ s (fun t => ⟨t.bag, t.travel, t.scoop, t.stage, fun e => absurd rfl e, t.heldScoop, t.heldStage⟩)
      fun _ k => ⟨fun n hm => ?_, fun _ => rfl⟩
    have hm := k.held n hm
    rw [hn] at hm
    cases hm
  · rename_i n hn
    show Keeps _ (view (setStation x _ (moveLoaf (.station x) n _ s)))
    rw [view_setStation, view_moveLoaf (.station x) .outfeed n _ s fun _ => rfl]
    exact Keeps.release (view s) x n hn

theorem afterRelease_tidy (x : Station) (s : State) (h : Vacant s x) : Tidy s (afterRelease x s) := by
  unfold afterRelease
  split
  · exact enterOpening_tidy x s h
  · exact stationOut_tidy x s h

/-- A station in RELEASING whose record has left is vacant. -/
theorem Vacant.of_released {s : State} {x : Station} (hs : (stationRec s x).state = .releasing) (ht : (stationRec s x).tag = none) :
    Vacant s x :=
  ⟨fun t => t.stage_none (by rw [hs]; nofun), fun _ _ => ht⟩

theorem releaseLoaf_tidy (x : Station) (s : State) (h : (stationRec s x).state = .releasing) : Tidy s (releaseLoaf x s) :=
  (loafToOutfeed_tidy x s).trans (afterRelease_tidy x _ (Vacant.of_released (by rw [loafToOutfeed_rec]; exact h)
    (by rw [loafToOutfeed_rec])))

theorem awaitRelease_tidy (x : Station) (s : State) : Tidy s (awaitRelease x s) := by
  unfold awaitRelease
  simp only
  split
  · rename_i h
    simp only [Bool.and_eq_true, decide_eq_true_eq] at h
    have hs : (stationRec s x).state = .releasing := h.1
    split
    · exact setStation_tidy x _ s (fun t => ⟨t.bag, t.travel, t.scoop, t.stage, fun _ => hs, t.heldScoop, t.heldStage⟩)
        fun _ k => ⟨k.held, k.idle⟩
    · exact releaseLoaf_tidy x s hs
  · exact Keeps.refl _

/-- The station's record once the tie result stands in the loaf's (R88). -/
abbrev releasingRec (s : State) (x : Station) : StationRec := { stationRec s x with state := .releasing, scoopTimer := none }

theorem view_writeTie (x : Station) (result : TieResult) (code : Option ClipCode) (s : State) :
    view (writeTie x result code s) = (view s).setAt x (releasingRec s x) (tyerOf s x).stage := by
  unfold writeTie
  simp only
  split
  · exact view_setStation x _ s
  · rw [view_setStation, view_modifyLoaf]
    · rfl
    · exact fun _ => rfl

/-- A station enters RELEASING with its stage over, from FILLING or TYING with its travel count used up. -/
theorem Keeps.releasing (v : View) (x : Station)
    (h : TimedAt (v.recs x) (v.stages x) → (v.recs x).state ≠ .opening ∧ (v.recs x).travel = none) :
    Keeps v (v.setAt x { v.recs x with state := .releasing, scoopTimer := none } none) :=
  Keeps.setAt v x _ _ (fun t => ⟨fun e => absurd (t.bag_none (h t).1) e, fun e => absurd (h t).2 e, fun e => absurd rfl e,
    fun e => absurd rfl e, fun _ => rfl, fun _ => rfl, fun _ => rfl⟩)
    fun _ k => ⟨k.held, fun e => absurd rfl (idle_ne e).2.2⟩

/-! ## The tying stage -/

/-- The strike begins: the view shows the stage alone. -/
theorem view_beginStrike (x : Station) (n : Nat) (s : State) :
    ∃ k, view (beginStrike x n s) = (view s).setAt x (stationRec s x) (some k) := by
  refine ⟨⟨(tyerOf s x).settings.strike, true, none⟩, ?_⟩
  unfold beginStrike
  rw [view_evaluate, view_countStation, view_setTyer]
  rfl

/-- A tie skipped, from any view that carries its laws to the station's entry into RELEASING. -/
theorem skipTie_tidy (x : Station) (s : State) (v : View) (h : Keeps v ((view s).setAt x (releasingRec s x) (tyerOf s x).stage)) :
    Keeps v (view (skipTie x s)) := by
  have hw : ∀ u : State, view (setTyer x { tyerOf u x with clipsOut := true } u) = view u := fun u => by
    rw [view_setTyer]
    unfold View.setAt
    rw [Function.update_eq_self, show ({ tyerOf u x with clipsOut := true } : Tyer).stage = (view u).stages x from rfl,
      Function.update_eq_self]
  refine h.trans (Keeps.trans (Keeps.of_eq ?_) ((setCondition_tidy (.clipsOut x) true _).trans (awaitRelease_tidy x _)))
  rw [hw, view_writeTie]
  rfl

/-- The record of a station that enters TYING. -/
abbrev tyingRec (s : State) (x : Station) : StationRec := { stationRec s x with state := .tying, scoopTimer := none }

/-- The tying stage begins, from any view that carries its laws to the strike and to the entry into RELEASING. -/
theorem beginTying_tidy (x : Station) (s : State) (v : View) (hk : ∀ k, Keeps v ((view s).setAt x (tyingRec s x) (some k)))
    (hr : Keeps v ((view s).setAt x (releasingRec s x) (tyerOf s x).stage)) : Keeps v (view (beginTying x s)) := by
  unfold beginTying
  simp only
  split
  · obtain ⟨k, he⟩ := view_beginStrike x _ (setStation x (tyingRec s x) s)
    rw [he, view_setStation, View.setAt_setAt, stationRec_setStation_self]
    exact hk k
  · refine skipTie_tidy x _ v ?_
    rw [view_setStation, View.setAt_setAt]
    simpa only [releasingRec, stationRec_setStation_self, tyerOf_setStation] using hr

/-- The scoop of a station that is not held is complete. -/
theorem scoopComplete_tidy (x : Station) (s : State) (h : (stationRec s x).scoopTimer ≠ none) : Tidy s (scoopComplete x s) := by
  have hr : Keeps (view s) ((view s).setAt x (releasingRec s x) (tyerOf s x).stage) :=
    Keeps.setAt (view s) x _ _ (fun t => by
      have hs := t.stage_none fun e => by cases (t.scoop h).1.symm.trans e
      refine ⟨fun e => absurd (t.bag e) fun e => ?_, fun e => absurd (t.scoop h).2 e, fun e => absurd rfl e, fun e => absurd hs e,
        fun _ => rfl, fun _ => rfl, fun _ => hs⟩
      cases (t.scoop h).1.symm.trans e) fun _ k => ⟨k.held, fun e => absurd rfl (idle_ne e).2.2⟩
  have hk : ∀ k, Keeps (view s) ((view s).setAt x (tyingRec s x) (some k)) := fun k =>
    Keeps.setAt (view s) x _ _ (fun t => ⟨fun e => absurd (t.bag e) fun e => (by cases (t.scoop h).1.symm.trans e),
      fun e => absurd (t.scoop h).2 e, fun e => absurd rfl e, fun _ => rfl, fun e => absurd (t.release e) fun e =>
        (by cases (t.scoop h).1.symm.trans e), fun _ => rfl, fun e => absurd (t.heldScoop e) h⟩)
      fun _ k => ⟨k.held, fun e => absurd rfl (idle_ne e).2.1⟩
  unfold scoopComplete
  split
  · exact beginTying_tidy x s _ hk hr
  · refine Keeps.trans ?_ (awaitRelease_tidy x _)
    rw [view_writeTie]
    exact hr

theorem endTying_tidy (x : Station) (result : TieResult) (s : State) (h : (tyerOf s x).stage ≠ none) : Tidy s (endTying x result s) := by
  unfold endTying
  simp only
  generalize ht : setTyer x _ (writeTie x result _ s) = t
  have h0 : Tidy s t := by
    show Keeps _ (view t)
    rw [← ht, view_setTyer, view_writeTie, View.setAt_recs, View.setAt_setAt]
    refine Keeps.releasing (view s) x fun k => ?_
    have hs := k.stage h
    exact ⟨fun e => (by cases hs.symm.trans e), k.travel_none fun e => by cases hs.symm.trans e⟩
  have hm : ∀ n, Tidy t (setStation x { stationRec t x with misties := n } t) := fun n =>
    setStation_same x _ t rfl rfl rfl rfl rfl rfl rfl
  refine h0.trans (Keeps.trans ?_ (awaitRelease_tidy x _))
  cases result with
  | mistie =>
    dsimp only
    refine (hm (min ((stationRec t x).misties + 1) 3)).trans ?_
    split
    · refine Keeps.trans (Keeps.of_eq ?_) (raiseFault_tidy (.station x) _ _)
      rw [view_countStation, view_warn]
    · refine Keeps.of_eq ?_
      rw [view_countStation, view_warn]
  | tied =>
    dsimp only
    refine (hm 0).trans (Keeps.of_eq ?_)
    rw [view_warn]
  | untied => exact Keeps.refl _
  | notTied => exact Keeps.refl _

/-! ## START and PURGE at a station -/

theorem stationRestarts_tidy (x : Station) (s : State) : Tidy s (stationRestarts x s) := by
  unfold stationRestarts
  simp only
  split
  · exact Keeps.refl _
  · rename_i hh
    have hh : (stationRec s x).held = true := by
      rw [Bool.or_eq_true, not_or, Bool.not_eq_true', Bool.not_eq_false] at hh
      exact hh.1
    have h0 : Tidy s (setStation x { stationRec s x with held := false } s) :=
      setStation_tidy x _ s (fun t => ⟨t.bag, t.travel, t.scoop, t.stage, t.release, nofun, nofun⟩) fun _ k => ⟨k.held, k.idle⟩
    have hopen : ∀ u : State, view u = view (setStation x { stationRec s x with held := false } s) → idleState (stationRec s x).state →
        Tidy s (enterOpening x u) := fun u hu hi => by
      refine (h0.trans (Keeps.of_eq hu)).trans (enterOpening_tidy x u (Vacant.of_idle ?_))
      rw [stationRec_of_view hu, stationRec_setStation_self]
      exact hi
    split
    · rename_i hs
      split
      · exact hopen _ rfl (.inr (.inr (.inl hs)))
      · exact hopen _ rfl (.inr (.inr (.inl hs)))
    · rename_i hs
      exact hopen _ rfl (.inr (.inr (.inr hs)))
    · rename_i hs
      split
      · exact h0
      · rename_i ht
        have ht : (stationRec s x).travel = none := by simpa using ht
        show Keeps _ (view (setStation x _ (setStation x _ s)))
        rw [view_setStation, view_setStation, View.setAt_setAt, View.setAt_stages]
        exact Keeps.setAt (view s) x _ _ (fun t => ⟨t.bag, t.travel, fun _ => ⟨hs, ht⟩, t.stage, t.release, nofun, nofun⟩)
          fun _ k => ⟨k.held, k.idle⟩
    · rename_i hs
      have hne : ∀ st, st ≠ StationState.tying → (stationRec s x).state ≠ st := fun st hn e => hn (e.symm.trans hs)
      refine beginTying_tidy x _ (view s) (fun k => ?_) ?_
      · rw [view_setStation, View.setAt_setAt, tyingRec, stationRec_setStation_self]
        exact Keeps.setAt (view s) x _ _ (fun t => ⟨fun e => absurd (t.bag_none (hne _ nofun)) e,
          fun e => absurd (t.travel_none (hne _ nofun)) e, fun e => absurd rfl e, fun _ => rfl,
          fun e => absurd (t.release_none (hne _ nofun)) e, nofun, nofun⟩) fun _ k => ⟨k.held, fun e => absurd rfl (idle_ne e).2.1⟩
      · rw [view_setStation, View.setAt_setAt, releasingRec, stationRec_setStation_self, tyerOf_setStation]
        exact Keeps.setAt (view s) x _ _ (fun t => ⟨fun e => absurd (t.bag_none (hne _ nofun)) e,
          fun e => absurd (t.travel_none (hne _ nofun)) e, fun e => absurd rfl e, fun e => absurd (t.heldStage hh) e,
          fun _ => rfl, nofun, nofun⟩) fun _ k => ⟨k.held, fun e => absurd rfl (idle_ne e).2.2⟩
    · exact h0.trans (awaitRelease_tidy x _)
    · exact h0
    · exact h0

/-- A station abandons its loaf on an empty track. -/
theorem stationAbandons_tidy (x : Station) (s : State) (h : s.track.loaves = []) : Tidy s (stationAbandons x s) := by
  unfold stationAbandons
  simp only
  split
  · exact Keeps.refl _
  · generalize ht : cutStage x _ = t
    have hv : view t = (view s).setAt x { stationRec s x with tag := none, held := false } none := by
      rw [← ht, view_cutStage, view_setStation, View.setAt_recs, View.setAt_setAt, view_wasteBag]
    have h0 : Tidy s t := by
      show Keeps _ (view t)
      rw [hv]
      refine Keeps.setAt (view s) x _ _ (fun t => ⟨t.bag, t.travel, t.scoop, fun e => absurd rfl e, t.release, nofun, nofun⟩)
        fun _ k => ⟨fun n hm => ?_, fun _ => rfl⟩
      obtain ⟨r, hr, _⟩ := mem_places.mp hm
      rw [h] at hr
      cases hr
    have hvac : Vacant t x := by
      refine ⟨fun _ => ?_, fun _ _ => ?_⟩
      · rw [show (tyerOf t x).stage = (view t).stages x from rfl, hv, View.setAt_stages]
      · rw [show stationRec t x = (view t).recs x from rfl, hv, View.setAt_recs]
    split
    · exact h0.trans (enterOpening_tidy x t hvac)
    · exact h0.trans (stationOut_tidy x t hvac)

end Sys2Proof.LoafTrack
end

-- ==== The loaf track, proofs: the view after an admission, a request or an event ====
section
/-! What each operation of the admission, each request and each event does to the view of a state, and so what every step keeps: the
schedule and the sweep (O5), the timers and the order of the track (O6). -/

namespace Sys2Proof.LoafTrack

open Sys2Proof.Machine Sys2Proof.Safety Sys2Proof.Laws

/-! ## Admission -/

theorem askSweep_tidy (reason : SweepReason) (s : State) : Tidy s (askSweep reason s) := by
  unfold askSweep
  split
  · exact Keeps.refl _
  · exact trySweep_tidy (s.setCrumb { s.crumb with pending := some reason })

theorem enterPassing_tidy (r : Loaf) (s : State) : Tidy s (enterPassing r s) :=
  (setHead_tidy { s.head with state := .passing, nextCut := none, target := ejectTargetOf s r, pausedFrom := none } s rfl
    (by simp)).trans (knifeTo_tidy false _)

/-- The context's state after the admission of a record (R63). -/
def admittedState (r : Loaf) : HeadState := if r.mark.isSome then .passing else .entering

theorem takeLoaf_tidy (r : Loaf) (s : State) (hs : s.crumb.sweep = none) (he : s.head.state = .empty) : Tidy s (takeLoaf r s) := by
  unfold takeLoaf
  simp only
  generalize hu : State.setHead (moveLoaf .infeed r.tag _ s) _ = u
  have hv : view u = { view s with places := move .infeed r.tag .slicer (view s).places, state := .empty, tag := some r.tag } := by
    rw [← hu, view_setHead, view_moveLoaf .infeed .slicer r.tag _ s fun _ => rfl, ← he]
    rfl
  generalize hc : u.setCrumb _ = c
  have hvc : view c = view u := by
    rw [← hc, view_setCrumb, ← hu]
    rfl
  refine Keeps.trans ?_ (reviewHold_tidy _)
  have ht := Keeps.take (view s) r.tag (admittedState r) hs he (by unfold admittedState; split <;> simp)
  refine ht.trans (Keeps.of_eq ?_)
  split
  · rename_i hm
    unfold enterPassing admittedState
    rw [view_knifeTo, view_setHead, hvc, hv, if_pos hm]
    rw [show c.head.tag = (view c).tag from rfl, hvc, hv]
  · rename_i hm
    unfold admittedState
    rw [view_setHead, hvc, hv, if_neg hm]
    rw [show c.head.tag = (view c).tag from rfl, hvc, hv]

/-- Crumb control takes a record only while no sweep runs (R114). -/
theorem crumbAnswer_hold {s : State} {r : Loaf} (h : s.crumb.sweep ≠ none) : crumbAnswer s r = .hold := by
  unfold crumbAnswer
  rw [if_pos (Option.isSome_iff_ne_none.mpr h)]

theorem testAdmission_tidy (s : State) : Tidy s (testAdmission s) := by
  unfold testAdmission
  split
  · rename_i ho
    unfold admissionOpen at ho
    simp only [Bool.and_eq_true, decide_eq_true_eq] at ho
    have he : s.head.state = .empty := ho.1.1.2
    split
    · exact Keeps.refl _
    · rename_i r _
      split
      · exact Keeps.refl _
      · split
        · rename_i ha
          exact takeLoaf_tidy r s (Decidable.of_not_not fun h => by cases (crumbAnswer_hold h).symm.trans ha) he
        · rename_i ha
          exact takeLoaf_tidy _ s (Decidable.of_not_not fun h => by cases (crumbAnswer_hold h).symm.trans ha) he
        · split
          · exact askSweep_tidy .changeover s
          · exact Keeps.refl _
  · exact Keeps.refl _

theorem slicerFree_tidy (s : State) : Tidy s (slicerFree s) := (trySweep_tidy s).trans (testAdmission_tidy _)

/-! ## Abandonment and resumption -/

theorem abandonLoaf_tidy (r : Loaf) (s : State) : Tidy s (abandonLoaf r s) := by
  have hp : ∀ h : Head, h.tag = s.head.tag → h.state = s.head.state → s.head.state = .paused → Tidy s (s.setHead h) :=
    fun h ht hs hp => setHead_tidy h s ht (by rw [hs, hp]; simp)
  unfold abandonLoaf
  simp only
  split
  · split
    · exact setHead_tidy _ s rfl (by simp)
    · exact enterPassing_tidy r s
  · split
    · exact setHead_tidy _ s rfl (by simp)
    · exact enterPassing_tidy r s
  · exact setHead_tidy _ s rfl (by simp)
  · rename_i hs _
    exact hp _ rfl rfl hs
  · rename_i hs _
    split
    · exact hp _ rfl rfl hs
    · exact hp _ rfl rfl hs
  · rename_i hs _
    split
    · exact hp _ rfl rfl hs
    · exact hp _ rfl rfl hs
  · exact Keeps.refl _

theorem resumedHead_tidy (s : State) : Tidy s (s.setHead (resumedHead s)) := by
  unfold resumedHead
  simp only
  split
  · split
    · exact setHead_tidy _ s rfl (by simp)
    · exact setHead_tidy _ s rfl (by simp)
    · exact setHead_tidy _ s rfl (by simp)
  · split
    · exact Keeps.refl _
    · split
      · exact setHead_tidy _ s rfl (by simp)
      · exact setHead_tidy _ s rfl (by simp)
  · exact Keeps.refl _

theorem headResumes_tidy (s : State) : Tidy s (headResumes s) := by
  unfold headResumes
  simp only
  split
  · exact resumedHead_tidy s
  · exact (resumedHead_tidy s).trans (knifeTo_tidy true _)

/-! ## The sweep's end and the conditions held by inputs -/

theorem suspensionBegins_tidy (s : State) : Tidy s (suspensionBegins s) := by
  unfold suspensionBegins
  split
  · exact Keeps.refl _
  · split
    · exact testAdmission_tidy (s.setCrumb { s.crumb with pending := none })
    · exact testAdmission_tidy s

theorem sweepSucceeds_tidy (s : State) : Tidy s (sweepSucceeds s) := by
  unfold sweepSucceeds
  refine (Keeps.endSweep (view s)).trans (Keeps.of_eq ?_)
  rw [view_countShift, view_warn, view_setCrumb]

theorem sweepIsWeak_tidy (s : State) : Tidy s (sweepIsWeak s) := by
  unfold sweepIsWeak
  simp only
  generalize ht : countShift _ (warn .sweepWeak true _) = t
  have h0 : Tidy s t := by
    refine (Keeps.endSweep (view s)).trans (Keeps.of_eq ?_)
    rw [← ht, view_countShift, view_warn, view_setCrumb]
  have hpend : ∀ u : State, Tidy u (if u.crumb.pending = some .changeover && !sweepsSuspended u then u
      else u.setCrumb { u.crumb with pending := none }) := fun u => by
    split
    · exact Keeps.refl _
    · exact Keeps.refl _
  split
  · exact h0.trans ((raiseFault_tidy .vacuumFail none (t.setCrumb { t.crumb with weakCount := 0 })).trans (hpend _))
  · exact h0.trans (hpend t)

theorem endSweep_tidy (result : SweepResult) (s : State) : Tidy s (endSweep result s) := by
  unfold endSweep
  have hs : ∀ (r : Report) (t : State), Tidy s t → Tidy s (slicerFree (evaluate .crumbHigh (report r t))) := fun r t ht => by
    refine ht.trans (Keeps.trans (Keeps.of_eq ?_) (slicerFree_tidy _))
    rw [view_evaluate, view_report]
  cases result with
  | success => exact hs _ _ (sweepSucceeds_tidy s)
  | weak => exact hs _ _ (sweepIsWeak_tidy s)
  | aborted => exact hs _ _ (sweepIsWeak_tidy s)

theorem reviewGuard_tidy (s : State) : Tidy s (reviewGuard s) := setCondition_tidy .guardOpen _ s

theorem reviewTray_tidy (s : State) : Tidy s (reviewTray s) := by
  unfold reviewTray
  simp only
  split
  · exact (setCondition_tidy .trayFull _ s).trans (suspensionBegins_tidy _)
  · exact setCondition_tidy .trayFull _ s

@[simp] theorem view_disarmStop (s : State) : view (disarmStop s) = view s := by
  unfold disarmStop
  split
  · rfl
  · refine view_modifyLoaf _ _ s fun r => ?_
    split
    · split <;> rfl
    · rfl

@[simp] theorem view_closeShiftNow (cause : CloseCause) (e : Nat) (l : Byte) (d : Option Nat) (s : State) :
    view (closeShiftNow cause e l d s) = view s := by
  unfold closeShiftNow
  simp only
  rw [view_report]
  rfl

/-! ## Requests -/

/-- A request carries the laws of the view over, where the next tag is fresh. -/
def Upholds (svc : Service) (s : State) : Prop := KeepsFresh (view s) (view (svc s).1)

theorem upholds_refuse (c : Code) (s : State) : Upholds (refuse c) s := (Keeps.refl _).fresh

theorem upholds_withForm {α : Type} (f : Form α) (k : α → Service) (s : State) (h : ∀ a, Upholds (k a) s) : Upholds (withForm f k) s := by
  unfold withForm
  cases f with
  | none => exact upholds_refuse .malformed s
  | some a => exact h a

theorem upholds_require (ok : State → Bool) (c : Code) (k : Service) (s : State) (h : ok s = true → Upholds k s) :
    Upholds (require ok c k) s := by
  unfold Upholds require
  split
  · rename_i ho
    exact h ho
  · exact (Keeps.refl _).fresh

theorem upholds_needTier (t : Tier) (k : Service) (s : State) (h : Upholds k s) : Upholds (needTier t k) s :=
  upholds_require _ _ _ _ fun _ => h

theorem upholds_of_tidy {svc : Service} {s : State} (h : Tidy s (svc s).1) : Upholds svc s := h.fresh

/-- A request that the view does not show. -/
theorem upholds_of_view {svc : Service} {s : State} (h : view (svc s).1 = view s) : Upholds svc s := (Keeps.of_eq h).fresh

theorem serve_keeps (svc : Service) (s : State) (h : Upholds svc s) : KeepsFresh (view s) (view (serve svc s)) := by
  unfold serve
  split
  · exact h
  · exact (Keeps.refl _).fresh

/-! ## The track and the recipe table -/

theorem svcSetInfeed_upholds (f : Form Nat) (s : State) : Upholds (svcSetInfeed f) s :=
  upholds_withForm _ _ _ fun n => upholds_needTier _ _ _ <|
    upholds_of_tidy (reviewHold_tidy (s.setTrack { s.track with limit := clampTo 1 4 n }))

theorem svcSetGeometry_upholds (f : Form Geometry) (s : State) : Upholds (svcSetGeometry f) s :=
  upholds_withForm _ _ _ fun _ => upholds_require _ _ _ _ fun _ => upholds_needTier _ _ _ <| upholds_require _ _ _ _ fun _ =>
    upholds_require _ _ _ _ fun _ => upholds_of_view rfl

theorem svcReject_upholds (f : Form Nat) (s : State) : Upholds (svcReject f) s := by
  refine upholds_withForm _ _ _ fun tag => upholds_require _ _ _ _ fun _ => upholds_needTier _ _ _ ?_
  have hm : Tidy s (modifyLoaf tag (Loaf.withMark .operator) s) := Keeps.of_eq (view_mark tag .operator s)
  unfold Upholds
  dsimp only
  split
  · exact (Keeps.refl _).fresh
  · rename_i r _
    split
    · exact hm.fresh
    · show KeepsFresh _ (view (if r.mark.isNone then abandonLoaf r _ else _))
      split
      · exact (hm.trans (abandonLoaf_tidy r _)).fresh
      · exact hm.fresh
    · refine KeepsFresh.trans (hm.trans ((divert_tidy tag _).trans (endStroke_tidy _))).fresh (Keeps.of_eq ?_)
      exact view_evaluate _ _
    all_goals exact (Keeps.refl _).fresh

/-- The track and the context are cleared (R21). -/
theorem Keeps.clear (v : View) : Keeps v { v with places := [], state := .empty, tag := none } :=
  ⟨id, fun _ k => ⟨List.nodup_nil, fun _ _ h => (by cases h), fun _ h => (by cases h), fun _ => rfl,
    fun x => ⟨fun _ h => (by cases h), (k.stations x).idle⟩⟩, fun k e => ⟨fun _ h => (by cases h), (k e).2⟩, id⟩

theorem purgeTrack_tidy (s : State) : Tidy s (purgeTrack s) := by
  unfold purgeTrack
  simp only
  generalize hu : State.setHead (countShift _ (setLoaves [] s)) _ = u
  have h0 : Tidy s u := by
    rw [← hu]
    exact Keeps.clear (view s)
  have hu0 : u.track.loaves = [] := by rw [← hu]; rfl
  have hu1 : (stationAbandons .a u).track.loaves = [] := List.length_eq_zero_iff.mp (by
    rw [(stationAbandons_steady .a u).kept.length, hu0]
    rfl)
  have h1 := h0.trans ((stationAbandons_tidy .a u hu0).trans (stationAbandons_tidy .b _ hu1))
  have h2 := h1.trans (afterRemoval_tidy _)
  have h3 := h2.trans (trySweep_tidy _)
  unfold afterRemoval at h2 h3
  split
  · exact h2.trans (Keeps.of_eq (view_evaluate _ _))
  · exact h3.trans (Keeps.of_eq (view_evaluate _ _))

theorem svcPurge_upholds (f : Form Unit) (s : State) : Upholds (svcPurge f) s :=
  upholds_withForm _ _ _ fun _ => upholds_needTier _ _ _ <| upholds_require _ _ _ _ fun _ => upholds_of_tidy (purgeTrack_tidy s)

/-- A reading. -/
theorem upholds_read (f : Form Unit) (t : Tier) (o : State → Owed) (s : State) :
    Upholds (withForm f fun _ => needTier t fun s => (s, o s)) s :=
  upholds_withForm _ _ _ fun _ => upholds_needTier _ _ _ <| upholds_of_view rfl

theorem needUnlockedOr_upholds (i : Slot) (k : Service) (s : State) (h : Upholds k s) : Upholds (needUnlockedOr i k) s :=
  upholds_require _ _ _ _ fun _ => upholds_require _ _ _ _ fun _ => h

theorem svcWriteRecipe_upholds (f : Form RecipeWrite) (s : State) : Upholds (svcWriteRecipe f) s :=
  upholds_withForm _ _ _ fun _ => upholds_require _ _ _ _ fun _ => upholds_needTier _ _ _ <| needUnlockedOr_upholds _ _ _ <|
    upholds_require _ _ _ _ fun _ => upholds_of_view rfl

theorem svcErase_upholds (f : Form Nat) (s : State) : Upholds (svcErase f) s :=
  upholds_withForm _ _ _ fun _ => upholds_require _ _ _ _ fun _ => upholds_needTier _ _ _ <| upholds_require _ _ _ _ fun _ =>
    needUnlockedOr_upholds _ _ _ <| upholds_require _ _ _ _ fun _ => upholds_of_view rfl

theorem svcReadRecipe_upholds (f : Form Nat) (s : State) : Upholds (svcReadRecipe f) s := by
  refine upholds_withForm _ _ _ fun _ => upholds_require _ _ _ _ fun _ => upholds_needTier _ _ _ (upholds_of_view ?_)
  split <;> rfl

theorem svcRun_upholds (f : Form Nat) (s : State) : Upholds (svcRun f) s :=
  upholds_withForm _ _ _ fun _ => upholds_require _ _ _ _ fun _ => upholds_needTier _ _ _ <| upholds_require _ _ _ _ fun _ =>
    upholds_require _ _ _ _ fun _ => upholds_of_view rfl

theorem svcLock_upholds (f : Form Nat) (s : State) : Upholds (svcLock f) s :=
  upholds_withForm _ _ _ fun _ => upholds_require _ _ _ _ fun _ => upholds_needTier _ _ _ <| upholds_require _ _ _ _ fun _ =>
    upholds_of_view rfl

theorem svcUnlock_upholds (f : Form Nat) (s : State) : Upholds (svcUnlock f) s :=
  upholds_withForm _ _ _ fun _ => upholds_require _ _ _ _ fun _ => upholds_needTier _ _ _ <| upholds_require _ _ _ _ fun _ =>
    upholds_require _ _ _ _ fun _ => upholds_of_view rfl

theorem svcBypassOn_upholds (f : Form Unit) (s : State) : Upholds (svcBypassOn f) s :=
  upholds_withForm _ _ _ fun _ => upholds_needTier _ _ _ <| upholds_require _ _ _ _ fun _ => upholds_of_view rfl

theorem svcBypassOff_upholds (f : Form Unit) (s : State) : Upholds (svcBypassOff f) s :=
  upholds_withForm _ _ _ fun _ => upholds_needTier _ _ _ <| upholds_of_view rfl

theorem svcLockdown_upholds (f : Form Unit) (s : State) : Upholds (svcLockdown f) s :=
  upholds_withForm _ _ _ fun _ => upholds_needTier _ _ _ <| upholds_of_view rfl

theorem svcTryPlan_upholds (f : Form PlanTrial) (s : State) : Upholds (svcTryPlan f) s := by
  refine upholds_withForm _ _ _ fun _ => upholds_require _ _ _ _ fun _ => upholds_require _ _ _ _ fun _ =>
    upholds_needTier _ _ _ (upholds_of_view ?_)
  simp only
  split <;> rfl

/-! ## Stations, tyers, crumb control and measurement -/

theorem loadBags_tidy (x : Station) (n : Nat) (s : State) : Tidy s (loadBags x n s) := by
  unfold loadBags
  simp only
  generalize ht : evaluate (.bagsLow x) _ = t
  have h0 : Tidy s t := by
    rw [← ht]
    exact (setStation_same x { stationRec s x with magazine := n } s rfl rfl rfl rfl rfl rfl rfl).trans (Keeps.of_eq (view_evaluate _ _))
  have h1 : Tidy t (if (stationRec t x).state = .empty && 1 ≤ n then enterOpening x t else t) := by
    split
    · rename_i h
      simp only [Bool.and_eq_true, decide_eq_true_eq] at h
      exact enterOpening_tidy x t (Vacant.of_idle (.inr (.inl h.1)))
    · exact Keeps.refl _
  exact (h0.trans (h1.trans (route_tidy _))).trans (Keeps.of_eq (view_evaluate _ _))

theorem svcLoadBags_upholds (f : Form StationLoad) (s : State) : Upholds (svcLoadBags f) s :=
  upholds_withForm _ _ _ fun _ => upholds_require _ _ _ _ fun _ => upholds_needTier _ _ _ <| upholds_of_tidy (loadBags_tidy _ _ s)

theorem svcSetDistribution_upholds (f : Form (Option Policy)) (s : State) : Upholds (svcSetDistribution f) s := by
  refine upholds_withForm _ _ _ fun w => upholds_require _ _ _ _ fun _ => ?_
  cases w with
  | none => exact upholds_refuse .range s
  | some p =>
    exact upholds_needTier _ _ _ <| upholds_of_tidy <|
      (route_tidy (s.setStations { s.stations with policy := p })).trans (Keeps.of_eq (view_evaluate _ _))

theorem setStationService_tidy (x : Station) (cls : Nat) (flag : Bool) (s : State) : Tidy s (setStationService x cls flag s) := by
  unfold setStationService
  have h0 : Tidy s (setStation x { stationRec s x with bagClass := cls, inServiceFlag := flag } s) :=
    setStation_same x _ s rfl rfl rfl rfl rfl rfl rfl
  have hv : ∀ u : State, Tidy s u → Tidy s (evaluate .noStation (route u)) := fun u hu =>
    (hu.trans (route_tidy u)).trans (Keeps.of_eq (view_evaluate _ _))
  simp only
  split
  · exact hv _ (h0.trans (serviceLost_tidy x _))
  · split
    · exact hv _ (h0.trans (serviceBack_tidy x _))
    · exact hv _ h0

theorem svcSetStation_upholds (f : Form StationSetting) (s : State) : Upholds (svcSetStation f) s :=
  upholds_withForm _ _ _ fun _ => upholds_require _ _ _ _ fun _ => upholds_require _ _ _ _ fun _ => upholds_needTier _ _ _ <|
    upholds_of_tidy (setStationService_tidy _ _ _ s)

theorem svcSetBagging_upholds (f : Form BaggingTimes) (s : State) : Upholds (svcSetBagging f) s :=
  upholds_withForm _ _ _ fun _ => upholds_needTier _ _ _ <| upholds_of_view rfl

/-- A tyer changes and keeps its stage. -/
theorem view_setTyer_same (x : Station) (t : Tyer) (s : State) (h : t.stage = (tyerOf s x).stage) : view (setTyer x t s) = view s := by
  rw [view_setTyer, h]
  unfold View.setAt
  rw [Function.update_eq_self, show (tyerOf s x).stage = (view s).stages x from rfl, Function.update_eq_self]

theorem loadClips_tidy (x : Station) (n : Nat) (s : State) : Tidy s (loadClips x n s) := by
  unfold loadClips
  have h0 : Tidy s (setTyer x { tyerOf s x with spool := n, clipsOut := false } s) := Keeps.of_eq (view_setTyer_same x _ s rfl)
  refine (h0.trans (setCondition_tidy (.clipsOut x) false _)).trans (Keeps.of_eq ?_)
  rw [view_evaluate, view_evaluate]

theorem svcLoadClips_upholds (f : Form StationLoad) (s : State) : Upholds (svcLoadClips f) s :=
  upholds_withForm _ _ _ fun _ => upholds_require _ _ _ _ fun _ => upholds_require _ _ _ _ fun _ => upholds_needTier _ _ _ <|
    upholds_of_tidy (loadClips_tidy _ _ s)

theorem svcSetTyer_upholds (f : Form TyerWrite) (s : State) : Upholds (svcSetTyer f) s := by
  refine upholds_withForm _ _ _ fun w => upholds_require _ _ _ _ fun _ => upholds_needTier _ _ _ (upholds_of_view ?_)
  simp only
  split
  · rw [view_evaluate]
    exact view_setTyer_same _ _ s rfl
  · rfl

theorem svcCleanNow_upholds (f : Form Unit) (s : State) : Upholds (svcCleanNow f) s :=
  upholds_withForm _ _ _ fun _ => upholds_needTier _ _ _ <| upholds_require _ _ _ _ fun _ =>
    upholds_of_tidy (trySweep_tidy (s.setCrumb { s.crumb with pending := s.crumb.pending.or (some .command) }))

theorem testBursting_sweep (c : Crumb) : (testBursting c).sweep = c.sweep := by
  unfold testBursting
  repeat' split
  all_goals rfl

/-- Crumb control changes and keeps its sweep. -/
theorem view_setCrumb_same (c : Crumb) (s : State) (h : c.sweep = s.crumb.sweep) : view (s.setCrumb c) = view s := by
  rw [view_setCrumb, h]
  rfl

theorem setCrumbSettings_tidy (v : CrumbSettings) (s : State) : Tidy s (setCrumbSettings v s) := by
  unfold setCrumbSettings
  have h0 : Tidy s (s.setCrumb (testBursting { s.crumb with settings := v })) :=
    Keeps.of_eq (view_setCrumb_same _ s (testBursting_sweep _))
  simp only
  split
  · exact (h0.trans (askSweep_tidy .threshold _)).trans (Keeps.of_eq (view_evaluate _ _))
  · exact h0.trans (Keeps.of_eq (view_evaluate _ _))

theorem svcSetCrumb_upholds (f : Form CrumbSettings) (s : State) : Upholds (svcSetCrumb f) s :=
  upholds_withForm _ _ _ fun _ => upholds_needTier _ _ _ <| upholds_of_tidy (setCrumbSettings_tidy _ s)

theorem svcSetLimits_upholds (f : Form LimitsWrite) (s : State) : Upholds (svcSetLimits f) s :=
  upholds_withForm _ _ _ fun _ => upholds_require _ _ _ _ fun _ => upholds_require _ _ _ _ fun _ => upholds_require _ _ _ _ fun _ =>
    upholds_needTier _ _ _ <| upholds_of_view rfl

theorem svcSetSampling_upholds (f : Form SamplingWrite) (s : State) : Upholds (svcSetSampling f) s := by
  refine upholds_withForm _ _ _ fun w => upholds_require _ _ _ _ fun _ => upholds_require _ _ _ _ fun _ =>
    upholds_require _ _ _ _ fun _ => ?_
  cases w.mode with
  | none => exact upholds_refuse .range s
  | some m => exact upholds_needTier _ _ _ <| upholds_of_view (view_arbitrate _)

@[simp] theorem view_trendTakes (c : Channel) (s : State) : view (trendTakes c s) = view s := by
  unfold trendTakes
  split <;> rfl

theorem svcSetTrend_upholds (f : Form TrendWrite) (s : State) : Upholds (svcSetTrend f) s :=
  upholds_withForm _ _ _ fun _ => upholds_require _ _ _ _ fun _ => upholds_require _ _ _ _ fun _ => upholds_needTier _ _ _ <|
    upholds_of_view (view_trendTakes _ _)

/-! ## Supervision -/

theorem enterRunning_tidy (s : State) : Tidy s (enterRunning s) := by
  refine Keeps.trans ?_ (Keeps.of_eq (view_evaluate .noStation _))
  exact (setLine_tidy .running s nofun).trans <| (headResumes_tidy _).trans <| (reviewHold_tidy _).trans <|
    (stationRestarts_tidy .a _).trans <| (stationRestarts_tidy .b _).trans <| (slicerFree_tidy _).trans (endStroke_tidy _)

/-- The line starts, whatever the reply says (R140). -/
theorem started_upholds (s : State) : Upholds (fun s => lineReply "START" (enterRunning s)) s := by
  unfold Upholds
  dsimp only [lineReply]
  exact Keeps.fresh (enterRunning_tidy s)

theorem svcStart_upholds (f : Form Unit) (s : State) : Upholds (svcStart f) s := by
  refine upholds_withForm _ _ _ fun _ => upholds_needTier _ _ _ ?_
  iterate 6 refine upholds_require _ _ _ _ fun _ => ?_
  exact started_upholds s

theorem svcStopDrain_upholds (f : Form Unit) (s : State) : Upholds (svcStopDrain f) s :=
  upholds_withForm _ _ _ fun _ => upholds_needTier _ _ _ <| upholds_require _ _ _ _ fun _ => upholds_of_tidy <|
    ((enterDraining_tidy s).trans (settleBelt_tidy _)).trans (Keeps.of_eq (view_evaluate .noStation _))

theorem svcStopNow_upholds (f : Form Unit) (s : State) : Upholds (svcStopNow f) s :=
  upholds_withForm _ _ _ fun _ => upholds_needTier _ _ _ <| upholds_require _ _ _ _ fun _ => upholds_of_tidy <|
    ((enterStopped_tidy true s).trans (settleBelt_tidy _)).trans (Keeps.of_eq (view_evaluate .noStation _))

theorem svcSetAction_upholds (f : Form ActionWrite) (s : State) : Upholds (svcSetAction f) s := by
  refine upholds_withForm _ _ _ fun w => ?_
  cases w.fault with
  | none => exact upholds_refuse .range s
  | some k =>
    refine upholds_require _ _ _ _ fun _ => ?_
    cases w.action with
    | none => exact upholds_refuse .range s
    | some a => exact upholds_require _ _ _ _ fun _ => upholds_needTier _ _ _ <| upholds_of_view rfl

theorem view_foldl {α : Type} (f : State → α → State) (h : ∀ t a, view (f t a) = view t) (as : List α) (s : State) :
    view (as.foldl f s) = view s := by
  induction as generalizing s with
  | nil => rfl
  | cons a as ih => exact (ih _).trans (h s a)

@[simp] theorem view_clearLatched (s : State) : view (clearLatched s) = view s :=
  view_foldl _ (fun t k => view_faultMoves k .inactive t) _ s

theorem holdEnded_tidy (before : State) (x : Station) (s : State) : Tidy s (holdEnded before x s) := by
  unfold holdEnded
  split
  · exact serviceBack_tidy x s
  · exact Keeps.refl _

theorem leaveHalted_tidy (s : State) : Tidy s (leaveHalted s) :=
  (setLine_tidy .stopped s nofun).trans <| (Keeps.of_eq (view_trendTakes _ _)).trans <| (tryDraw_tidy .a _).trans <|
    (tryDraw_tidy .b _).trans (route_tidy _)

theorem clearFaults_tidy (s : State) : Tidy s (clearFaults s) := by
  unfold clearFaults
  have h0 : Tidy s (holdEnded s .b (holdEnded s .a (clearLatched s))) :=
    (Keeps.of_eq (view_clearLatched s)).trans ((holdEnded_tidy s .a _).trans (holdEnded_tidy s .b _))
  simp only
  generalize holdEnded s .b (holdEnded s .a (clearLatched s)) = t at h0 ⊢
  have h1 : Tidy t (if sweepsSuspended s && !sweepsSuspended t then trySweep t else t) := by
    split
    · exact trySweep_tidy t
    · exact Keeps.refl _
  generalize (if sweepsSuspended s && !sweepsSuspended t then trySweep t else t) = u at h1 ⊢
  have h2 : Tidy u (if u.sup.line = .halted && !haltStands u then leaveHalted u else u) := by
    split
    · exact leaveHalted_tidy u
    · exact Keeps.refl _
  exact (h0.trans (h1.trans h2)).trans (Keeps.of_eq (view_evaluate .noStation _))

theorem svcClearFaults_upholds (f : Form Unit) (s : State) : Upholds (svcClearFaults f) s :=
  upholds_withForm _ _ _ fun _ => upholds_needTier _ _ _ <| upholds_of_tidy (clearFaults_tidy s)

theorem svcSetMask_upholds (f : Form MaskWrite) (s : State) : Upholds (svcSetMask f) s := by
  refine upholds_withForm _ _ _ fun w => ?_
  cases w.name with
  | none => exact upholds_refuse .range s
  | some n =>
    refine upholds_require _ _ _ _ fun _ => upholds_require _ _ _ _ fun _ => upholds_needTier _ _ _ (upholds_of_view ?_)
    cases n <;> rfl

/-! ## The shift clock -/

theorem view_setClock (n : Nat) (s : State) : view (setClock n s) = view s := by
  unfold setClock
  simp only
  split
  · split
    · rfl
    · rw [view_closeShiftNow]
      rfl
  · rfl

theorem svcSetClock_upholds (f : Form Moment) (s : State) : Upholds (svcSetClock f) s :=
  upholds_withForm _ _ _ fun _ => upholds_require _ _ _ _ fun _ => upholds_needTier _ _ _ <| upholds_of_view (view_setClock _ s)

theorem rises_pairwise : ∀ {l : List Nat}, rises l = true → l.Pairwise (· < ·)
  | [], _ => List.Pairwise.nil
  | [_], _ => List.pairwise_singleton _ _
  | a :: b :: rest, h => by
    unfold rises at h
    rw [Bool.and_eq_true, decide_eq_true_eq] at h
    have ih := rises_pairwise h.2
    refine List.Pairwise.cons (fun c hc => ?_) ih
    rcases List.mem_cons.mp hc with rfl | hc
    · exact h.1
    · exact h.1.trans (List.rel_of_pairwise_cons ih hc)

/-- The entries that SET SHIFTS takes are a schedule as R158 has it. -/
theorem scheduled_of_pairs (ps : List ShiftPair) (hn : within 1 4 ps.length = true)
    (hr : (ps.all pairInRange && scheduleRises (ps.map entryOf)) = true) : Scheduled (ps.map entryOf) := by
  unfold within at hn
  simp only [Bool.and_eq_true, decide_eq_true_eq, List.all_eq_true] at hn hr
  obtain ⟨hp, hs⟩ := hr
  refine ⟨by simpa using hn, fun e he => ?_, fun first hf => ?_⟩
  · obtain ⟨p, hpm, rfl⟩ := List.mem_map.mp he
    have h := hp p hpm
    unfold pairInRange within at h
    simp only [Bool.and_eq_true, decide_eq_true_eq] at h
    refine ⟨h.1.1, ?_⟩
    show p.hour * 60 + p.minute ≤ 1439
    omega
  · unfold scheduleRises at hs
    cases hq : ps.map entryOf with
    | nil =>
      rw [hq] at hf
      cases hf
    | cons e es =>
      rw [hq] at hf hs
      cases hf
      exact rises_pairwise hs

theorem setShifts_keeps (es : List ShiftEntry) (s : State) (h : Scheduled es) : Tidy s (setShifts es s) := by
  have hv : view (setShifts es s) = { view s with schedule := es } := by
    unfold setShifts
    simp only
    rw [view_closeShiftNow, view_setShift]
  show Keeps _ (view (setShifts es s))
  rw [hv]
  exact ⟨id, fun _ k => ⟨k.tags, k.transfer, k.context, k.free, k.stations⟩, id, fun _ => h⟩

theorem svcSetShifts_upholds (f : Form (List ShiftPair)) (s : State) : Upholds (svcSetShifts f) s :=
  upholds_withForm _ _ _ fun ps => upholds_require _ _ _ _ fun hn => upholds_require _ _ _ _ fun hr => upholds_needTier _ _ _ <|
    upholds_of_tidy (setShifts_keeps _ s (scheduled_of_pairs ps hn hr))

theorem svcCloseShift_upholds (f : Form Unit) (s : State) : Upholds (svcCloseShift f) s :=
  upholds_withForm _ _ _ fun _ => upholds_needTier _ _ _ <| upholds_of_view (view_closeShiftNow _ _ _ _ s)

theorem svcReadHistory_upholds (f : Form Nat) (s : State) : Upholds (svcReadHistory f) s := by
  refine upholds_withForm _ _ _ fun i => upholds_require _ _ _ _ fun _ => ?_
  unfold Upholds
  simp only
  split
  · exact (Keeps.refl _).fresh
  · exact upholds_needTier _ _ _ (upholds_of_view rfl)

end Sys2Proof.LoafTrack
end

-- ==== The loaf track, proofs: the view after an event ====
section
/-! What each event does to the view of a state. -/

namespace Sys2Proof.LoafTrack

open Sys2Proof.Machine Sys2Proof.Safety Sys2Proof.Laws

/-- An event carries the laws of the view over, where the next tag is fresh. -/
abbrev Fair (s t : State) : Prop := KeepsFresh (view s) (view t)

/-! ## The eyes of the track -/

theorem view_setTrack (t : Track) (s : State) :
    view (s.setTrack t) = { view s with places := t.loaves.map placeOf, nextTag := t.nextTag } := rfl

theorem openRecord_fair (s : State) : Fair s (openRecord s) := by
  unfold openRecord
  simp only
  generalize ht : s.setTrack _ = t
  have h0 : Fair s t := by
    rw [Fair, ← ht, view_setTrack, List.map_append]
    exact KeepsFresh.opens (view s) _
  exact h0.trans ((Keeps.of_eq (view_countShift _ t)).trans ((reviewHold_tidy _).trans (Keeps.of_eq (view_evaluate .trackFull _))))

theorem trackOverrun_tidy (s : State) : Tidy s (trackOverrun s) :=
  (Keeps.of_eq (view_countShift _ s)).trans (raiseFault_tidy .trackOverrun none _)

theorem infeedLeading_fair (s : State) : Fair s (infeedLeading s) := by
  unfold infeedLeading
  split
  · split
    · exact openRecord_fair s
    · exact (trackOverrun_tidy s).fresh
  · exact (Keeps.refl _).fresh

theorem placeOf_measure (r : Loaf) (b : Belt) (g : Geometry) : placeOf (r.measure b g) = placeOf r := by
  unfold Loaf.measure
  simp only
  split
  · split <;> rfl
  · rfl

theorem fixLength_tidy (r : Loaf) (s : State) : Tidy s (fixLength r s) := by
  unfold fixLength
  simp only
  generalize ht : modifyLoaf r.tag _ s = t
  have h0 : Tidy s t := Keeps.of_eq (ht ▸ view_modifyLoaf _ _ s fun l => placeOf_measure l _ _)
  split
  · exact h0.trans (testAdmission_tidy t)
  · exact h0

theorem infeedTrailing_tidy (s : State) : Tidy s (infeedTrailing s) := by
  unfold infeedTrailing
  split
  · exact Keeps.refl _
  · split
    · exact fixLength_tidy _ s
    · exact Keeps.refl _

theorem stopLeading_tidy (s : State) : Tidy s (stopLeading s) := (Keeps.of_eq (view_disarmStop s)).trans (testAdmission_tidy _)

theorem endEyeLeading_tidy (eye : EndEye) (s : State) : Tidy s (endEyeLeading eye s) := Keeps.of_eq (view_warn _ _ s)

theorem removeLoaf_tidy (n : Nat) (s : State) : Tidy s (removeLoaf n s) :=
  Keeps.remove (view s) _ (List.eraseP_sublist.map placeOf)

theorem loafBagged_tidy (r : Loaf) (s : State) : Tidy s (loafBagged r s) := by
  unfold loafBagged
  refine (removeLoaf_tidy r.tag s).trans (Keeps.trans (Keeps.of_eq ?_) (afterRemoval_tidy _))
  rw [view_report, view_warn, view_countShift]

theorem loafRejected_tidy (r : Loaf) (s : State) : Tidy s (loafRejected r s) := by
  unfold loafRejected
  refine (removeLoaf_tidy r.tag s).trans (Keeps.trans (Keeps.of_eq ?_) (afterRemoval_tidy _))
  rw [view_report, view_warn, view_countShift]

theorem exitTrailing_tidy (s : State) : Tidy s (exitTrailing s) := by
  unfold exitTrailing
  split
  · exact Keeps.of_eq (view_warn _ _ s)
  · exact loafBagged_tidy _ s

theorem rejectTrailing_tidy (s : State) : Tidy s (rejectTrailing s) := by
  unfold rejectTrailing
  split
  · exact Keeps.of_eq (view_warn _ _ s)
  · simp only
    split
    · exact (loafRejected_tidy _ s).trans (route_tidy _)
    · exact loafRejected_tidy _ s

/-! ## The belt -/

/-- A belt step moves travel counts on and starts or ends none. -/
theorem Keeps.travels (v : View) (forward : Bool) : Keeps v { v with recs := fun x => (v.recs x).step forward } := by
  have none_iff : ∀ r : StationRec, (r.step forward).travel = none ↔ r.travel = none := fun r => by simp [StationRec.step]
  refine ⟨fun h x => ?_, fun _ k => ⟨k.tags, k.transfer, k.context, k.free, fun x => ⟨(k.stations x).held, (k.stations x).idle⟩⟩, id, id⟩
  have hx := h x
  exact ⟨hx.bag, fun e => hx.travel ((none_iff _).not.mp e), fun e => ⟨(hx.scoop e).1, (none_iff _).mpr (hx.scoop e).2⟩, hx.stage,
    hx.release, hx.heldScoop, hx.heldStage⟩

theorem beltMoves_tidy (s : State) : Tidy s (beltMoves s) := by
  unfold beltMoves
  split
  · exact Keeps.refl _
  · exact setCondition_tidy .beltStall false (s.setSup { s.sup with beltWatch := true })

theorem beltStep_tidy (forward : Bool) (s : State) : Tidy s (beltStep forward s) := by
  unfold beltStep
  simp only
  refine Keeps.trans ?_ (beltMoves_tidy _)
  refine (Keeps.travels (view s) forward).trans (Keeps.of_eq ?_)
  unfold view
  congr 1
  · show (s.track.loaves.map (Loaf.step forward)).map placeOf = s.track.loaves.map placeOf
    rw [List.map_map]
    rfl
  · funext x
    cases x <;> rfl

theorem checkExpires_tidy (kind : CheckKind) (n : Nat) (s : State) : Tidy s (checkExpires kind n s) := by
  unfold checkExpires
  split
  · generalize ht : modifyLoaf n _ s = t
    have h0 : Tidy s t := Keeps.of_eq (ht ▸ view_modifyLoaf n _ s fun _ => rfl)
    exact (h0.trans (raiseFault_tidy (checkFault kind) (some n) t)).trans (Keeps.of_eq (view_finish _))
  · exact Keeps.refl _

theorem watchExpires_tidy (s : State) : Tidy s (watchExpires s) := by
  unfold watchExpires
  split
  · exact (setCondition_tidy .beltStall true (s.setSup { s.sup with beltWatch := false })).trans (Keeps.of_eq (view_finish _))
  · exact Keeps.refl _

/-! ## The slicing head -/

theorem crumbTakesCut_tidy (c : Nat) (s : State) : Tidy s (crumbTakesCut c s) := by
  unfold crumbTakesCut
  simp only
  refine Keeps.trans ?_ (Keeps.of_eq (view_evaluate .crumbHigh _))
  generalize hc : testBursting _ = v
  have h0 : Tidy s (s.setCrumb v) := Keeps.of_eq (view_setCrumb_same v s (by rw [← hc, testBursting_sweep]))
  split
  · exact h0.trans (askSweep_tidy .threshold _)
  · exact h0

theorem countCut_tidy (r : Loaf) (i : Nat) (s : State) : Tidy s (countCut r i s) := by
  unfold countCut
  simp only
  generalize ht : modifyLoaf r.tag _ s = t
  have h0 : Tidy s t := Keeps.of_eq (ht ▸ view_modifyLoaf _ _ s fun _ => rfl)
  have h1 := h0.trans (setHead_tidy { t.head with state := .cutting, nextCut := some (i + 1) } t rfl (by simp))
  generalize hu : countShift _ (crumbTakesCut _ _) = u
  have h2 : Tidy s u := h1.trans ((crumbTakesCut_tidy _ _).trans (Keeps.of_eq (hu ▸ view_countShift _ _)))
  split
  · exact h2.trans (Keeps.of_eq (view_warn .miscut false (u.setHead { u.head with miscuts := 0 })))
  · exact h2

theorem missCut_tidy (r : Loaf) (s : State) : Tidy s (missCut r s) := by
  unfold missCut
  simp only
  generalize ht : abandonLoaf r (modifyLoaf r.tag (Loaf.withMark .miscut) s) = t
  have h0 : Tidy s t := (Keeps.of_eq (view_mark r.tag .miscut s)).trans (ht ▸ abandonLoaf_tidy r _)
  generalize hu : warn .miscut true (t.setHead _) = u
  have h1 : Tidy s u := h0.trans (Keeps.of_eq (by rw [← hu, view_warn]; rfl))
  split
  · exact h1.trans (raiseFault_tidy .pusherFault _ (u.setHead { u.head with miscuts := 0 }))
  · exact h1

theorem contextAtCut_tidy (s : State) : Tidy s (contextAtCut s) := by
  unfold contextAtCut
  split
  · split
    · exact countCut_tidy _ _ s
    · exact missCut_tidy _ s
  · exact Keeps.refl _

/-- The head changes and keeps its state and its tag. -/
theorem view_setHead_same (h : Head) (s : State) (hs : h.state = s.head.state) (ht : h.tag = s.head.tag) : view (s.setHead h) = view s := by
  rw [view_setHead, hs, ht]
  rfl

theorem view_bladeCuts (n : Nat) (s : State) : view (bladeCuts n s) = view s := by
  unfold bladeCuts
  simp only
  rw [view_phaseBegins]
  split <;> rfl

theorem cutBegins_tidy (n : Nat) (s : State) : Tidy s (cutBegins n s) := by
  unfold cutBegins
  simp only
  have h0 : Tidy s (s.setHead { s.head with phaseInput := true }) := Keeps.of_eq (view_setHead_same _ s rfl rfl)
  split
  · exact h0.trans ((Keeps.of_eq (view_bladeCuts n _)).trans ((contextAtCut_tidy _).trans (Keeps.of_eq (view_finish _))))
  · exact h0

@[simp] theorem view_airKnifePulse (s : State) : view (airKnifePulse s) = view s := by
  unfold airKnifePulse
  split
  · rw [view_countShift]
    exact view_setCrumb_same _ s (testBursting_sweep _)
  · rfl

theorem view_bladeReturns (n : Nat) (s : State) : view (bladeReturns n s) = view s := by
  unfold bladeReturns
  split
  · rfl
  · rw [view_phaseBegins, view_airKnifePulse]
    rfl
  · rw [view_phaseBegins, view_airKnifePulse]

theorem advanceTo_tidy (p : Plan) (i : Nat) (s : State) : Tidy s (advanceTo p i s) := by
  unfold advanceTo
  split
  · exact setHead_tidy _ s rfl (by simp)
  · exact (setHead_tidy { s.head with state := .ejecting, target := p.ejectTarget } s rfl (by simp)).trans (endStroke_tidy _)

theorem contextAtReturn_tidy (s : State) : Tidy s (contextAtReturn s) := by
  unfold contextAtReturn
  split
  · exact advanceTo_tidy _ _ s
  · exact advanceTo_tidy _ _ s
  · exact Keeps.refl _

theorem returnBegins_tidy (n : Nat) (s : State) : Tidy s (returnBegins n s) := by
  unfold returnBegins
  simp only
  have h0 : Tidy s (s.setHead { s.head with phaseInput := false }) := Keeps.of_eq (view_setHead_same _ s rfl rfl)
  split
  · exact h0.trans ((Keeps.of_eq (view_bladeReturns n _)).trans ((contextAtReturn_tidy _).trans (Keeps.of_eq (view_finish _))))
  · exact h0

theorem pusherMoved_tidy (wasHome : Bool) (s : State) : Tidy s (pusherMoved wasHome s) := by
  unfold pusherMoved
  split
  · exact endStroke_tidy s
  · exact endStroke_tidy s
  · rename_i hs
    split
    · exact (emptied_tidy s (.inr hs)).trans (slicerFree_tidy _)
    · exact Keeps.refl _
  · split
    · exact slicerFree_tidy s
    · exact Keeps.refl _
  · exact Keeps.refl _

theorem pusherStep_tidy (forward : Bool) (s : State) : Tidy s (pusherStep forward s) :=
  pusherMoved_tidy (pusherHome s.head) (s.setHead { s.head with pusher := if forward then s.head.pusher + 1 else s.head.pusher - 1 })

theorem stallExpires_tidy (s : State) : Tidy s (stallExpires s) := by
  unfold stallExpires
  split
  · exact Keeps.refl _
  · exact (raiseFault_tidy .bladeStall s.head.tag (s.setHead { s.head with stallTimer := none })).trans (Keeps.of_eq (view_finish _))

/-! ## The stations -/

/-- The laws that need the timers of the stations are carried over where these stand; the others always. -/
theorem Keeps.of_timed {v w : View} (h : v.Timed → Keeps v w) (hs : v.Swept → w.Swept) (hc : Scheduled v.schedule → Scheduled w.schedule) :
    Keeps v w :=
  ⟨fun t => (h t).timed t, fun t => (h t).order t, hs, hc⟩

/-- The laws of the sweep and of the schedule, which no station touches. -/
structure Clears (v w : View) : Prop where
  swept : v.Swept → w.Swept
  schedule : Scheduled v.schedule → Scheduled w.schedule

theorem Keeps.clears {v w : View} (h : Keeps v w) : Clears v w := ⟨h.swept, h.schedule⟩

theorem Clears.trans {u v w : View} (h : Clears u v) (k : Clears v w) : Clears u w := ⟨k.swept ∘ h.swept, k.schedule ∘ h.schedule⟩

theorem Keeps.of_clears {v w : View} (k : Clears v w) (h : v.Timed → Keeps v w) : Keeps v w := Keeps.of_timed h k.swept k.schedule

theorem setStation_clears (x : Station) (r : StationRec) (s : State) : Clears (view s) (view (setStation x r s)) := by
  rw [view_setStation]
  exact ⟨id, id⟩

theorem stationOut_clears (x : Station) (s : State) : Clears (view s) (view (stationOut x s)) :=
  (setStation_clears x _ s).trans (Keeps.of_eq (view_evaluate _ _)).clears

theorem enterOpening_clears (x : Station) (s : State) : Clears (view s) (view (enterOpening x s)) :=
  (setStation_clears x _ s).trans ((Keeps.of_eq (view_evaluate _ _)).trans (tryDraw_tidy x _)).clears

theorem afterRelease_clears (x : Station) (s : State) : Clears (view s) (view (afterRelease x s)) := by
  unfold afterRelease
  split
  · exact enterOpening_clears x s
  · exact stationOut_clears x s

theorem bagCovered_tidy (x : Station) (s : State) : Tidy s (bagCovered x s) := by
  unfold bagCovered
  split
  · rename_i h
    simp only [Bool.and_eq_true, decide_eq_true_eq] at h
    exact stationReady_tidy x s fun _ => .inr (.inr (.inl h.1.1))
  · exact Keeps.refl _

theorem bagCleared_tidy (x : Station) (s : State) : Tidy s (bagCleared x s) := by
  unfold bagCleared
  split
  · exact Keeps.refl _
  · split
    · rename_i hs
      exact releaseLoaf_tidy x s hs
    · rename_i hs
      exact enterOpening_tidy x (wasteBag x s) (Vacant.of_idle (.inr (.inr (.inr hs))))
    · exact Keeps.refl _

/-- A draw starts the bag timer afresh, or leaves it stopped: whether it ran before makes no difference. -/
theorem drawBag_stopped (x : Station) (n : Nat) (s : State) :
    drawBag x n (setStation x { stationRec s x with bagTimer := none } s) = drawBag x n s := by
  have he : stationEmpties x (setStation x { stationRec s x with bagTimer := none } s) = stationEmpties x s := by cases x <;> rfl
  have hd : drawn (setStation x { stationRec s x with bagTimer := none } s) x n = drawn s x n := by cases x <;> rfl
  rw [drawBag_eq, drawBag_eq, stationRec_setStation_self, he, hd]

theorem openTimeout_tidy (x : Station) (s : State) : Tidy s (openTimeout x s) := by
  unfold openTimeout
  split
  · exact Keeps.refl _
  · rename_i b hb
    have hopen : TimedIn s x → (stationRec s x).state = .opening := fun t => t.bag (by rw [hb]; nofun)
    simp only
    refine Keeps.trans ?_ (Keeps.of_eq (view_finish _))
    split
    · rw [drawBag_stopped]
      exact drawBag_tidy x 2 (wasteBag x s) hopen
    · have hf : Tidy s (raiseFault (.station x) none (wasteBag x s)) := raiseFault_tidy (.station x) none (wasteBag x s)
      refine Keeps.of_clears (hf.clears.trans (stationOut_clears x _)) fun t => hf.trans (stationOut_tidy x _ (Vacant.of_idle ?_))
      rw [(raiseFault_stands (.station x) none (wasteBag x s) x).1]
      exact .inr (.inr (.inl (hopen (t x))))

theorem releaseTimeout_tidy (x : Station) (s : State) : Tidy s (releaseTimeout x s) := by
  unfold releaseTimeout
  split
  · exact Keeps.refl _
  · rename_i n hn
    have hf := (loafToOutfeed_tidy x s).trans (raiseFault_tidy (.station x) (stationRec s x).tag (loafToOutfeed x s))
    have hst := raiseFault_stands (.station x) (stationRec s x).tag (loafToOutfeed x s) x
    rw [loafToOutfeed_rec] at hst
    refine Keeps.trans ?_ (Keeps.of_eq (view_finish _))
    refine Keeps.of_clears (hf.clears.trans (afterRelease_clears x _)) fun t => hf.trans (afterRelease_tidy x _ ?_)
    exact Vacant.of_released (hst.1.trans ((t x).release (by rw [show ((view s).recs x).releaseTimer = _ from hn]; nofun))) hst.2

theorem travelExpires_tidy (x : Station) (s : State) : Tidy s (travelExpires x s) := by
  unfold travelExpires
  simp only
  split
  · rename_i ht
    have hf : TimedIn s x → (stationRec s x).state = .filling := fun t => t.travel (by rw [ht]; nofun)
    refine setStation_tidy x _ s (fun t => ⟨t.bag, fun e => absurd rfl e, fun _ => ⟨hf t, rfl⟩, t.stage, t.release, fun hh => ?_,
      t.heldStage⟩) fun _ k => ⟨k.held, k.idle⟩
    exact if_pos hh
  · exact Keeps.refl _

theorem scoopEnds_tidy (x : Station) (s : State) : Tidy s (scoopEnds x s) := by
  unfold scoopEnds
  split
  · exact Keeps.refl _
  · rename_i n hn
    exact (scoopComplete_tidy x s (by rw [hn]; nofun)).trans (Keeps.of_eq (view_finish _))

/-- A running stage changes. -/
theorem setStage_tidy (x : Station) (t : Tyer) (s : State) (h : (tyerOf s x).stage ≠ none) : Tidy s (setTyer x t s) := by
  show Keeps _ (view (setTyer x t s))
  rw [view_setTyer]
  exact Keeps.setAt (view s) x _ _ (fun k => ⟨k.bag, k.travel, k.scoop, fun _ => k.stage h, k.release, k.heldScoop,
    fun hh => absurd (k.heldStage hh) h⟩) fun _ k => ⟨k.held, k.idle⟩

theorem strikeMiddle_tidy (x : Station) (s : State) : Tidy s (strikeMiddle x s) := by
  unfold strikeMiddle
  split
  · exact Keeps.refl _
  · rename_i k hk
    split
    · exact (setStage_tidy x _ s (by rw [hk]; nofun)).trans (Keeps.of_eq (view_askConversion _ _))
    · exact Keeps.refl _

theorem strikeEnds_tidy (x : Station) (s : State) : Tidy s (strikeEnds x s) := by
  unfold strikeEnds
  split
  · exact Keeps.refl _
  · rename_i result h
    obtain ⟨k, hk, _⟩ := Option.bind_eq_some_iff.mp h
    exact (endTying_tidy x result s (by rw [hk]; nofun)).trans (Keeps.of_eq (view_finish _))

/-! ## The sweep and measurement -/

/-- A running sweep goes on. -/
theorem sweepGoesOn_tidy (w : Sweep) (s : State) (h : s.crumb.sweep ≠ none) : Tidy s (s.setCrumb { s.crumb with sweep := some w }) :=
  Keeps.runSweep (view s) (some w) fun k => k h

theorem takeBound_tidy (value : Nat) (s : State) (b : BoundLimit) : Tidy s (takeBound value s b) := by
  unfold takeBound
  simp only
  split
  · exact Keeps.refl _
  · unfold boundMoves
    split
    · exact (Keeps.of_eq (view_setMeas _ s)).trans (setCondition_tidy _ _ _)
    · exact Keeps.of_eq (view_warn _ _ _)

theorem foldl_tidy {α : Type} (f : State → α → State) (h : ∀ t a, Tidy t (f t a)) (as : List α) (s : State) : Tidy s (as.foldl f s) := by
  induction as generalizing s with
  | nil => exact Keeps.refl _
  | cons a as ih => exact (h s a).trans (ih (f s a))

theorem takeBounds_tidy (c : Channel) (value : Nat) (s : State) : Tidy s (takeBounds c value s) :=
  foldl_tidy _ (fun t b => takeBound_tidy value t b) _ s

theorem watchPressure_tidy (value : Nat) (s : State) : Tidy s (watchPressure value s) := by
  unfold watchPressure
  split
  · exact Keeps.refl _
  · rename_i w hw
    split
    · exact sweepGoesOn_tidy _ s (by rw [hw]; nofun)
    · exact Keeps.refl _

theorem judgeStrike_tidy (x : Station) (c : Channel) (value : Nat) (s : State) : Tidy s (judgeStrike x c value s) := by
  unfold judgeStrike
  split
  · exact Keeps.refl _
  · rename_i k hk
    exact setStage_tidy x _ s (by rw [hk]; nofun)

theorem judgeSweep_tidy (s : State) : Tidy s (judgeSweep s) := by
  unfold judgeSweep
  split
  · exact Keeps.refl _
  · rename_i w hw
    simp only
    split
    · exact sweepGoesOn_tidy _ s (by rw [hw]; nofun)
    · exact endSweep_tidy _ s

theorem handToRequester_tidy (c : Channel) (value : Nat) (req : Option ConvRequest) (s : State) :
    Tidy s (handToRequester c value req s) := by
  unfold handToRequester
  split
  · exact judgeStrike_tidy _ c value s
  · exact judgeSweep_tidy s
  · exact Keeps.refl _

theorem conversionDone_tidy (value : Raw) (s : State) : Tidy s (conversionDone value s) := by
  unfold conversionDone
  split
  · exact Keeps.refl _
  · rename_i v _
    simp only
    generalize ht : takeBounds v.channel value.toNat _ = t
    have h0 : Tidy s t := ht ▸ (Keeps.of_eq (view_setMeas _ s)).trans (takeBounds_tidy v.channel value.toNat _)
    have h1 : Tidy t (if v.channel = 3 then watchPressure value.toNat t else t) := by
      split
      · exact watchPressure_tidy _ t
      · exact Keeps.refl _
    generalize hu : handToRequester v.channel value.toNat v.request _ = u
    have h2 : Tidy s u := (h0.trans h1).trans (hu ▸ handToRequester_tidy _ _ _ _)
    refine h2.trans (Keeps.of_eq ?_)
    rw [view_finish, view_arbitrate]
    split
    · exact view_trendTakes _ u
    · rfl

theorem centreFallsDue_tidy (s : State) : Tidy s (centreFallsDue s) := by
  unfold centreFallsDue
  split
  · exact Keeps.refl _
  · exact Keeps.of_eq (view_arbitrate _)

theorem edgeRunBegins_tidy (s : State) : Tidy s (edgeRunBegins s) := by
  unfold edgeRunBegins
  split
  · exact Keeps.refl _
  · exact Keeps.of_eq (view_arbitrate _)

theorem idleScanBegins_tidy (s : State) : Tidy s (idleScanBegins s) := by
  unfold idleScanBegins
  split
  · exact Keeps.of_eq (view_arbitrate _)
  · exact Keeps.refl _

theorem riseExpires_tidy (s : State) : Tidy s (riseExpires s) := by
  unfold riseExpires
  split
  · exact Keeps.refl _
  · rename_i w hw
    split
    · exact (sweepGoesOn_tidy _ s (by rw [hw]; nofun)).trans (Keeps.of_eq (view_askConversion _ _))
    · exact Keeps.refl _

theorem sweepExpires_tidy (s : State) : Tidy s (sweepExpires s) := by
  unfold sweepExpires
  split
  · exact Keeps.refl _
  · rename_i w hw
    split
    · simp only
      have h0 := sweepGoesOn_tidy { w with timerRunning := false } s (by rw [hw]; nofun)
      refine Keeps.trans ?_ (Keeps.of_eq (view_finish _))
      split
      · exact h0.trans (endSweep_tidy _ _)
      · exact h0
    · exact Keeps.refl _

/-! ## The inputs and the clock -/

@[simp] theorem view_setTerminal (p : PointNo) (sig : Signal) (s : State) : view (setTerminal p sig s) = view s := by
  unfold setTerminal
  simp only
  split <;> rfl

@[simp] theorem view_driveInput (f : Func) (high : Bool) (s : State) : view (driveInput f high s) = view s := by
  unfold driveInput
  split
  · rfl
  · exact view_setTerminal _ _ s

theorem inputEdge_fair (f : Func) (high : Bool) (owner : State → State) (s : State) (h : ∀ t, Fair t (owner t)) :
    Fair s (inputEdge f high owner s) := by
  unfold inputEdge
  split
  · have h0 := h (driveInput f high s)
    rw [Fair, view_driveInput] at h0
    exact h0.trans (Keeps.of_eq (view_finish _))
  · exact (Keeps.refl _).fresh

theorem inputChanged_fair (f : Func) (high : Bool) (s : State) : Fair s (inputChanged f high s) := by
  unfold inputChanged
  split
  case h_1 => exact infeedLeading_fair s
  case h_2 => exact (infeedTrailing_tidy s).fresh
  case h_3 => exact (stopLeading_tidy s).fresh
  case h_5 => exact (endEyeLeading_tidy .exit s).fresh
  case h_6 => exact (exitTrailing_tidy s).fresh
  case h_7 => exact (endEyeLeading_tidy .reject s).fresh
  case h_8 => exact (rejectTrailing_tidy s).fresh
  case h_9 => exact (bagCovered_tidy _ s).fresh
  case h_10 => exact (bagCleared_tidy _ s).fresh
  case h_11 => exact (Keeps.of_eq (view_evaluate .keyInvalid s)).fresh
  case h_12 => exact (reviewGuard_tidy s).fresh
  case h_13 => exact (reviewTray_tidy s).fresh
  all_goals exact (Keeps.refl _).fresh

theorem view_plainEdge (p : PointNo) (high : Bool) (s : State) : view (plainEdge p high s) = view s := by
  unfold plainEdge
  simp only
  split
  · split
    · exact view_report _ _
    · rfl
  · rfl

theorem levelChanged_fair (p : PointNo) (high : Bool) (s : State) : Fair s (levelChanged p high s) := by
  unfold levelChanged
  split
  · exact (Keeps.of_eq (view_plainEdge p high s)).fresh
  · split
    · exact inputChanged_fair _ _ s
    · exact (Keeps.refl _).fresh
  · exact (Keeps.refl _).fresh

theorem terminalChanges_fair (p : PointNo) (sig : Signal) (s : State) : Fair s (terminalChanges p sig s) := by
  unfold terminalChanges
  simp only
  have hv := view_setTerminal p sig s
  split
  · exact (Keeps.of_eq hv).fresh
  · have h := levelChanged_fair p (terminalLevel (setTerminal p sig s).points[p]) (setTerminal p sig s)
    rw [Fair, hv] at h
    exact h.trans (Keeps.of_eq (view_finish _))

theorem view_clockTicks (s : State) : view (clockTicks s) = view s := by
  unfold clockTicks
  simp only
  split
  · rw [view_transmit, view_closeShiftNow]
    rfl
  · rfl

end Sys2Proof.LoafTrack
end

-- ==== The loaf track, proofs: the view after a request, a line and a reset ====
section
/-! What the remaining requests, the link and the resets do to the view of a state, and so what every step keeps: the schedule and the sweep
(O5), the timers and the order of the track (O6). -/

namespace Sys2Proof.LoafTrack

open Sys2Proof.Machine Sys2Proof.Safety Sys2Proof.Laws

/-! ## The points -/

theorem functionsMoved_tidy (before s : State) : Tidy s (functionsMoved before s) := by
  unfold functionsMoved
  refine Keeps.trans ?_ (Keeps.of_eq (view_evaluate .noStation _))
  have h0 : Tidy s (reviewTray (reviewGuard (evaluate .keyInvalid s))) :=
    (Keeps.of_eq (view_evaluate .keyInvalid s)).trans ((reviewGuard_tidy _).trans (reviewTray_tidy _))
  generalize reviewTray (reviewGuard (evaluate .keyInvalid s)) = t at h0 ⊢
  have h1 : Tidy t (if !inputHigh before .stopEye && inputHigh t .stopEye then disarmStop t else t) := by
    split
    · exact Keeps.of_eq (view_disarmStop t)
    · exact Keeps.refl _
  exact (h0.trans h1).trans ((tryDraw_tidy .a _).trans (tryDraw_tidy .b _))

theorem handChange_fair (p : PointNo) (before s : State) : Fair s (handChange p before s) := by
  unfold handChange
  split
  · exact (Keeps.refl _).fresh
  · split
    · exact inputChanged_fair _ _ s
    · exact (Keeps.refl _).fresh

theorem setPoint_fair (c : PointConfig) (s : State) : Fair s (setPoint c s) :=
  KeepsFresh.trans (show Fair s _ from handChange_fair c.point s (configurePoint c s)) (functionsMoved_tidy s _)

theorem svcSetPoint_upholds (f : Form PointWrite) (s : State) : Upholds (svcSetPoint f) s := by
  refine upholds_withForm _ _ _ fun w => ?_
  cases pointConfig w with
  | none => exact upholds_refuse .range s
  | some c =>
    exact upholds_needTier _ _ _ <| upholds_require _ _ _ _ fun _ => upholds_require _ _ _ _ fun _ => upholds_require _ _ _ _ fun _ =>
      upholds_require _ _ _ _ fun _ => upholds_require _ _ _ _ fun _ => setPoint_fair c s

theorem svcTakeEdges_upholds (f : Form Unit) (s : State) : Upholds (svcTakeEdges f) s :=
  upholds_withForm _ _ _ fun _ => upholds_needTier _ _ _ <| upholds_of_view rfl

theorem svcWriteOut_upholds (f : Form OutWrite) (s : State) : Upholds (svcWriteOut f) s :=
  upholds_withForm _ _ _ fun _ => upholds_require _ _ _ _ fun _ => upholds_needTier _ _ _ <| upholds_require _ _ _ _ fun _ =>
    upholds_of_view rfl

theorem view_trendRead (s : State) : view (trendRead s) = view s := by
  unfold trendRead
  split <;> rfl

theorem svcReadPoints_upholds (f : Form Unit) (s : State) : Upholds (svcReadPoints f) s :=
  upholds_withForm _ _ _ fun _ => upholds_needTier _ _ _ <| upholds_of_view (view_trendRead s)

theorem svcSetReports_upholds (f : Form (List ReportKind)) (s : State) : Upholds (svcSetReports f) s :=
  upholds_withForm _ _ _ fun _ => upholds_require _ _ _ _ fun _ => upholds_require _ _ _ _ fun _ => upholds_needTier _ _ _ <|
    upholds_of_view rfl

theorem svcReadStatus_upholds (f : Form Unit) (s : State) : Upholds (svcReadStatus f) s :=
  upholds_withForm _ _ _ fun _ => upholds_needTier _ _ _ <| upholds_of_view rfl

theorem svcStop_upholds (f : Form (Option StopMode)) (s : State) : Upholds (svcStop f) s := by
  refine upholds_withForm _ _ _ fun w => ?_
  cases w with
  | none => exact upholds_refuse .range s
  | some m =>
    cases m with
    | drain => exact svcStopDrain_upholds _ s
    | now => exact svcStopNow_upholds _ s

/-! ## The command index -/

theorem trackCommands_uphold : ∀ e ∈ trackCommands, ∀ ws s, Upholds (e.2 ws) s := by
  unfold trackCommands
  simp only [List.forall_mem_cons]
  exact ⟨fun _ => svcSetInfeed_upholds _, fun _ => svcSetGeometry_upholds _, fun _ => svcReject_upholds _, fun _ => svcPurge_upholds _,
    fun _ => upholds_read _ _ _, fun _ => svcWriteRecipe_upholds _, fun _ => svcErase_upholds _, fun _ => svcReadRecipe_upholds _,
    fun _ => svcRun_upholds _, fun _ => svcLock_upholds _, fun _ => svcUnlock_upholds _, fun _ => svcBypassOn_upholds _,
    fun _ => svcBypassOff_upholds _, fun _ => svcLockdown_upholds _, fun _ => upholds_read _ _ _, fun _ => svcTryPlan_upholds _,
    fun _ h => by cases h⟩

theorem machineCommands_uphold : ∀ e ∈ machineCommands, ∀ ws s, Upholds (e.2 ws) s := by
  unfold machineCommands
  simp only [List.forall_mem_cons]
  exact ⟨fun _ => upholds_read _ _ _, fun _ => svcLoadBags_upholds _, fun _ => svcSetDistribution_upholds _,
    fun _ => svcSetStation_upholds _, fun _ => svcSetBagging_upholds _, fun _ => upholds_read _ _ _, fun _ => svcLoadClips_upholds _,
    fun _ => svcSetTyer_upholds _, fun _ => upholds_read _ _ _, fun _ => svcCleanNow_upholds _, fun _ => svcSetCrumb_upholds _,
    fun _ => upholds_read _ _ _, fun _ => svcSetLimits_upholds _, fun _ => svcSetSampling_upholds _, fun _ => svcSetTrend_upholds _,
    fun _ => upholds_read _ _ _, fun _ h => by cases h⟩

theorem lineCommands_uphold : ∀ e ∈ lineCommands, ∀ ws s, Upholds (e.2 ws) s := by
  unfold lineCommands
  simp only [List.forall_mem_cons]
  exact ⟨fun _ => svcStart_upholds _, fun _ => svcStop_upholds _, fun _ => svcSetAction_upholds _, fun _ => svcClearFaults_upholds _,
    fun _ => svcSetMask_upholds _, fun _ => svcReadStatus_upholds _, fun _ => upholds_read _ _ _, fun _ => upholds_read _ _ _,
    fun _ => svcSetClock_upholds _, fun _ => upholds_read _ _ _, fun _ => svcSetShifts_upholds _, fun _ => svcCloseShift_upholds _,
    fun _ => upholds_read _ _ _, fun _ => svcReadHistory_upholds _, fun _ => svcSetPoint_upholds _, fun _ => svcTakeEdges_upholds _,
    fun _ => svcWriteOut_upholds _, fun _ => svcReadPoints_upholds _, fun _ => svcSetReports_upholds _, fun _ => upholds_read _ _ _,
    fun _ h => by cases h⟩

theorem lookUp_upholds {key : List Text} {k : List Text → Service} (h : lookUp key = some k) : ∀ ws s, Upholds (k ws) s := by
  unfold lookUp at h
  obtain ⟨e, he, rfl⟩ := Option.map_eq_some_iff.mp h
  have hm := List.mem_of_find?_eq_some he
  unfold commandIndex at hm
  rcases List.mem_append.mp hm with hm | hm
  · rcases List.mem_append.mp hm with hm | hm
    · exact trackCommands_uphold e hm
    · exact machineCommands_uphold e hm
  · exact lineCommands_uphold e hm

theorem serviceOf_upholds (words : List Text) (s : State) : Upholds (serviceOf words) s := by
  unfold serviceOf
  split
  · rename_i h
    exact lookUp_upholds h _ s
  · split
    · rename_i h
      exact lookUp_upholds h _ s
    · exact upholds_refuse _ s

/-! ## The link -/

theorem view_frameBroken (s : State) : view (frameBroken s) = view s := by
  unfold frameBroken
  split <;> rfl

theorem completeLine_fair (s : State) : Fair s (completeLine s) := by
  unfold completeLine
  split
  · exact (Keeps.refl _).fresh
  · split
    · exact (Keeps.of_eq (view_frameBroken (emptyBuffer s))).fresh
    · exact serve_keeps _ (emptyBuffer s) (serviceOf_upholds _ _)

theorem characterArrives_fair (c : Byte) (s : State) : Fair s (characterArrives c s) := by
  unfold characterArrives
  split
  · exact (Keeps.refl _).fresh
  · split
    · exact completeLine_fair s
    · exact (Keeps.refl _).fresh

theorem view_silenceEnds (s : State) : view (silenceEnds s) = view s := by
  unfold silenceEnds
  split <;> rfl

/-! ## The resets -/

/-- What a reset leaves: an empty track, a context without a loaf, stations that rest EMPTY, and no sweep. -/
structure Bare (v : View) : Prop where
  places : v.places = []
  state : v.state = .empty
  tag : v.tag = none
  sweep : v.sweep = none
  recs : ∀ x, (v.recs x).state = .empty ∧ (v.recs x).tag = none ∧ TimedAt (v.recs x) (v.stages x)

theorem Bare.keeps {v w : View} (h : Bare w) (hs : Scheduled v.schedule → Scheduled w.schedule) : Keeps v w where
  timed := fun _ x => (h.recs x).2.2
  order := fun _ _ =>
    { tags := by rw [h.places]; exact List.nodup_nil
      transfer := fun _ _ hm => by rw [h.places] at hm; cases hm
      context := fun _ hm => by rw [h.places] at hm; cases hm
      free := fun _ => h.tag
      stations := fun x => ⟨fun _ hm => (by rw [h.places] at hm; cases hm), fun _ => (h.recs x).2.1⟩ }
  swept := fun _ e => absurd h.sweep e
  schedule := hs

/-- An operation on a station of an empty track: neither the track nor another station changes. -/
structure Apart (x : Station) (v w : View) : Prop where
  places : w.places = v.places
  tag : w.tag = v.tag
  recs : ∀ y, y ≠ x → w.recs y = v.recs y

theorem Apart.refl (x : Station) (v : View) : Apart x v v := ⟨rfl, rfl, fun _ _ => rfl⟩

theorem Apart.trans {x : Station} {u v w : View} (h : Apart x u v) (k : Apart x v w) : Apart x u w :=
  ⟨k.places.trans h.places, k.tag.trans h.tag, fun y hy => (k.recs y hy).trans (h.recs y hy)⟩

theorem Apart.of_eq {x : Station} {v w : View} (h : w = v) : Apart x v w := h ▸ Apart.refl x v

theorem setStation_apart (x : Station) (r : StationRec) (s : State) : Apart x (view s) (view (setStation x r s)) := by
  rw [view_setStation]
  exact ⟨rfl, rfl, fun y hy => Function.update_of_ne hy _ _⟩

theorem loaves_nil {s : State} (h : (view s).places = []) : s.track.loaves = [] := List.map_eq_nil_iff.mp h

theorem oldestIn_nil {s : State} (h : s.track.loaves = []) (z : Zone) : oldestIn s z = none := by
  unfold oldestIn
  rw [h]
  rfl

/-- On an empty track with no loaf in the context there is nothing to route. -/
theorem route_bare {s : State} (hp : (view s).places = []) (ht : (view s).tag = none) : route s = s := by
  have hg : gateDecision s = s := by
    unfold gateDecision
    rw [oldestIn_nil (loaves_nil hp)]
    split <;> rfl
  unfold route
  rw [hg]
  unfold endStroke ejectLoaf
  rw [show s.head.tag = none from ht]
  split <;> rfl

theorem stationEmpties_apart (x : Station) (s : State) : Apart x (view s) (view (stationEmpties x s)) :=
  (setStation_apart x _ s).trans (Apart.of_eq (view_evaluate _ _))

theorem stationReady_apart (x : Station) (s : State) (hp : (view s).places = []) (ht : (view s).tag = none) :
    Apart x (view s) (view (stationReady x s)) := by
  have h := setStation_apart x { stationRec s x with state := .ready, attempt := none, bagTimer := none } s
  unfold stationReady
  rw [route_bare (h.places.trans hp) (h.tag.trans ht)]
  exact h

theorem drawBag_apart (x : Station) (n : Nat) (s : State) (hp : (view s).places = []) (ht : (view s).tag = none) :
    Apart x (view s) (view (drawBag x n s)) := by
  have hd : Apart x (view s) (view (drawn s x n)) := by
    rw [view_drawn]
    exact ⟨rfl, rfl, fun y hy => Function.update_of_ne hy _ _⟩
  rw [drawBag_eq]
  split
  · exact stationEmpties_apart x s
  · split
    · exact hd.trans (stationReady_apart x _ (hd.places.trans hp) (hd.tag.trans ht))
    · exact hd

theorem enterOpening_apart (x : Station) (s : State) (hp : (view s).places = []) (ht : (view s).tag = none) :
    Apart x (view s) (view (enterOpening x s)) := by
  unfold enterOpening
  simp only
  generalize hu : evaluate (.bagsEmpty x) _ = u
  have h : Apart x (view s) (view u) := by
    rw [← hu, view_evaluate]
    exact setStation_apart x _ s
  unfold tryDraw
  split
  · exact h.trans (drawBag_apart x 1 u (h.places.trans hp) (h.tag.trans ht))
  · exact h

theorem restartStation_apart (x : Station) (s : State) (hp : (view s).places = []) (ht : (view s).tag = none) :
    Apart x (view s) (view (restartStation x s)) := by
  unfold restartStation
  split
  · split
    · split
      · exact stationEmpties_apart x s
      · exact enterOpening_apart x s hp ht
    · exact (setStation_apart x _ s).trans (Apart.of_eq (view_evaluate _ _))
  · exact Apart.refl x _

theorem restartStation_tidy (x : Station) (s : State) (h : (stationRec s x).state = .empty) : Tidy s (restartStation x s) := by
  have hi : idleState (stationRec s x).state := .inr (.inl h)
  unfold restartStation
  split
  · split
    · split
      · exact stationEmpties_tidy x s fun _ => hi
      · exact enterOpening_tidy x s (Vacant.of_idle hi)
    · exact stationOut_tidy x s (Vacant.of_idle hi)
  · exact Keeps.refl _

theorem restartBoth_tidy (s : State) (h : Bare (view s)) : Tidy s (restartStation .b (restartStation .a s)) :=
  (restartStation_tidy .a s (h.recs .a).1).trans <| restartStation_tidy .b _ <|
    (congrArg StationRec.state ((restartStation_apart .a s h.places h.tag).recs .b nofun)).trans (h.recs .b).1

theorem present_tidy (s : State) : Tidy s (present s) := by
  unfold present
  have h0 : view ((memberWarnings s.member).foldl (fun t w => evaluate w t) s) = view s := view_foldl _ (fun t w => view_evaluate w t) _ s
  exact (Keeps.of_eq h0).trans ((reviewGuard_tidy _).trans ((reviewTray_tidy _).trans (Keeps.of_eq (view_transmit _))))

theorem view_wasteHeld (x : Station) (s : State) : view (wasteHeld x s) = view s := by
  unfold wasteHeld
  split
  · exact view_wasteBag x s
  · rfl

theorem view_warmCounts (s : State) : view (warmCounts s) = view s := by
  unfold warmCounts
  rw [view_wasteHeld, view_wasteHeld, view_countShift]

theorem warm_timed (r : StationRec) : r.warm.state = .empty ∧ r.warm.tag = none ∧ TimedAt r.warm none :=
  ⟨rfl, rfl, TimedAt.of_rest rfl rfl rfl rfl⟩

/-- A state whose blocks of the track, of the head, of the stations and of crumb control are those of a warm reset is bare. -/
theorem Bare.of_warm {s : State} {u : State} (hl : u.track = s.track.warm) (hh : u.head = s.head.warm) (hs : u.stations = s.stations.warm)
    (ht : u.tyers = ⟨s.tyers.a.warm, s.tyers.b.warm⟩) (hc : u.crumb = s.crumb.warm) : Bare (view u) := by
  have hr : ∀ x, stationRec u x = (stationRec s x).warm := fun x => by
    unfold stationRec
    rw [hs]
    cases x <;> rfl
  have hk : ∀ x, (tyerOf u x).stage = none := fun x => by
    unfold tyerOf
    rw [ht]
    cases x <;> rfl
  refine ⟨?_, ?_, ?_, ?_, fun x => ?_⟩
  · show u.track.loaves.map placeOf = []
    rw [hl]
    rfl
  · show u.head.state = _
    rw [hh]
    rfl
  · show u.head.tag = _
    rw [hh]
    rfl
  · show u.crumb.sweep = _
    rw [hc]
    rfl
  · show (stationRec u x).state = _ ∧ (stationRec u x).tag = _ ∧ TimedAt (stationRec u x) (tyerOf u x).stage
    rw [hr, hk]
    exact warm_timed _

/-- A warm reset, from its blocks on (R154). -/
theorem warmReset_tidy (s u : State) (l : Link) (hb : Bare (view u)) (hs : u.shift = (warmCounts s).shift) :
    Tidy s (present (forget l (restartStation .b (restartStation .a u)))) := by
  have hsch : u.shift.schedule = s.shift.schedule := by
    rw [hs]
    exact congrArg View.schedule (view_warmCounts s)
  have h0 : Tidy s u := hb.keeps fun h => show Scheduled u.shift.schedule from hsch ▸ h
  exact (h0.trans (restartBoth_tidy u hb)).trans (present_tidy (forget l _))

theorem lineReset_tidy (p : Straps) (s : State) : Tidy s (lineReset p s) :=
  warmReset_tidy s _ _ (Bare.of_warm (s := warmCounts s) rfl rfl rfl rfl rfl) rfl

theorem messageReset_tidy (s : State) : Tidy s (messageReset s) :=
  warmReset_tidy s _ _ (Bare.of_warm (s := warmCounts s) rfl rfl rfl rfl rfl) rfl

theorem powerOnReset_tidy (p : Straps) (s : State) : Tidy s (powerOnReset p s) := by
  unfold powerOnReset
  refine Keeps.trans ?_ (present_tidy _)
  refine Bare.keeps ⟨rfl, rfl, rfl, rfl, fun x => ?_⟩ fun _ => reset_scheduleLaw
  cases x <;> exact ⟨rfl, rfl, TimedAt.of_rest rfl rfl rfl rfl⟩

theorem lineLeaves_tidy (s : State) : Tidy s (lineLeaves s) := by
  unfold lineLeaves
  split
  · exact Keeps.refl _
  · split
    · exact messageReset_tidy s
    · exact Keeps.of_eq (view_transmit (s.setLink _))

/-! ## Every command and every step -/

/-- A request carries the laws of the view over. -/
theorem served_fair {svc : Service} {s t : State} (h : (Host.Outcome.next (serve svc s) : Result) = .next t) (k : Upholds svc s) :
    Fair s t := by
  injection h with h
  exact h ▸ serve_keeps svc s k

/-- An event carries the laws of the view over. -/
theorem event_fair {s t u : State} (h : (Host.Outcome.next u : Result) = .next t) (k : Fair s u) : Fair s t := by
  injection h with h
  exact h ▸ k

/-- Every command carries the laws of the view over. -/
theorem exec_fair (c : Instr) (s t : State) (h : exec c s = .next t) : Fair s t := by
  cases c with
  | setInfeed u => exact served_fair h (svcSetInfeed_upholds _ s)
  | setGeometry u => exact served_fair h (svcSetGeometry_upholds _ s)
  | reject u => exact served_fair h (svcReject_upholds _ s)
  | purge u => exact served_fair h (svcPurge_upholds _ s)
  | readTrack u => exact served_fair h (upholds_read _ _ _ s)
  | writeRecipe u => exact served_fair h (svcWriteRecipe_upholds _ s)
  | erase u => exact served_fair h (svcErase_upholds _ s)
  | readRecipe u => exact served_fair h (svcReadRecipe_upholds _ s)
  | run u => exact served_fair h (svcRun_upholds _ s)
  | lock u => exact served_fair h (svcLock_upholds _ s)
  | unlock u => exact served_fair h (svcUnlock_upholds _ s)
  | bypassOn u => exact served_fair h (svcBypassOn_upholds _ s)
  | bypassOff u => exact served_fair h (svcBypassOff_upholds _ s)
  | lockdown u => exact served_fair h (svcLockdown_upholds _ s)
  | readAccess u => exact served_fair h (upholds_read _ _ _ s)
  | tryPlan u => exact served_fair h (svcTryPlan_upholds _ s)
  | readSlicer u => exact served_fair h (upholds_read _ _ _ s)
  | loadBags u => exact served_fair h (svcLoadBags_upholds _ s)
  | setDistribution u => exact served_fair h (svcSetDistribution_upholds _ s)
  | setStation u => exact served_fair h (svcSetStation_upholds _ s)
  | setBagging u => exact served_fair h (svcSetBagging_upholds _ s)
  | readStations u => exact served_fair h (upholds_read _ _ _ s)
  | loadClips u => exact served_fair h (svcLoadClips_upholds _ s)
  | setTyer u => exact served_fair h (svcSetTyer_upholds _ s)
  | readTyers u => exact served_fair h (upholds_read _ _ _ s)
  | cleanNow u => exact served_fair h (svcCleanNow_upholds _ s)
  | setCrumb u => exact served_fair h (svcSetCrumb_upholds _ s)
  | readCrumb u => exact served_fair h (upholds_read _ _ _ s)
  | setLimits u => exact served_fair h (svcSetLimits_upholds _ s)
  | setSampling u => exact served_fair h (svcSetSampling_upholds _ s)
  | setTrend u => exact served_fair h (svcSetTrend_upholds _ s)
  | readChannels u => exact served_fair h (upholds_read _ _ _ s)
  | start u => exact served_fair h (svcStart_upholds _ s)
  | stopDrain u => exact served_fair h (svcStopDrain_upholds _ s)
  | stopNow u => exact served_fair h (svcStopNow_upholds _ s)
  | setAction u => exact served_fair h (svcSetAction_upholds _ s)
  | clearFaults u => exact served_fair h (svcClearFaults_upholds _ s)
  | setMask u => exact served_fair h (svcSetMask_upholds _ s)
  | readStatus u => exact served_fair h (svcReadStatus_upholds _ s)
  | readFaults u => exact served_fair h (upholds_read _ _ _ s)
  | reset u => exact served_fair h (upholds_read _ _ _ s)
  | setClock u => exact served_fair h (svcSetClock_upholds _ s)
  | readClock u => exact served_fair h (upholds_read _ _ _ s)
  | setShifts u => exact served_fair h (svcSetShifts_upholds _ s)
  | closeShift u => exact served_fair h (svcCloseShift_upholds _ s)
  | readTotals u => exact served_fair h (upholds_read _ _ _ s)
  | readHistory u => exact served_fair h (svcReadHistory_upholds _ s)
  | setPoint u => exact served_fair h (svcSetPoint_upholds _ s)
  | takeEdges u => exact served_fair h (svcTakeEdges_upholds _ s)
  | writeOut u => exact served_fair h (svcWriteOut_upholds _ s)
  | readPoints u => exact served_fair h (svcReadPoints_upholds _ s)
  | setReports u => exact served_fair h (svcSetReports_upholds _ s)
  | ident u => exact served_fair h (upholds_read _ _ _ s)
  | powerOn u => exact event_fair h ((powerOnReset_tidy _ s).fresh)
  | resetLine u => exact event_fair h ((lineReset_tidy _ s).fresh)
  | infeedEyeLeadingEdge => exact event_fair h (inputEdge_fair _ _ _ s infeedLeading_fair)
  | infeedEyeTrailingEdge => exact event_fair h (inputEdge_fair _ _ _ s (fun t => (infeedTrailing_tidy t).fresh))
  | stopEyeLeadingEdge => exact event_fair h (inputEdge_fair _ _ _ s (fun t => (stopLeading_tidy t).fresh))
  | exitEyeTrailingEdge => exact event_fair h (inputEdge_fair _ _ _ s (fun t => (exitTrailing_tidy t).fresh))
  | rejectEyeTrailingEdge => exact event_fair h (inputEdge_fair _ _ _ s (fun t => (rejectTrailing_tidy t).fresh))
  | exitRejectLeadingEdge u => exact event_fair h (inputEdge_fair _ _ _ s (fun t => (endEyeLeading_tidy _ t).fresh))
  | beltEncoderStep u => exact event_fair h (((beltStep_tidy _ s).trans (Keeps.of_eq (view_finish _))).fresh)
  | lengthCheckExpiry u => exact event_fair h ((checkExpires_tidy _ _ s).fresh)
  | stopCheckExpiry u => exact event_fair h ((checkExpires_tidy _ _ s).fresh)
  | rejectCheckExpiry u => exact event_fair h ((checkExpires_tidy _ _ s).fresh)
  | exitCheckExpiry u => exact event_fair h ((checkExpires_tidy _ _ s).fresh)
  | pusherEncoderStep u => exact event_fair h (((pusherStep_tidy _ s).trans (Keeps.of_eq (view_finish _))).fresh)
  | cutBegin u => exact event_fair h ((cutBegins_tidy _ s).fresh)
  | returnBegin u => exact event_fair h ((returnBegins_tidy _ s).fresh)
  | parkChange u => exact event_fair h ((Keeps.of_eq (view_setHead_same { s.head with park := u } s rfl rfl)).fresh)
  | stallTimerExpiry => exact event_fair h ((stallExpires_tidy s).fresh)
  | bagEyeLeadingEdge u => exact event_fair h (inputEdge_fair _ _ _ s (fun t => (bagCovered_tidy _ t).fresh))
  | bagEyeTrailingEdge u => exact event_fair h (inputEdge_fair _ _ _ s (fun t => (bagCleared_tidy _ t).fresh))
  | bagOpenTimeout u => exact event_fair h ((openTimeout_tidy _ s).fresh)
  | releaseTimeout u => exact event_fair h ((releaseTimeout_tidy _ s).fresh)
  | travelCountExpiry u => exact event_fair h ((travelExpires_tidy _ s).fresh)
  | scoopEnd u => exact event_fair h ((scoopEnds_tidy _ s).fresh)
  | strikeMidpoint u => exact event_fair h ((strikeMiddle_tidy _ s).fresh)
  | strikeEnd u => exact event_fair h ((strikeEnds_tidy _ s).fresh)
  | riseTimerExpiry => exact event_fair h ((riseExpires_tidy s).fresh)
  | sweepTimerExpiry => exact event_fair h ((sweepExpires_tidy s).fresh)
  | conversionComplete u => exact event_fair h ((conversionDone_tidy _ s).fresh)
  | centreConversionDue => exact event_fair h ((centreFallsDue_tidy s).fresh)
  | edgeDelayExpiry => exact event_fair h ((edgeRunBegins_tidy s).fresh)
  | idleTimerExpiry => exact event_fair h ((idleScanBegins_tidy s).fresh)
  | beltWatchExpiry => exact event_fair h ((watchExpires_tidy s).fresh)
  | guardDoorChange u => exact event_fair h (inputEdge_fair _ _ _ s (fun t => (reviewGuard_tidy t).fresh))
  | trayFullChange u => exact event_fair h (inputEdge_fair _ _ _ s (fun t => (reviewTray_tidy t).fresh))
  | keyInputChange u v => exact event_fair h (inputEdge_fair _ _ _ s (fun t => (Keeps.of_eq (view_evaluate _ t)).fresh))
  | plainInputEdge u v => exact event_fair h (terminalChanges_fair _ _ s)
  | clockTick => exact event_fair h ((Keeps.of_eq (view_clockTicks s)).fresh)
  | requestLine => exact event_fair h (completeLine_fair s)
  | silenceTimeout => exact event_fair h ((Keeps.of_eq (view_silenceEnds s)).fresh)
  | lineSent => exact event_fair h ((lineLeaves_tidy s).fresh)
  | characterReceived u => exact event_fair h (characterArrives_fair _ s)
  | trendPeriodStart => exact event_fair h ((Keeps.refl _).fresh)

/-- Every step carries the laws of the view over. -/
theorem step_fair (s t : State) (h : step s = .next t) : Fair s t := by
  cases hp : s.pending with
  | nil =>
    unfold step at h
    rw [hp] at h
    exact event_fair h (Keeps.refl _).fresh
  | cons c rest =>
    rw [step_front c rest s hp] at h
    exact exec_fair c (s.setPending rest) t h

/-- VACUUM is asserted only while a sweep runs (R117). -/
theorem sweep_of_vacuumOn {s : State} (h : vacuumOn s = true) : s.crumb.sweep ≠ none := fun e => by
  unfold vacuumOn at h
  rw [e] at h
  cases h

/-- Settles O5: the laws of every command, with those of the sweep and the schedule from the view. -/
theorem storesKeepTheirLaws : Obligations.StoresKeepTheirLaws := by
  unfold Obligations.StoresKeepTheirLaws
  intro s t h
  obtain ⟨power, rest, hl⟩ := step_lawful s t h
  have hf := step_fair s t h
  have hsweep : sweepLaw s → sweepLaw t := fun k => (sweepLaw_iff t).mpr (hf.swept ((sweepLaw_iff s).mp k))
  exact ⟨hl.bounded, hl.history, hl.link, hl.loads, hl.marked, hl.faults, hl.recipes, hl.obeys.drain, hl.points,
    fun k => ⟨hsweep k, fun hv => hsweep k (sweep_of_vacuumOn hv)⟩, hf.schedule⟩

/-- Settles O6: the order of the track and the stations' timers, from the view. -/
theorem trackStaysInOrder : Obligations.TrackStaysInOrder := by
  unfold Obligations.TrackStaysInOrder
  intro s t h
  have hf := step_fair s t h
  exact ⟨fun k => (stationsTimed_iff t).mpr (hf.timed ((stationsTimed_iff s).mp k)), fun k o n =>
    (trackInOrder_iff t).mpr (hf.order ((stationsTimed_iff s).mp k) ((trackInOrder_iff s).mp o) ((fresh_iff s).mp n))⟩

end Sys2Proof.LoafTrack
end

-- ==== The loaf track, proofs: the requests on the track ====
section
/-! SET INFEED (O11), SET GEOMETRY (O12) and REJECT (O13). -/

namespace Sys2Proof.LoafTrack

open Sys2Proof.Machine Sys2Proof.Safety Sys2Proof.Laws

/-! ## SET INFEED -/

theorem oneNumber_malformed (a b : Text) : oneNumber [] = none ∧ oneNumber [a, b] = none ∧ (number a = none → oneNumber [a] = none) :=
  ⟨rfl, rfl, id⟩

/-- The state with the limit taken, before the hold is reviewed (R9). -/
abbrev limited (n : Nat) (s : State) : State := { s with track := { s.track with limit := max 1 (min 4 n) } }

theorem svcSetInfeed_taken (n : Nat) {s : State} (h : tierOk s .setter = true) :
    svcSetInfeed (some n) s = (reviewHold (limited n s), accepted "SET INFEED" [decimal (max 1 (min 4 n))]) := by
  unfold svcSetInfeed withForm
  exact needTier_pass h

theorem svcSetInfeed_below (n : Nat) {s : State} (h : tierOk s .setter = false) : svcSetInfeed (some n) s = (s, refusal .tier) := by
  unfold svcSetInfeed withForm
  exact require_fail (ok := fun s => tierOk s .setter) h

theorem exec_setInfeed (n : Nat) (s : State) (hf : Free s) (h : tierOk s .setter = true) :
    ∃ t, exec (.setInfeed (some n)) s = .next (answered (accepted "SET INFEED" [decimal (max 1 (min 4 n))]) t) ∧
      t.track.limit = max 1 (min 4 n) ∧ t.track.infeedHold = holdOwed (limited n s) ∧
      (BeltRuns s → t = holdSet (holdOwed (limited n s)) (limited n s)) :=
  ⟨reviewHold (limited n s), taken hf (svcSetInfeed_taken n h), (reviewHold_steady _).kept.limit, reviewHold_hold _,
    fun hb => reviewHold_eq (limited n s) hb⟩

theorem warmBlocks_limit (s : State) : (warmBlocks (warmCounts s)).track.limit = s.track.limit := by
  have h := (wasteHeld_steady .a (countShift (fun r => { r with
      lost := raiseCount r.lost s.track.loaves.length
      sweepsAborted := if s.crumb.sweep.isSome then raiseCount r.sweepsAborted 1 else r.sweepsAborted }) s)).trans
    (wasteHeld_steady .b _)
  exact h.kept.limit

/-- What follows the blocks of a warm reset leaves the limit alone. -/
theorem restarted_limit (u : State) (l : Link) :
    (present (forget l (restartStation .b (restartStation .a u)))).track.limit = u.track.limit := by
  rw [(present_steady _).kept.limit]
  show (restartStation .b (restartStation .a u)).track.limit = _
  rw [(restartStation_steady .b _).kept.limit, (restartStation_steady .a _).kept.limit]

theorem lineReset_limit (p : Straps) (s : State) : (lineReset p s).track.limit = s.track.limit :=
  (restarted_limit _ _).trans (warmBlocks_limit s)

theorem messageReset_limit (s : State) : (messageReset s).track.limit = s.track.limit :=
  (restarted_limit _ _).trans (warmBlocks_limit s)

theorem powerOnReset_limit (p : Straps) (s : State) : (powerOnReset p s).track.limit = 2 := (present_steady _).kept.limit

/-- The last line of RESET's reply has left: the message reset takes place (R154). -/
theorem lineLeaves_reset {txt : Text} {s : State} (h : s.link.sending = some ⟨.reply, txt⟩) (ho : s.link.owed = some ⟨[], true⟩) :
    lineLeaves s = messageReset s := by
  unfold lineLeaves resetReplySent
  rw [h, ho]
  rfl

/-- Settles O11: the refusals, the limit taken with the hold reviewed, and the limit at the three resets (R9). -/
theorem setInfeedClampsLimit : Obligations.SetInfeedClampsLimit := by
  refine ⟨oneNumber_malformed, fun s hf => ⟨taken hf rfl, fun n => ⟨fun h => taken hf (svcSetInfeed_below n h), exec_setInfeed n s hf⟩⟩,
    fun p s => ⟨⟨_, rfl, powerOnReset_limit p s⟩, ⟨_, rfl, lineReset_limit p s⟩, fun txt h ho => ⟨_, rfl, ?_⟩⟩⟩
  rw [lineLeaves_reset h ho]
  exact messageReset_limit s

/-! ## SET GEOMETRY -/

theorem within_iff {low high n : Nat} : within low high n = true ↔ low ≤ n ∧ n ≤ high := by
  unfold within
  simp

/-- The ranges of R18, as a property. -/
theorem geometryInRange_iff (g : Geometry) : geometryInRange g = true ↔
    (50 ≤ g.dStop ∧ g.dStop ≤ 3000) ∧ (50 ≤ g.dTransfer ∧ g.dTransfer ≤ 3000) ∧ (50 ≤ g.dReject ∧ g.dReject ≤ 3000) ∧
      (50 ≤ g.dExit ∧ g.dExit ≤ 3000) ∧ (200 ≤ g.k ∧ g.k ≤ 2000) ∧ (500 ≤ g.kp ∧ g.kp ≤ 4000) := by
  unfold geometryInRange
  simp only [Bool.and_eq_true, within_iff, and_assoc]

/-- The pitches stay or the track is empty, as a property. -/
theorem pitchesStand_iff (g : Geometry) (s : State) :
    (s.track.loaves.isEmpty || (decide (g.k = s.track.geometry.k) && decide (g.kp = s.track.geometry.kp))) = true ↔
      s.track.loaves = [] ∨ (g.k = s.track.geometry.k ∧ g.kp = s.track.geometry.kp) := by
  simp

/-- SET GEOMETRY past its range and its tier: the line state and the pitches are left (R18). -/
theorem svcSetGeometry_ranged {g : Geometry} {s : State} (hr : geometryInRange g = true) (ht : tierOk s .engineer = true) :
    svcSetGeometry (some g) s = require (fun s => decide (s.sup.line = .stopped)) .state
      (require (fun s => s.track.loaves.isEmpty ||
        (decide (g.k = s.track.geometry.k) && decide (g.kp = s.track.geometry.kp))) .state fun s =>
      (s.setTrack { s.track with geometry := g },
        accepted "SET GEOMETRY" ([g.dStop, g.dTransfer, g.dReject, g.dExit, g.k, g.kp].map decimal))) s := by
  unfold svcSetGeometry withForm
  exact (require_pass (ok := fun _ => geometryInRange g) hr).trans (needTier_pass ht)

theorem svcSetGeometry_unranged {g : Geometry} (s : State) (hr : ¬geometryInRange g = true) :
    svcSetGeometry (some g) s = (s, refusal .range) := by
  unfold svcSetGeometry withForm
  exact require_fail (ok := fun _ => geometryInRange g) (eq_false_of_ne_true hr)

theorem svcSetGeometry_below {g : Geometry} {s : State} (hr : geometryInRange g = true) (ht : tierOk s .engineer = false) :
    svcSetGeometry (some g) s = (s, refusal .tier) := by
  unfold svcSetGeometry withForm
  exact (require_pass (ok := fun _ => geometryInRange g) hr).trans (require_fail (ok := fun s => tierOk s .engineer) ht)

/-- Settles O12: all six values in STOPPED, or a refusal that takes none (R18). -/
theorem setGeometryAllOrNothing : Obligations.SetGeometryAllOrNothing := by
  intro g s hf
  dsimp only
  rw [← geometryInRange_iff, ← pitchesStand_iff]
  refine ⟨fun hr => taken hf (svcSetGeometry_unranged s hr), fun hr ht => taken hf (svcSetGeometry_below hr ht),
    fun hr ht h => taken hf ?_, fun hr ht hl hp => taken hf ?_⟩
  · rw [svcSetGeometry_ranged hr ht]
    by_cases hl : s.sup.line = .stopped
    · rw [require_pass (decide_eq_true hl)]
      exact require_fail (eq_false_of_ne_true (h.resolve_left fun e => e hl))
    · exact require_fail (decide_eq_false hl)
  · rw [svcSetGeometry_ranged hr ht, require_pass (decide_eq_true hl)]
    exact require_pass hp

/-! ## REJECT -/

/-- The record that REJECT marks, the first mark standing (R2). -/
abbrev operatorMarked (r : Loaf) : Loaf := { r with mark := r.mark.or (some .operator) }

theorem ejectTargetOf_congr {s t : State} (r : Loaf) (h : t.track.geometry = s.track.geometry) : ejectTargetOf t r = ejectTargetOf s r := by
  unfold ejectTargetOf
  rw [h]

theorem or_operator (o : Option Mark) : o.or (some .operator) = some (o.getD .operator) := by cases o <;> rfl

/-- The reply to REJECT names the zone and the mark of the record found with the tag (R19). -/
theorem rejectReply_eq {tag : Nat} {t : State} {q : Loaf} (h : findLoaf t tag = some q) :
    rejectReply tag t = (t, accepted "REJECT" [decimal tag, codes (zoneText q.zone), optText (codes ∘ markText) q.mark]) := by
  unfold rejectReply
  rw [h]
  rfl

theorem findLoaf_marked {tag : Nat} {r : Loaf} {s : State} (h : findLoaf s tag = some r) :
    findLoaf (modifyLoaf tag operatorMarked s) tag = some (operatorMarked r) :=
  findLoaf_modify h (show r.tag = tag from findLoaf_tag h)

/-- What a state answers when it and the state just marked have the same records. -/
theorem rejectReply_marked {tag : Nat} {r : Loaf} {s t : State} (h : findLoaf s tag = some r)
    (ht : t.track = (modifyLoaf tag operatorMarked s).track) :
    rejectReply tag t = (t, accepted "REJECT" [decimal tag, codes (zoneText r.zone), codes (markText (r.mark.getD .operator))]) := by
  have hq : findLoaf t tag = some (operatorMarked r) := by
    rw [show findLoaf t tag = findLoaf (modifyLoaf tag operatorMarked s) tag by unfold findLoaf; rw [ht], findLoaf_marked h]
  rw [rejectReply_eq hq]
  show (t, accepted "REJECT" [_, _, optText (codes ∘ markText) (r.mark.or (some .operator))]) = _
  rw [or_operator]
  rfl

/-- REJECT of a tag that a record has: what is done follows its zone (R19). -/
theorem svcReject_found {tag : Nat} {r : Loaf} {s : State} (h1 : 1 ≤ tag) (h2 : tag ≤ 65535) (h : findLoaf s tag = some r) :
    svcReject (some tag) s = match r.zone with
      | .infeed => rejectReply tag (modifyLoaf tag operatorMarked s)
      | .slicer => rejectReply tag (if r.mark.isNone then abandonLoaf r (modifyLoaf tag operatorMarked s)
          else modifyLoaf tag operatorMarked s)
      | .transfer => rejectReply tag (divert tag (modifyLoaf tag operatorMarked s) |> endStroke |> evaluate .noStation)
      | .station _ => refuse .tooLate s
      | .outfeed => refuse .tooLate s
      | .reject => refuse .tooLate s := by
  have hp : svcReject (some tag) s = (match findLoaf s tag with
      | none => refuse .noSuch s
      | some r =>
        let t := modifyLoaf tag operatorMarked s
        match r.zone with
        | .infeed => rejectReply tag t
        | .slicer => rejectReply tag (if r.mark.isNone then abandonLoaf r t else t)
        | .transfer => rejectReply tag (divert tag t |> endStroke |> evaluate .noStation)
        | .station _ => refuse .tooLate s
        | .outfeed => refuse .tooLate s
        | .reject => refuse .tooLate s) := by
    unfold svcReject withForm
    exact (require_pass (ok := fun _ => within 1 65535 tag) (within_iff.mpr ⟨h1, h2⟩)).trans (needTier_pass (operator_ok s))
  rw [hp, h]

theorem svcReject_unranged {tag : Nat} (s : State) (h : tag = 0 ∨ 65535 < tag) : svcReject (some tag) s = (s, refusal .range) := by
  unfold svcReject withForm
  refine require_fail (ok := fun _ => within 1 65535 tag) (eq_false_of_ne_true fun e => ?_)
  rw [within_iff] at e
  omega

theorem svcReject_noSuch {tag : Nat} {s : State} (h1 : 1 ≤ tag) (h2 : tag ≤ 65535) (h : findLoaf s tag = none) :
    svcReject (some tag) s = (s, refusal .noSuch) := by
  unfold svcReject withForm
  refine (require_pass (ok := fun _ => within 1 65535 tag) (within_iff.mpr ⟨h1, h2⟩)).trans ((needTier_pass (operator_ok s)).trans ?_)
  dsimp only
  rw [h]
  rfl

theorem svcReject_tooLate {tag : Nat} {r : Loaf} {s : State} (h1 : 1 ≤ tag) (h2 : tag ≤ 65535) (h : findLoaf s tag = some r)
    (hi : r.zone ≠ .infeed) (hs : r.zone ≠ .slicer) (ht : r.zone ≠ .transfer) : svcReject (some tag) s = (s, refusal .tooLate) := by
  rw [svcReject_found h1 h2 h]
  cases hz : r.zone with
  | infeed => exact absurd hz hi
  | slicer => exact absurd hz hs
  | transfer => exact absurd hz ht
  | station x => rfl
  | outfeed => rfl
  | reject => rfl

/-! ### Abandonment (R67) -/

theorem hasCuts_iff (r : Loaf) : hasCuts r = true ↔ 1 ≤ r.cutsDone.getD 0 := by
  unfold hasCuts
  simp

/-- A context that stands at its loaf's first cuts. -/
abbrev early (h : HeadState) : Prop := h = .entering ∨ h = .advancing

/-- A loaf with a cut, or in CUTTING, is abandoned through EJECTING. -/
theorem abandonLoaf_ejects {r : Loaf} {s : State} (h : s.head.state = .cutting ∨ (early s.head.state ∧ 1 ≤ r.cutsDone.getD 0)) :
    abandonLoaf r s = s.setHead { s.head with state := .ejecting, target := ejectTargetOf s r } := by
  unfold abandonLoaf
  rcases h with h | ⟨h | h, hc⟩
  · simp only [h]
  · simp only [h, (hasCuts_iff r).mpr hc, if_true]
  · simp only [h, (hasCuts_iff r).mpr hc, if_true]

/-- A loaf without a cut is abandoned through PASSING. -/
theorem abandonLoaf_passes {r : Loaf} {s : State} (h : early s.head.state) (hc : ¬1 ≤ r.cutsDone.getD 0) :
    abandonLoaf r s = enterPassing r s := by
  have hc : hasCuts r = false := by rw [← Bool.not_eq_true, hasCuts_iff]; exact hc
  unfold abandonLoaf
  rcases h with h | h <;> simp [h, hc]

/-- In PAUSED the state to resume becomes EJECTING for a loaf with a cut, or one that stood in CUTTING. -/
theorem abandonLoaf_paused_ejects {r : Loaf} {s : State} (h : s.head.state = .paused)
    (hp : s.head.pausedFrom = some .cutting ∨
      ((s.head.pausedFrom = some .entering ∨ s.head.pausedFrom = some .advancing) ∧ 1 ≤ r.cutsDone.getD 0)) :
    abandonLoaf r s = s.setHead { s.head with pausedFrom := some .ejecting, target := ejectTargetOf s r } := by
  unfold abandonLoaf
  rcases hp with hp | ⟨hp | hp, hc⟩
  · simp only [h, hp]
  · simp only [h, hp, (hasCuts_iff r).mpr hc, if_true]
  · simp only [h, hp, (hasCuts_iff r).mpr hc, if_true]

/-- In PAUSED the state to resume becomes PASSING for a loaf without a cut. -/
theorem abandonLoaf_paused_passes {r : Loaf} {s : State} (h : s.head.state = .paused)
    (hp : s.head.pausedFrom = some .entering ∨ s.head.pausedFrom = some .advancing) (hc : ¬1 ≤ r.cutsDone.getD 0) :
    abandonLoaf r s = s.setHead { s.head with pausedFrom := some .passing, target := ejectTargetOf s r } := by
  have hc : hasCuts r = false := by rw [← Bool.not_eq_true, hasCuts_iff]; exact hc
  unfold abandonLoaf
  rcases hp with hp | hp <;> simp [h, hp, hc]

/-- In the other states the context stays as it is. -/
theorem abandonLoaf_stands {r : Loaf} {s : State} (h : s.head.state = .ejecting ∨ s.head.state = .passing ∨ s.head.state = .interrupted ∨
    (s.head.state = .paused ∧ (s.head.pausedFrom = some .ejecting ∨ s.head.pausedFrom = some .passing))) : abandonLoaf r s = s := by
  unfold abandonLoaf
  rcases h with h | h | h | ⟨h, hp | hp⟩
  · simp only [h]
  · simp only [h]
  · simp only [h]
  · simp only [h, hp]
  · simp only [h, hp]

theorem enterPassing_spec (r : Loaf) (s : State) : (enterPassing r s).track = s.track ∧ (enterPassing r s).head.state = .passing ∧
    (enterPassing r s).head.target = ejectTargetOf s r ∧ (enterPassing r s).head.tag = s.head.tag ∧
    (enterPassing r s).head.knife = false := by
  unfold enterPassing
  obtain ⟨stall, ph, cut, pair, air, m, he⟩ := knifeTo_off (s.setHead { s.head with
    state := .passing, nextCut := none, target := ejectTargetOf s r, pausedFrom := none })
  rw [he]
  exact ⟨rfl, rfl, rfl, rfl, rfl⟩

/-- Abandonment leaves the track alone. -/
theorem abandonLoaf_track (r : Loaf) (s : State) : (abandonLoaf r s).track = s.track := by
  have hp := (enterPassing_spec r s).1
  unfold abandonLoaf
  simp only
  split
  · split
    · rfl
    · exact hp
  · split
    · rfl
    · exact hp
  all_goals rfl

/-! ### A record that waits in TRANSFER -/

/-- The record that REJECT diverts: marked, in REJECT, its check armed (R13, R19). -/
abbrev divertedLoaf (g : Geometry) (r : Loaf) : Loaf :=
  { operatorMarked r with zone := .reject, check := some ⟨.reject, (g.dReject + 200) * g.k / 100⟩ }

/-- A record found by its tag is the first with that tag in its zone. -/
theorem find_in_zone {s : State} {tag : Nat} {r : Loaf} {z : Zone} (h : findLoaf s tag = some r) (hz : r.zone = z) :
    s.track.loaves.find? (fun l => decide (l.tag = tag) && decide (l.zone = z)) = some r := by
  unfold findLoaf at h
  rw [List.find?_eq_some_iff_append] at h ⊢
  obtain ⟨ht, as, bs, hl, hn⟩ := h
  refine ⟨by simpa [hz] using ht, as, bs, hl, fun a ha => ?_⟩
  have := hn a ha
  simp_all

/-- Where a record is the first with its tag, a move out of its zone is a change of the record. -/
theorem moveLoaf_eq {s : State} {tag : Nat} {r : Loaf} {z : Zone} (f : Loaf → Loaf) (h : findLoaf s tag = some r) (hz : r.zone = z) :
    moveLoaf z tag f s = modifyLoaf tag f s := by
  have hm : modifyFirst (fun l => decide (l.tag = tag) && decide (l.zone = z)) f s.track.loaves =
      modifyFirst (fun l => decide (l.tag = tag)) f s.track.loaves :=
    (modifyFirst_test h (find_in_zone h hz) fun x hx => ((Bool.and_eq_true _ _).mp hx).1).symm
  unfold moveLoaf modifyLoaf
  rw [hm]

theorem findLoaf_diverted {tag : Nat} {r : Loaf} {s : State} (h : findLoaf s tag = some r) (hz : r.zone = .transfer) :
    findLoaf (divert tag (modifyLoaf tag operatorMarked s)) tag = some (divertedLoaf s.track.geometry r) := by
  unfold divert
  rw [moveLoaf_eq _ (findLoaf_marked h) hz]
  exact findLoaf_modify (findLoaf_marked h) (show r.tag = tag from findLoaf_tag h)

/-- A record outside a zone stays in the list at a move out of that zone. -/
theorem mem_moveLoaf_other {s : State} {z : Zone} {tag : Nat} {f : Loaf → Loaf} {q : Loaf} (h : q ∈ s.track.loaves) (hz : q.zone ≠ z) :
    q ∈ (moveLoaf z tag f s).track.loaves :=
  mem_modifyFirst_other h (by simp [hz])

theorem gateDecision_keeps {s : State} {q : Loaf} (h : q ∈ s.track.loaves) (hz : q.zone = .reject) : q ∈ (gateDecision s).track.loaves := by
  have ht : q.zone ≠ .transfer := by rw [hz]; nofun
  unfold gateDecision
  split
  · exact h
  · split
    · exact h
    · split
      · exact mem_moveLoaf_other h ht
      · split
        · exact h
        · split
          · exact h
          · exact mem_moveLoaf_other (tag := _) h ht

/-- The end of a stroke leaves a record of REJECT in the list. -/
theorem endStroke_keeps {s : State} {q : Loaf} (h : q ∈ s.track.loaves) (hz : q.zone = .reject) : q ∈ (endStroke s).track.loaves := by
  unfold endStroke
  split
  · unfold ejectLoaf
    split
    · exact h
    · refine gateDecision_keeps ?_ hz
      split
      · rw [(knifeTo_spec true _).2.2.1]
        exact mem_moveLoaf_other h (by rw [hz]; nofun)
      · exact mem_moveLoaf_other h (by rw [hz]; nofun)
  · exact h

/-- A stroke ends in EJECTING and PASSING alone (R70). -/
theorem endStroke_stands {s : State} (he : s.head.state ≠ .ejecting) (hp : s.head.state ≠ .passing) : endStroke s = s := by
  unfold endStroke ejectReached
  rw [if_neg (by simp [he, hp])]

/-- A loaf in the slicer, rejected (R19, R67). -/
theorem reject_slicer {tag : Nat} {r : Loaf} {s : State} (hf : Free s) (h1 : 1 ≤ tag) (h2 : tag ≤ 65535) (h : findLoaf s tag = some r)
    (hz : r.zone = .slicer) :
    exec (.reject (some tag)) s = .next (answered
      (accepted "REJECT" [decimal tag, codes "SLICER", codes (markText (r.mark.getD .operator))])
      (if r.mark.isNone then abandonLoaf r (modifyLoaf tag operatorMarked s) else modifyLoaf tag operatorMarked s)) := by
  refine taken hf ?_
  rw [svcReject_found h1 h2 h, hz]
  dsimp only
  rw [rejectReply_marked h, hz]
  · rfl
  · split
    · exact abandonLoaf_track r _
    · rfl

/-- Settles O13: the refusals, and the record by its zone (R19, R67). -/
theorem rejectMarksAndDiverts : Obligations.RejectMarksAndDiverts := by
  intro tag s hf
  dsimp only
  refine ⟨fun h => taken hf (svcReject_unranged s h), fun h1 h2 h => taken hf (svcReject_noSuch h1 h2 h), fun r h h1 h2 => ⟨fun hi hs ht => ?_, fun hz => ?_, fun hz => ?_,
    fun hz => ?_⟩⟩
  · exact taken hf (svcReject_tooLate h1 h2 h hi hs ht)
  · refine taken hf ?_
    rw [svcReject_found h1 h2 h, hz]
    dsimp only
    rw [rejectReply_marked h rfl, hz]
    rfl
  · refine ⟨_, reject_slicer hf h1 h2 h hz, ?_, fun hm => ?_, fun hm => ?_⟩
    · split
      · exact abandonLoaf_track r _
      · rfl
    · rw [if_neg (by simpa using hm)]
    · rw [if_pos (by rw [hm]; rfl)]
      refine ⟨fun hc => abandonLoaf_ejects hc, fun he hc => ?_, fun hp hc => abandonLoaf_paused_ejects hp hc,
        fun hp he hc => abandonLoaf_paused_passes hp he hc, fun hc => abandonLoaf_stands hc⟩
      rw [abandonLoaf_passes (s := modifyLoaf tag operatorMarked s) he hc]
      exact (enterPassing_spec r _).2
  · have hd := findLoaf_diverted h hz
    refine ⟨_, _, taken hf ((svcReject_found h1 h2 h).trans (by rw [hz])), ⟨_, ?_, rfl⟩, fun he hp => ?_⟩
    · show _ ∈ (evaluate .noStation _).track.loaves
      rw [(evaluate_noticed .noStation _).track]
      exact endStroke_keeps (List.mem_of_find?_eq_some hd) rfl
    · have hq : findLoaf (evaluate .noStation (endStroke (divert tag (modifyLoaf tag operatorMarked s)))) tag =
          some (divertedLoaf s.track.geometry r) := by
        rw [endStroke_stands (s := divert tag (modifyLoaf tag operatorMarked s)) he hp]
        unfold findLoaf
        rw [(evaluate_noticed .noStation _).track]
        exact hd
      show (rejectReply tag _).2 = _
      rw [rejectReply_eq hq]
      show accepted "REJECT" [_, _, optText (codes ∘ markText) (r.mark.or (some .operator))] = _
      rw [or_operator]
      rfl

end Sys2Proof.LoafTrack
end

-- ==== The loaf track, proofs: what a reaction of the line reports and leaves ====
section
/-! What an operation of the line puts into the queue of reports, what it leaves of the warnings and the counts, and the entry into HALTED. -/

namespace Sys2Proof.LoafTrack

open Sys2Proof.Machine Sys2Proof.Safety Sys2Proof.Laws

/-! ## The queue of reports -/

/-- The queue has room for `n` more reports, and every kind is enabled. -/
structure Room (n : Nat) (s : State) : Prop where
  every : s.link.enables = ⟨true, true, true, true, true, true⟩
  room : s.link.queue.length + n ≤ Config.queueCapacity

/-- With room for them, at most `n` reports join the queue, and nothing else of the link changes. -/
def Tells (n : Nat) (s t : State) : Prop :=
  Room n s → ∃ rs : List Report, rs.length ≤ n ∧ t.link = { s.link with queue := s.link.queue ++ rs }

/-- The same with one report among those that join. -/
def Hears (r : Report) (n : Nat) (s t : State) : Prop :=
  Room n s → ∃ rs : List Report, rs.length ≤ n ∧ r ∈ rs ∧ t.link = { s.link with queue := s.link.queue ++ rs }

theorem Tells.of_link {s t : State} (h : t.link = s.link) (n : Nat) : Tells n s t := fun _ => ⟨[], Nat.zero_le _, by rw [h, List.append_nil]⟩

theorem Tells.refl (s : State) (n : Nat) : Tells n s s := Tells.of_link rfl n

theorem Hears.toTells {r : Report} {n : Nat} {s t : State} (h : Hears r n s t) : Tells n s t := fun hr => by
  obtain ⟨rs, hn, _, hl⟩ := h hr
  exact ⟨rs, hn, hl⟩

/-- Where at most `m` of `m + n` reports have joined, there is room for the others. -/
theorem Room.next {m n : Nat} {s t : State} {rs : List Report} (h : Room (m + n) s) (hn : rs.length ≤ m)
    (hl : t.link = { s.link with queue := s.link.queue ++ rs }) : Room n t := by
  obtain ⟨he, hr⟩ := h
  constructor
  · rw [hl]
    exact he
  · rw [hl]
    show (s.link.queue ++ rs).length + n ≤ _
    rw [List.length_append]
    omega

theorem Room.fewer {m n : Nat} {s : State} (h : Room (m + n) s) : Room m s := ⟨h.every, by have := h.room; omega⟩

theorem joined_link {s t u : State} {rs qs : List Report} (h : t.link = { s.link with queue := s.link.queue ++ rs })
    (k : u.link = { t.link with queue := t.link.queue ++ qs }) : u.link = { s.link with queue := s.link.queue ++ (rs ++ qs) } := by
  rw [k, h, List.append_assoc]

theorem Tells.trans {m n : Nat} {s t u : State} (h : Tells m s t) (k : Tells n t u) : Tells (m + n) s u := fun hr => by
  obtain ⟨rs, hm, hl⟩ := h hr.fewer
  obtain ⟨qs, hn, kl⟩ := k (hr.next hm hl)
  exact ⟨rs ++ qs, by rw [List.length_append]; omega, joined_link hl kl⟩

theorem Hears.trans {r : Report} {m n : Nat} {s t u : State} (h : Hears r m s t) (k : Tells n t u) : Hears r (m + n) s u := fun hr => by
  obtain ⟨rs, hm, hi, hl⟩ := h hr.fewer
  obtain ⟨qs, hn, kl⟩ := k (hr.next hm hl)
  exact ⟨rs ++ qs, by rw [List.length_append]; omega, List.mem_append_left _ hi, joined_link hl kl⟩

theorem Tells.hears {r : Report} {m n : Nat} {s t u : State} (h : Tells m s t) (k : Hears r n t u) : Hears r (m + n) s u := fun hr => by
  obtain ⟨rs, hm, hl⟩ := h hr.fewer
  obtain ⟨qs, hn, hi, kl⟩ := k (hr.next hm hl)
  exact ⟨rs ++ qs, by rw [List.length_append]; omega, List.mem_append_right _ hi, joined_link hl kl⟩

theorem Tells.mono {m n : Nat} {s t : State} (h : Tells m s t) (hn : m ≤ n) : Tells n s t := fun hr => by
  obtain ⟨rs, hm, hl⟩ := h ⟨hr.every, by have := hr.room; omega⟩
  exact ⟨rs, by omega, hl⟩

theorem Hears.mono {r : Report} {m n : Nat} {s t : State} (h : Hears r m s t) (hn : m ≤ n) : Hears r n s t := fun hr => by
  obtain ⟨rs, hm, hi, hl⟩ := h ⟨hr.every, by have := hr.room; omega⟩
  exact ⟨rs, by omega, hi, hl⟩

/-- What is told depends on the link before alone. -/
theorem Tells.of_same {n : Nat} {s u t : State} (k : Tells n u t) (h : u.link = s.link) : Tells n s t := fun ⟨he, hr⟩ => by
  have hk := k ⟨by rw [h]; exact he, by rw [h]; exact hr⟩
  rw [h] at hk
  exact hk

theorem Hears.of_same {r : Report} {n : Nat} {s u t : State} (k : Hears r n u t) (h : u.link = s.link) : Hears r n s t := fun ⟨he, hr⟩ => by
  have hk := k ⟨by rw [h]; exact he, by rw [h]; exact hr⟩
  rw [h] at hk
  exact hk

/-- A report joins the queue. -/
theorem report_hears (r : Report) (s : State) : Hears r 1 s (report r s) := fun ⟨he, hr⟩ => by
  refine ⟨[r], Nat.le_refl _, List.mem_singleton_self r, ?_⟩
  have ha : s.link.enables.allow r = true := by
    rw [he]
    cases r <;> rfl
  unfold report Link.push
  rw [if_pos ha, if_pos (by omega)]
  rfl

theorem report_tells (r : Report) (s : State) : Tells 1 s (report r s) := (report_hears r s).toTells

/-- A busy transmitter begins nothing. -/
theorem begin_busy {l : Link} (h : l.sending ≠ none) : l.begin = l := by
  unfold Link.begin
  cases hs : l.sending with
  | none => exact absurd hs h
  | some v => rfl

theorem warn_tells (w : WarnKind) (p : Bool) (s : State) : Tells 1 s (warn w p s) := by
  unfold warn
  simp only
  split
  · exact Tells.refl s 1
  · refine Tells.trans (m := 0) (n := 1) ?_ (report_tells _ _)
    exact Tells.of_link rfl 0

theorem evaluate_tells (w : WarnKind) (s : State) : Tells 1 s (evaluate w s) := warn_tells w _ s

theorem listening_room {s : State} (h : Listening s) {n : Nat} (hn : n ≤ 16) : Room n s :=
  ⟨h.every, by rw [h.empty, List.length_nil, Nat.zero_add]; exact hn⟩

/-- What has joined the queue of a busy transmitter waits there at the end of the event. -/
theorem Hears.finished {r : Report} {n : Nat} {s t : State} (h : Hears r n s t) (hn : n ≤ 15) (hs : Listening s) :
    r ∈ (finish t).link.queue := by
  obtain ⟨rs, _, hi, hl⟩ := (h.trans (evaluate_tells .noStation t)) (listening_room hs (by omega))
  have hb : (evaluate .noStation t).link.sending ≠ none := by
    rw [hl]
    exact hs.busy
  show r ∈ (evaluate .noStation t).link.begin.queue
  rw [begin_busy hb, hl]
  exact List.mem_append_right _ hi

/-! ## What a change of the line state leaves -/

/-- What an operation of the line leaves of the warnings, of the open record but for its halts and its aborted sweeps, and of the queue. -/
structure Reacts (n : Nat) (s t : State) : Prop where
  warnings : t.sup.warnings = s.sup.warnings
  record : ∃ halts aborted, t.shift =
    { s.shift with openRecord := { s.shift.openRecord with halts := halts, sweepsAborted := aborted } }
  tells : Tells n s t

theorem Reacts.of_eq {s t : State} (hs : t.sup = s.sup) (hr : t.shift = s.shift) (hl : t.link = s.link) (n : Nat) : Reacts n s t :=
  ⟨by rw [hs], ⟨_, _, by rw [hr]⟩, Tells.of_link hl n⟩

theorem Reacts.refl (s : State) (n : Nat) : Reacts n s s := Reacts.of_eq rfl rfl rfl n

theorem Reacts.trans {m n : Nat} {s t u : State} (h : Reacts m s t) (k : Reacts n t u) : Reacts (m + n) s u := by
  obtain ⟨h1, a1, e1⟩ := h.record
  obtain ⟨h2, a2, e2⟩ := k.record
  exact ⟨k.warnings.trans h.warnings, ⟨h2, a2, by rw [e2, e1]⟩, h.tells.trans k.tells⟩

theorem Reacts.mono {m n : Nat} {s t : State} (h : Reacts m s t) (hn : m ≤ n) : Reacts n s t := ⟨h.warnings, h.record, h.tells.mono hn⟩

theorem report_reacts (r : Report) (s : State) : Reacts 1 s (report r s) := by
  refine ⟨?_, ⟨s.shift.openRecord.halts, s.shift.openRecord.sweepsAborted, ?_⟩, report_tells r s⟩
  · rw [report_eq]
    rfl
  · rw [report_eq]
    rfl

theorem setLine_reacts (l : LineState) (s : State) : Reacts 1 s (setLine l s) := by
  have h : Reacts 0 s (s.setSup { s.sup with line := l }) := ⟨rfl, ⟨_, _, rfl⟩, Tells.of_link rfl 0⟩
  exact h.trans (report_reacts (.line l) _)

theorem knifeTo_reacts (s : State) : Reacts 0 s (knifeTo false s) := by
  obtain ⟨stall, ph, cut, pair, air, m, he⟩ := knifeTo_off s
  rw [he]
  exact ⟨rfl, ⟨_, _, rfl⟩, Tells.of_link rfl 0⟩

theorem interruptLoaf_reacts (s : State) : Reacts 0 s (interruptLoaf s) := by
  unfold interruptLoaf
  simp only
  split <;> exact ⟨rfl, ⟨_, _, rfl⟩, Tells.of_link rfl 0⟩

theorem headHalts_reacts (s : State) : Reacts 0 s (headHalts s) := by
  have hk := knifeTo_reacts s
  have hi := hk.trans (interruptLoaf_reacts _)
  unfold headHalts
  simp only
  split
  case h_7 => exact Reacts.trans (n := 0) hk ⟨rfl, ⟨_, _, rfl⟩, Tells.of_link rfl 0⟩
  case h_8 => exact hk
  case h_9 => exact hk
  all_goals exact hi

theorem headStops_reacts (s : State) : Reacts 0 s (headStops s) := by
  have hk := knifeTo_reacts s
  have hp : ∀ h : Head, Reacts 0 s ((knifeTo false s).setHead h) := fun h => Reacts.trans (n := 0) hk ⟨rfl, ⟨_, _, rfl⟩, Tells.of_link rfl 0⟩
  unfold headStops
  simp only
  split
  case h_7 => exact hk
  case h_8 => exact hk
  case h_9 => exact hk
  all_goals exact hp _

theorem stationHalts_reacts (x : Station) (s : State) : Reacts 0 s (stationHalts x s) := by
  unfold stationHalts
  simp only
  split <;> exact ⟨rfl, ⟨_, _, rfl⟩, Tells.of_link rfl 0⟩

theorem stationStops_reacts (x : Station) (s : State) : Reacts 0 s (stationStops x s) := by
  unfold stationStops
  simp only
  split <;> exact ⟨rfl, ⟨_, _, rfl⟩, Tells.of_link rfl 0⟩

theorem abortSweep_reacts (s : State) : Reacts 1 s (abortSweep s) := by
  unfold abortSweep
  split
  · exact Reacts.refl s 1
  · refine Reacts.trans (m := 0) ?_ (report_reacts _ _)
    exact ⟨rfl, ⟨s.shift.openRecord.halts, raiseCount s.shift.openRecord.sweepsAborted 1, rfl⟩, Tells.of_link rfl 0⟩

theorem trySweep_reacts (s : State) : Reacts 0 s (trySweep s) := by
  unfold trySweep
  split <;> exact ⟨rfl, ⟨_, _, rfl⟩, Tells.of_link rfl 0⟩

theorem assertHold_reacts (s : State) : Reacts 0 s (assertHold s) := ⟨rfl, ⟨_, _, rfl⟩, Tells.of_link rfl 0⟩

theorem countHalt_reacts (s : State) : Reacts 0 s (countShift (fun r => { r with halts := raiseCount r.halts 1 }) s) :=
  ⟨rfl, ⟨raiseCount s.shift.openRecord.halts 1, s.shift.openRecord.sweepsAborted, rfl⟩, Tells.of_link rfl 0⟩

theorem enterHalted_reacts (s : State) : Reacts 2 s (enterHalted s) :=
  (setLine_reacts .halted s).trans <| (countHalt_reacts _).trans <| (headHalts_reacts _).trans <| (stationHalts_reacts .a _).trans <|
    (stationHalts_reacts .b _).trans <| (abortSweep_reacts _).trans (assertHold_reacts _)

theorem enterStopped_reacts (s : State) : Reacts 1 s (enterStopped false s) :=
  (setLine_reacts .stopped s).trans <| (headStops_reacts _).trans <| (stationStops_reacts .a _).trans <|
    (stationStops_reacts .b _).trans (assertHold_reacts _)

theorem trackEmpty_reacts (s : State) : Reacts 1 s (trackEmpty s) := by
  unfold trackEmpty
  split
  · exact enterStopped_reacts s
  · exact Reacts.refl s 1

theorem enterDraining_reacts (s : State) : Reacts 2 s (enterDraining s) :=
  (setLine_reacts .draining s).trans <| (assertHold_reacts _).trans <| (trySweep_reacts _).trans (trackEmpty_reacts _)

theorem applyToLine_reacts (a : Action) (s : State) : Reacts 2 s (applyToLine a s) := by
  unfold applyToLine
  cases a with
  | nothing => exact Reacts.refl s 2
  | hold =>
    dsimp only
    split
    · exact enterDraining_reacts s
    · exact Reacts.refl s 2
  | halt =>
    dsimp only
    split
    · exact Reacts.refl s 2
    · exact enterHalted_reacts s

theorem faultMoves_reacts (k : FaultKind) (st : FaultState) (s : State) : Reacts 1 s (faultMoves k st s) := by
  unfold faultMoves
  refine Reacts.trans (m := 0) ?_ (report_reacts _ _)
  exact ⟨rfl, ⟨_, _, rfl⟩, Tells.of_link rfl 0⟩

theorem settleBelt_reacts (s : State) : Reacts 3 s (settleBelt s) := by
  unfold settleBelt
  simp only
  split
  · exact (faultMoves_reacts .beltStall .latched s).trans (applyToLine_reacts _ _)
  · exact Reacts.refl s 3

theorem recordFirst_reacts (k : FaultKind) (loaf : Option Nat) (s : State) : Reacts 0 s (recordFirst k loaf s) := by
  unfold recordFirst
  split
  · exact ⟨rfl, ⟨_, _, rfl⟩, Tells.of_link rfl 0⟩
  · exact Reacts.refl s 0

/-- The state of a fault's entry once an occurrence has been written, before its report. -/
abbrev occurred (k : FaultKind) (st : FaultState) (loaf : Option Nat) (s : State) : State :=
  setFault k { faultEntry s k with
    state := st, count := min ((faultEntry s k).count + 1) Config.occurrenceCap, lastStamp := some (eventStamp s), lastLoaf := loaf }
    (recordFirst k loaf s)

theorem occurred_reacts (k : FaultKind) (st : FaultState) (loaf : Option Nat) (s : State) : Reacts 0 s (occurred k st loaf s) := by
  refine Reacts.trans (m := 0) (n := 0) (recordFirst_reacts k loaf s) ?_
  exact ⟨rfl, ⟨_, _, rfl⟩, Tells.of_link rfl 0⟩

theorem faultOccurs_reacts (k : FaultKind) (st : FaultState) (loaf : Option Nat) (s : State) : Reacts 1 s (faultOccurs k st loaf s) :=
  (occurred_reacts k st loaf s).trans (report_reacts _ _)

/-- An occurrence is reported (R152). -/
theorem faultOccurs_hears (k : FaultKind) (st : FaultState) (loaf : Option Nat) (s : State) :
    Hears (.fault k st (min ((faultEntry s k).count + 1) 255)) 1 s (faultOccurs k st loaf s) :=
  (occurred_reacts k st loaf s).tells.hears (report_hears _ _)

theorem faultActs_reacts (k : FaultKind) (s : State) : Reacts 5 s (faultActs k s) :=
  (applyToLine_reacts _ s).trans (settleBelt_reacts _)

theorem raiseFault_reacts (k : FaultKind) (loaf : Option Nat) (s : State) : Reacts 6 s (raiseFault k loaf s) :=
  (faultOccurs_reacts k .latched loaf s).trans (faultActs_reacts k _)

/-! ## The entry into HALTED -/

/-- The context at the entry into HALTED, with what the head leaves alone (R75). -/
structure HeadHalted (s t : State) : Prop where
  knife : t.head.knife = false
  interrupted : interruptedByHalt s.head.state = true →
    t.head.state = .interrupted ∧ t.head.tag = s.head.tag ∧ t.head.nextCut = s.head.nextCut ∧ t.head.target = s.head.target
  marked : interruptedByHalt s.head.state = true → ∀ r ∈ headLoaf s, (headLoaf t).map (fun q => (q.mark, q.cutsDone)) =
    some (r.mark.or (some .interrupted), r.cutsDone)
  homed : s.head.state = .homing → t.head.state = .empty
  stands : s.head.state = .empty ∨ s.head.state = .interrupted → t.head.state = s.head.state
  pusher : t.head.pusher = s.head.pusher
  stations : t.stations = s.stations
  tyers : t.tyers = s.tyers
  crumb : ∃ air, t.crumb = { s.crumb with airKnife := air }
  shift : t.shift = s.shift

/-- The loaf of the context once it has been marked. -/
theorem headLoaf_interrupted {s : State} {r : Loaf} (h : r ∈ headLoaf s) :
    (headLoaf (interruptLoaf s)).map (fun q => (q.mark, q.cutsDone)) = some (r.mark.or (some .interrupted), r.cutsDone) := by
  obtain ⟨n, hn, hr⟩ := Option.bind_eq_some_iff.mp (show s.head.tag.bind (findLoaf s) = some r from h)
  have ht : r.tag = n := findLoaf_tag hr
  have hm : findLoaf (modifyLoaf n (Loaf.withMark .interrupted) s) n = some (r.withMark .interrupted) := findLoaf_modify hr ht
  have hi : headLoaf (interruptLoaf s) = some (r.withMark .interrupted) := by
    unfold interruptLoaf headLoaf
    simp only [hn]
    show s.head.tag.bind (findLoaf (modifyLoaf n (Loaf.withMark .interrupted) s)) = _
    rw [hn]
    exact hm
  rw [hi]
  rfl

theorem interruptLoaf_halts (s : State) (hk : s.head.knife = false) (hs : interruptedByHalt s.head.state = true) :
    HeadHalted s (interruptLoaf s) := by
  have hi : (interruptLoaf s).head = { s.head with state := .interrupted, pausedFrom := none } := by
    unfold interruptLoaf
    simp only
    split <;> rfl
  have hne : ∀ st, interruptedByHalt st = false → s.head.state ≠ st := fun st h e => by
    rw [e, h] at hs
    cases hs
  refine ⟨by rw [hi]; exact hk, fun _ => by rw [hi]; exact ⟨rfl, rfl, rfl, rfl⟩, fun _ _ => headLoaf_interrupted,
    fun h => absurd h (hne _ rfl), fun h => ?_, by rw [hi], ?_, ?_, ⟨s.crumb.airKnife, ?_⟩, ?_⟩
  · rcases h with h | h
    · exact absurd h (hne _ rfl)
    · exact absurd h (hne _ rfl)
  all_goals
    unfold interruptLoaf
    simp only
    split <;> rfl

/-- The blade released leaves the context as it is. -/
theorem HeadHalted.of_released {s t : State} (h : HeadHalted (knifeTo false s) t) : HeadHalted s t := by
  obtain ⟨stall, ph, cut, pair, air, m, he⟩ := knifeTo_off s
  rw [he] at h
  obtain ⟨air', hc⟩ := h.crumb
  exact ⟨h.knife, h.interrupted, h.marked, h.homed, h.stands, h.pusher, h.stations, h.tyers, ⟨air', hc⟩, h.shift⟩

theorem headHalts_halts (s : State) : HeadHalted s (headHalts s) := by
  refine HeadHalted.of_released ?_
  have hk : (knifeTo false s).head.knife = false := (knifeTo_spec false s).2.2.2.1
  unfold headHalts
  simp only
  generalize knifeTo false s = t at hk
  have hrest : ∀ u : State, u.head.knife = false → interruptedByHalt t.head.state = false → (t.head.state = .homing → u.head.state = .empty) →
      (t.head.state = .empty ∨ t.head.state = .interrupted → u.head.state = t.head.state) → u.head.pusher = t.head.pusher →
      u.stations = t.stations → u.tyers = t.tyers → u.crumb = t.crumb → u.shift = t.shift → HeadHalted t u :=
    fun u h1 h2 h3 h4 h5 h6 h7 h8 h9 => ⟨h1, fun e => (by rw [h2] at e; cases e), fun e => (by rw [h2] at e; cases e), h3, h4, h5, h6, h7,
      ⟨t.crumb.airKnife, h8⟩, h9⟩
  split
  case h_7 hs => exact hrest _ hk (by rw [hs]; rfl) (fun _ => rfl) (by rw [hs]; rintro (h | h) <;> cases h) rfl rfl rfl rfl rfl
  case h_8 hs => exact hrest _ hk (by rw [hs]; rfl) (by rw [hs]; nofun) (fun _ => rfl) rfl rfl rfl rfl rfl
  case h_9 hs => exact hrest _ hk (by rw [hs]; rfl) (by rw [hs]; nofun) (fun _ => rfl) rfl rfl rfl rfl rfl
  all_goals
    rename_i hs
    exact interruptLoaf_halts t hk (by rw [hs]; rfl)

/-- A station's record at the entry into HALTED (R94). -/
def haltedRec (r : StationRec) : StationRec :=
  if holdsAtHalt r.state then { r with held := true, bagTimer := none, scoopTimer := none, releaseTimer := none } else r

/-- A station's tyer at the entry into HALTED (R103). -/
def haltedTyer (r : StationRec) (t : Tyer) : Tyer := if r.state = .tying then { t with stage := none, codeHeld := none } else t

/-- What the halt of a station does to it, and what it leaves alone. -/
structure StationHalted (x : Station) (s t : State) : Prop where
  recs : ∀ y, stationRec t y = if y = x then haltedRec (stationRec s y) else stationRec s y
  tyers : ∀ y, tyerOf t y = if y = x then haltedTyer (stationRec s y) (tyerOf s y) else tyerOf s y
  head : t.head = s.head
  track : t.track = s.track
  crumb : t.crumb = s.crumb
  shift : t.shift = s.shift

theorem StationHalted.of_set {x : Station} {s t : State} (r : StationRec) (hr : stationRec t = Function.update (stationRec s) x r)
    (hx : r = haltedRec (stationRec s x)) (k : Tyer) (hk : tyerOf t = Function.update (tyerOf s) x k)
    (hy : k = haltedTyer (stationRec s x) (tyerOf s x)) (h1 : t.head = s.head) (h2 : t.track = s.track) (h3 : t.crumb = s.crumb)
    (h4 : t.shift = s.shift) : StationHalted x s t := by
  refine ⟨fun y => ?_, fun y => ?_, h1, h2, h3, h4⟩
  · rw [hr, Function.update_apply]
    split
    · rename_i e
      rw [e, hx]
    · rfl
  · rw [hk, Function.update_apply]
    split
    · rename_i e
      rw [e, hy]
    · rfl

theorem stationHalts_halted (x : Station) (s : State) : StationHalted x s (stationHalts x s) := by
  have hold : ∀ r : StationRec, r = haltedRec (stationRec s x) → haltedTyer (stationRec s x) (tyerOf s x) = tyerOf s x →
      StationHalted x s (setStation x r s) := fun r hr hk =>
    StationHalted.of_set r (stationRec_setStation x r s) hr (tyerOf s x) (Function.update_eq_self x (tyerOf s)).symm hk.symm rfl rfl rfl rfl
  have idle : haltedRec (stationRec s x) = stationRec s x → haltedTyer (stationRec s x) (tyerOf s x) = tyerOf s x → StationHalted x s s :=
    fun hr hk => StationHalted.of_set _ (Function.update_eq_self x (stationRec s)).symm hr.symm (tyerOf s x)
      (Function.update_eq_self x (tyerOf s)).symm hk.symm rfl rfl rfl rfl
  unfold stationHalts
  simp only
  split
  case h_4 hs =>
    refine StationHalted.of_set _ (stationRec_setStation x _ s) ?_ _ (tyerOf_setTyer x _ s) ?_ rfl rfl rfl rfl
    · simp [haltedRec, hs, holdsAtHalt]
    · simp [haltedTyer, hs]
  case h_6 hs => exact idle (by simp [haltedRec, hs, holdsAtHalt]) (by simp [haltedTyer, hs])
  case h_7 hs => exact idle (by simp [haltedRec, hs, holdsAtHalt]) (by simp [haltedTyer, hs])
  all_goals
    rename_i hs
    exact hold _ (by simp [haltedRec, hs, holdsAtHalt]) (by simp [haltedTyer, hs])

/-- Both stations halted. -/
theorem stationsHalt_spec (s : State) : let t := stationHalts .b (stationHalts .a s)
    (∀ x, stationRec t x = haltedRec (stationRec s x)) ∧ (∀ x, tyerOf t x = haltedTyer (stationRec s x) (tyerOf s x)) ∧
      t.head = s.head ∧ t.track = s.track ∧ t.crumb = s.crumb ∧ t.shift = s.shift := by
  have ha := stationHalts_halted .a s
  have hb := stationHalts_halted .b (stationHalts .a s)
  refine ⟨fun x => ?_, fun x => ?_, hb.head.trans ha.head, hb.track.trans ha.track, hb.crumb.trans ha.crumb, hb.shift.trans ha.shift⟩
  · rw [hb.recs, ha.recs]
    cases x <;> rfl
  · rw [hb.tyers, ha.tyers, ha.recs]
    cases x <;> rfl

theorem abortSweep_spec (s : State) : let t := abortSweep s
    t.stations = s.stations ∧ t.tyers = s.tyers ∧ t.head = s.head ∧ t.track = s.track ∧ t.crumb = { s.crumb with sweep := none } ∧
      t.shift = { s.shift with openRecord := { s.shift.openRecord with
        sweepsAborted := if s.crumb.sweep.isSome then min (s.shift.openRecord.sweepsAborted + 1) 4294967295
          else s.shift.openRecord.sweepsAborted } } := by
  unfold abortSweep
  split
  · rename_i h
    refine ⟨rfl, rfl, rfl, rfl, ?_, ?_⟩
    · rw [← h]
    · rw [h]
      rfl
  · rename_i w h
    rw [report_eq]
    refine ⟨rfl, rfl, rfl, rfl, rfl, ?_⟩
    rw [h]
    rfl

/-- The line's entry into HALTED (R139). -/
theorem enterHalted_from (s : State) : HaltedFrom s (enterHalted s) := by
  have hu : ∃ l, countShift (fun r => { r with halts := raiseCount r.halts 1 }) (setLine .halted s) =
      { s with
        sup := { s.sup with line := .halted }
        shift := { s.shift with openRecord := { s.shift.openRecord with halts := raiseCount s.shift.openRecord.halts 1 } }
        link := l } := by
    refine ⟨(setLine .halted s).link, ?_⟩
    unfold setLine
    rw [report_eq]
    rfl
  obtain ⟨l, hu⟩ := hu
  have hh := headHalts_halts (countShift (fun r => { r with halts := raiseCount r.halts 1 }) (setLine .halted s))
  have he : enterHalted s = assertHold (abortSweep (stationHalts .b (stationHalts .a
    (headHalts (countShift (fun r => { r with halts := raiseCount r.halts 1 }) (setLine .halted s)))))) := rfl
  rw [hu] at hh he
  generalize headHalts _ = t at hh he
  obtain ⟨hr, hy, h1, h2, h3, h4⟩ := stationsHalt_spec t
  generalize stationHalts .b (stationHalts .a t) = v at hr hy h1 h2 h3 h4 he
  obtain ⟨a1, a2, a3, a4, a5, a6⟩ := abortSweep_spec v
  generalize abortSweep v = w at a1 a2 a3 a4 a5 a6 he
  have ehead : (enterHalted s).head = t.head := by rw [he]; exact a3.trans h1
  have eloaf : headLoaf (enterHalted s) = headLoaf t := by
    have htr : (enterHalted s).track.loaves = t.track.loaves := by
      rw [he]
      show w.track.loaves = _
      rw [a4, h2]
    unfold headLoaf findLoaf
    rw [ehead, htr]
  obtain ⟨air, hc⟩ := hh.crumb
  have ecrumb : (enterHalted s).crumb = { s.crumb with airKnife := air, sweep := none } := by
    rw [he]
    show w.crumb = _
    rw [a5, h3, hc]
  have eshift : (enterHalted s).shift = { s.shift with openRecord := { s.shift.openRecord with
      halts := raiseCount s.shift.openRecord.halts 1
      sweepsAborted := if s.crumb.sweep.isSome then min (s.shift.openRecord.sweepsAborted + 1) 4294967295
          else s.shift.openRecord.sweepsAborted } } := by
    rw [he]
    show w.shift = _
    rw [a6, h4, h3, hc, hh.shift]
  have erec : ∀ x, stationRec (enterHalted s) x = haltedRec (stationRec s x) := fun x => by
    rw [he]
    show stationRec w x = _
    unfold stationRec at hr ⊢
    rw [a1, hr, hh.stations]
  have etyer : ∀ x, tyerOf (enterHalted s) x = haltedTyer (stationRec s x) (tyerOf s x) := fun x => by
    rw [he]
    show tyerOf w x = _
    unfold tyerOf stationRec at hy ⊢
    rw [a2, hy, hh.stations, hh.tyers]
  exact {
    line := (enterHalted_spec s).2.1
    hold := (enterHalted_spec s).2.2
    halts := by rw [eshift]; rfl
    knife := by rw [ehead]; exact hh.knife
    interrupted := fun h => by rw [ehead]; exact hh.interrupted h
    marked := fun h r hr => by rw [eloaf]; exact hh.marked h r hr
    homed := fun h => by rw [ehead]; exact hh.homed h
    stands := fun h => by rw [ehead]; exact hh.stands h
    pusher := by rw [ehead]; exact hh.pusher
    stations := erec
    tyers := etyer
    sweep := by rw [ecrumb]
    crumb := by rw [ecrumb]; exact ⟨rfl, rfl, rfl, rfl, rfl⟩
    aborted := by rw [eshift] }

/-- What a state after the entry into HALTED agrees on with the state at its end. -/
theorem haltedFrom_after {s t u : State} (h : HaltedFrom s t) (hs : u.sup.line = t.sup.line) (ht : u.track = t.track)
    (hh : u.head = t.head) (hx : u.stations = t.stations) (hy : u.tyers = t.tyers) (hc : u.crumb = t.crumb) (hr : u.shift = t.shift) :
    HaltedFrom s u := by
  have hl : headLoaf u = headLoaf t := by
    unfold headLoaf findLoaf
    rw [hh, ht]
  exact {
    line := hs.trans h.line
    hold := by rw [ht]; exact h.hold
    halts := by rw [hr]; exact h.halts
    knife := by rw [hh]; exact h.knife
    interrupted := fun k => by rw [hh]; exact h.interrupted k
    marked := fun k r hr => by rw [hl]; exact h.marked k r hr
    homed := fun k => by rw [hh]; exact h.homed k
    stands := fun k => by rw [hh]; exact h.stands k
    pusher := by rw [hh]; exact h.pusher
    stations := fun x => by unfold stationRec; rw [hx]; exact h.stations x
    tyers := fun x => by unfold tyerOf; rw [hy]; exact h.tyers x
    sweep := by rw [hc]; exact h.sweep
    crumb := by rw [hc]; exact h.crumb
    aborted := by rw [hr]; exact h.aborted }

/-- What a state before the entry into HALTED agrees on with the state at the event's begin. -/
theorem haltedFrom_before {s t u : State} (h : HaltedFrom u t) (hh : u.head = s.head)
    (hl : ∀ r ∈ headLoaf s, ∃ q ∈ headLoaf u, q.mark = r.mark ∧ q.cutsDone = r.cutsDone) (hx : u.stations = s.stations)
    (hy : u.tyers = s.tyers) (hc : u.crumb = s.crumb) (h1 : u.shift.openRecord.halts = s.shift.openRecord.halts)
    (h2 : u.shift.openRecord.sweepsAborted = s.shift.openRecord.sweepsAborted) : HaltedFrom s t := by
  obtain ⟨l, ho, ha, kn, hi, hm, hom, hst, hp, hr, ht, hsw, hcr, hab⟩ := h
  have er : ∀ x, stationRec u x = stationRec s x := fun x => by unfold stationRec; rw [hx]
  have ey : ∀ x, tyerOf u x = tyerOf s x := fun x => by unfold tyerOf; rw [hy]
  rw [hh] at hi hm hom hst hp
  rw [hc] at hcr hab
  rw [h1] at ha
  rw [h2] at hab
  simp only [er, ey] at hr ht
  refine ⟨l, ho, ha, kn, hi, fun k r hr => ?_, hom, hst, hp, hr, ht, hsw, hcr, hab⟩
  obtain ⟨q, hq, e1, e2⟩ := hl r hr
  rw [hm k q hq, e1, e2]

/-- The records of the context where the track and the context stand. -/
theorem headLoaf_same {s u : State} (hh : u.head = s.head) (ht : u.track.loaves = s.track.loaves) :
    ∀ r ∈ headLoaf s, ∃ q ∈ headLoaf u, q.mark = r.mark ∧ q.cutsDone = r.cutsDone := fun r hr => by
  refine ⟨r, ?_, rfl, rfl⟩
  unfold headLoaf findLoaf at hr ⊢
  rw [hh, ht]
  exact hr

end Sys2Proof.LoafTrack
end

-- ==== The loaf track, proofs: the belt and the distance checks ====
section
/-! A fault raised at an event and its action on the line, to the end of the event; the belt (O21) and the distance checks (O22). -/

namespace Sys2Proof.LoafTrack

open Sys2Proof.Machine Sys2Proof.Safety Sys2Proof.Laws

/-! ## The flags alone -/

/-- The state is the one before but for the fault table, the first-fault record, the warning flags and the link. -/
def Flagged (s t : State) : Prop :=
  t = { s with
    sup := { s.sup with faults := t.sup.faults, firstFault := t.sup.firstFault, warnings := t.sup.warnings }
    link := t.link }

theorem Flagged.refl (s : State) : Flagged s s := rfl

theorem Flagged.trans {s t u : State} (h : Flagged s t) (k : Flagged t u) : Flagged s u := by
  unfold Flagged at h k ⊢
  rw [k]
  conv => lhs; rw [h]

theorem Flagged.head {s t : State} (h : Flagged s t) : t.head = s.head := by rw [h]
theorem Flagged.track {s t : State} (h : Flagged s t) : t.track = s.track := by rw [h]
theorem Flagged.stations {s t : State} (h : Flagged s t) : t.stations = s.stations := by rw [h]
theorem Flagged.tyers {s t : State} (h : Flagged s t) : t.tyers = s.tyers := by rw [h]
theorem Flagged.crumb {s t : State} (h : Flagged s t) : t.crumb = s.crumb := by rw [h]
theorem Flagged.shift {s t : State} (h : Flagged s t) : t.shift = s.shift := by rw [h]
theorem Flagged.line {s t : State} (h : Flagged s t) : t.sup.line = s.sup.line := by rw [h]
theorem Flagged.watch {s t : State} (h : Flagged s t) : t.sup.beltWatch = s.sup.beltWatch := by rw [h]

theorem noticed_flagged {s t : State} (h : Noticed s t) : Flagged s t := by
  unfold Flagged
  rw [h.rest]

theorem report_flagged (r : Report) (s : State) : Flagged s (report r s) := noticed_flagged (report_noticed r s)

theorem faultMoves_flagged (k : FaultKind) (st : FaultState) (s : State) : Flagged s (faultMoves k st s) := by
  unfold faultMoves
  refine Flagged.trans ?_ (report_flagged _ _)
  rfl

theorem faultOccurs_flagged (k : FaultKind) (st : FaultState) (loaf : Option Nat) (s : State) : Flagged s (faultOccurs k st loaf s) := by
  unfold faultOccurs recordFirst
  simp only
  refine Flagged.trans ?_ (report_flagged _ _)
  split <;> rfl

theorem finish_flagged (s : State) : Flagged s (finish s) := noticed_flagged (finish_noticed s)

/-! ## A fault's action on the line -/

theorem enterDraining_line (s : State) :
    (enterDraining s).sup.line = (if s.track.loaves = [] then .stopped else .draining) ∧ (enterDraining s).track.infeedHold = true := by
  have hl : (trySweep (assertHold (setLine .draining s))).sup.line = .draining := by
    unfold trySweep
    split <;> exact setLine_line .draining s
  have ht : (trySweep (assertHold (setLine .draining s))).track = { s.track with infeedHold := true } := by
    have h0 : (assertHold (setLine .draining s)).track = { s.track with infeedHold := true } := by
      unfold assertHold
      rw [show (setLine .draining s).track = s.track from (setLine_spec .draining s).2.1]
      rfl
    unfold trySweep
    split <;> exact h0
  unfold enterDraining trackEmpty
  rw [hl, ht]
  by_cases he : s.track.loaves = []
  · rw [if_pos (by simp [he]), if_pos he]
    exact (enterStopped_spec false _).2
  · rw [if_neg (by simp [he]), if_neg he, hl, ht]
    exact ⟨rfl, rfl⟩

theorem applyToLine_halt (s : State) : (applyToLine .halt s).sup.line = .halted := by
  unfold applyToLine
  dsimp only
  split
  · assumption
  · exact (enterHalted_spec s).2.1

theorem applyToLine_drains {s : State} (h : s.sup.line = .running) : applyToLine .hold s = enterDraining s := if_pos h

/-- An action that does not apply changes nothing. -/
theorem applyToLine_stays {a : Action} {s : State} (h : a = .nothing ∨ (a = .hold ∧ s.sup.line ≠ .running)) : applyToLine a s = s := by
  rcases h with rfl | ⟨rfl, h⟩
  · rfl
  · exact if_neg h

/-- Once an action has been applied, the same action changes nothing more. -/
theorem applyToLine_again (a : Action) {s t : State} (h : t.sup.line = (applyToLine a s).sup.line) : applyToLine a t = t := by
  cases a with
  | nothing => rfl
  | halt => exact if_pos (h.trans (applyToLine_halt s))
  | hold =>
    refine applyToLine_stays (.inr ⟨rfl, ?_⟩)
    rw [h]
    by_cases hr : s.sup.line = .running
    · rw [applyToLine_drains hr, (enterDraining_line s).1]
      split <;> nofun
    · rw [applyToLine_stays (.inr ⟨rfl, hr⟩)]
      exact hr

theorem setLine_hears (l : LineState) (s : State) : Hears (.line l) 1 s (setLine l s) :=
  Hears.of_same (report_hears (.line l) (s.setSup { s.sup with line := l })) rfl

theorem enterHalted_hears (s : State) : Hears (.line .halted) 2 s (enterHalted s) :=
  (setLine_hears .halted s).trans <| ((countHalt_reacts _).trans <| (headHalts_reacts _).trans <| (stationHalts_reacts .a _).trans <|
    (stationHalts_reacts .b _).trans <| (abortSweep_reacts _).trans (assertHold_reacts _)).tells

theorem enterStopped_hears (s : State) : Hears (.line .stopped) 1 s (enterStopped false s) :=
  (setLine_hears .stopped s).trans <| ((headStops_reacts _).trans <| (stationStops_reacts .a _).trans <|
    (stationStops_reacts .b _).trans (assertHold_reacts _)).tells

theorem enterDraining_hears (s : State) : Hears (.line (enterDraining s).sup.line) 2 s (enterDraining s) := by
  have h0 := (setLine_hears .draining s).trans ((assertHold_reacts _).trans (trySweep_reacts _)).tells
  have hl : (trySweep (assertHold (setLine .draining s))).sup.line = .draining := by
    unfold trySweep
    split <;> exact setLine_line .draining s
  show Hears (.line (trackEmpty _).sup.line) 2 s (trackEmpty _)
  generalize trySweep (assertHold (setLine .draining s)) = u at h0 hl
  unfold trackEmpty
  split
  · rw [(enterStopped_spec false u).2.1]
    exact h0.toTells.hears (enterStopped_hears u)
  · rw [hl]
    exact h0.mono (by omega)

/-- A change of the line by an action is reported (R152). -/
theorem applyToLine_hears {a : Action} {s : State} (h : (applyToLine a s).sup.line ≠ s.sup.line) :
    Hears (.line (applyToLine a s).sup.line) 2 s (applyToLine a s) := by
  cases a with
  | nothing => exact absurd rfl h
  | hold =>
    by_cases hr : s.sup.line = .running
    · rw [applyToLine_drains hr]
      exact enterDraining_hears s
    · rw [applyToLine_stays (.inr ⟨rfl, hr⟩)] at h
      exact absurd rfl h
  | halt =>
    rw [applyToLine_halt]
    by_cases hr : s.sup.line = .halted
    · rw [applyToLine_halt] at h
      exact absurd hr.symm h
    · unfold applyToLine
      dsimp only
      rw [if_neg hr]
      exact enterHalted_hears s

/-- An event in which an action is applied to the line, up to the flags: `u` stands before the action and `w` after it. -/
theorem actedOnLine_of {a : Action} {s u w : State} {m n : Nat} (hl : u.sup.line = s.sup.line)
    (hp : u.track.loaves = [] ↔ s.track.loaves = []) (hu : Tells m s u) (hw : Flagged (applyToLine a u) w)
    (ht : Tells n (applyToLine a u) w) (hn : m + 2 + n ≤ 15) : ActedOnLine a s (finish w) := by
  have hline : (finish w).sup.line = (applyToLine a u).sup.line := (finish_flagged w).line.trans hw.line
  have hhold : (finish w).track.infeedHold = (applyToLine a u).track.infeedHold := by rw [(finish_flagged w).track, hw.track]
  refine ⟨?_, ?_, ?_, fun hs hne => ?_⟩
  · rintro rfl
    rw [hline, applyToLine_halt]
  · rintro rfl hr
    rw [hline, hhold, applyToLine_drains (hl.trans hr), (enterDraining_line u).1, (enterDraining_line u).2]
    simp only [hp, and_self]
  · rw [hline, ← hl]
    exact fun h => congrArg (fun v : State => v.sup.line) (applyToLine_stays (s := u) h)
  · rw [hline] at hne ⊢
    rw [← hl] at hne
    exact Hears.finished ((hu.hears (applyToLine_hears hne)).trans ht) hn hs

/-- The belt settles over an action that has been applied already: the flags alone move. -/
theorem settleBelt_flagged {a : Action} {s t : State} (h : t.sup.line = (applyToLine a s).sup.line)
    (ha : (faultEntry t .beltStall).action = a) : Flagged t (settleBelt t) := by
  unfold settleBelt
  simp only
  split
  · have hm := faultMoves_flagged .beltStall .latched t
    have hact : (faultEntry (faultMoves .beltStall .latched t) .beltStall).action = a := by
      show (faultEntry (report _ (setFault .beltStall _ t)) .beltStall).action = a
      rw [report_faults, faultEntry_setFault, if_pos rfl]
      exact ha
    rw [hact, applyToLine_again a (hm.line.trans h)]
    exact hm
  · exact Flagged.refl t

theorem settleBelt_flagged_halted {t : State} (h : t.sup.line = .halted) : Flagged t (settleBelt t) := by
  unfold settleBelt
  simp only
  split
  · have hm := faultMoves_flagged .beltStall .latched t
    rw [applyToLine_halted _ _ (hm.line.trans h)]
    exact hm
  · exact Flagged.refl t

/-! ## A raised fault -/

/-- An event fault raised is an occurrence, with its action applied and the belt settled. -/
theorem raiseFault_eq (k : FaultKind) (loaf : Option Nat) (s : State) :
    raiseFault k loaf s = settleBelt (applyToLine (faultEntry s k).action (faultOccurs k .latched loaf s)) := by
  show settleBelt (applyToLine (faultEntry (faultOccurs k .latched loaf s) k).action _) = _
  rw [faultOccurs_entry]

/-- A fault whose action is HALT takes a line that moves, or stands STOPPED, into HALTED (R146). -/
theorem raiseFault_from {k : FaultKind} {loaf : Option Nat} {s : State} (ha : (faultEntry s k).action = .halt)
    (hl : s.sup.line ≠ .halted) : HaltedFrom s (finish (raiseFault k loaf s)) := by
  have hu := faultOccurs_flagged k .latched loaf s
  have hh : applyToLine .halt (faultOccurs k .latched loaf s) = enterHalted (faultOccurs k .latched loaf s) :=
    if_neg fun e => hl (hu.line.symm.trans e)
  rw [raiseFault_eq, ha, hh]
  have hw := (settleBelt_flagged_halted (enterHalted_spec (faultOccurs k .latched loaf s)).2.1).trans (finish_flagged _)
  refine haltedFrom_before (haltedFrom_after (enterHalted_from _) hw.line hw.track hw.head hw.stations hw.tyers hw.crumb hw.shift)
    hu.head (headLoaf_same hu.head (congrArg Track.loaves hu.track)) hu.stations hu.tyers hu.crumb ?_ ?_
  · rw [hu.shift]
  · rw [hu.shift]

/-- The halt that a fault brings is reported (R152). -/
theorem raiseFault_hears_halt {k : FaultKind} {loaf : Option Nat} {s : State} (ha : (faultEntry s k).action = .halt)
    (hl : s.sup.line ≠ .halted) : Hears (.line .halted) 6 s (raiseFault k loaf s) := by
  have hu := faultOccurs_flagged k .latched loaf s
  have hne : (applyToLine .halt (faultOccurs k .latched loaf s)).sup.line ≠ (faultOccurs k .latched loaf s).sup.line := by
    rw [applyToLine_halt, hu.line]
    exact Ne.symm hl
  have h := applyToLine_hears hne
  rw [applyToLine_halt] at h
  rw [raiseFault_eq, ha]
  exact ((faultOccurs_reacts k .latched loaf s).tells.hears h).trans (settleBelt_reacts _).tells

/-- The occurrence is reported (R152). -/
theorem raiseFault_hears (k : FaultKind) (loaf : Option Nat) (s : State) :
    Hears (.fault k .latched (min ((faultEntry s k).count + 1) 255)) 6 s (raiseFault k loaf s) :=
  (faultOccurs_hears k .latched loaf s).trans (faultActs_reacts k _).tells

/-- What the raising of a fault leaves of the track and of the first-fault record. -/
structure Raised (s t : State) : Prop where
  first : t.sup.firstFault = s.sup.firstFault
  nextTag : t.track.nextTag = s.track.nextTag
  loaves : t.track.loaves.map unmarked = s.track.loaves.map unmarked

theorem Raised.of_calm {s t : State} (h : Calm s t) : Raised s t := ⟨h.first, h.nextTag, h.loaves⟩

theorem Raised.trans {s t u : State} (h : Raised s t) (k : Raised t u) : Raised s u :=
  ⟨k.first.trans h.first, k.nextTag.trans h.nextTag, k.loaves.trans h.loaves⟩

theorem faultMoves_raised (k : FaultKind) (st : FaultState) (s : State) : Raised s (faultMoves k st s) := by
  have h := faultMoves_flagged k st s
  refine ⟨?_, by rw [h.track], by rw [h.track]⟩
  show (report _ (setFault k _ s)).sup.firstFault = _
  rw [(report_noticed _ _).firstFault]
  rfl

theorem settleBelt_raised (s : State) : Raised s (settleBelt s) := by
  unfold settleBelt
  simp only
  split
  · exact (faultMoves_raised .beltStall .latched s).trans (Raised.of_calm (applyToLine_calm _ _))
  · exact Raised.of_calm (Calm.refl s)

theorem faultActs_raised (k : FaultKind) (s : State) : Raised s (faultActs k s) :=
  (Raised.of_calm (applyToLine_calm _ s)).trans (settleBelt_raised _)

theorem raiseFault_loaves (k : FaultKind) (loaf : Option Nat) (s : State) :
    (raiseFault k loaf s).track.loaves.map unmarked = s.track.loaves.map unmarked :=
  (faultActs_raised k _).loaves.trans (by rw [(faultOccurs_flagged k .latched loaf s).track])

theorem raiseFault_nextTag (k : FaultKind) (loaf : Option Nat) (s : State) : (raiseFault k loaf s).track.nextTag = s.track.nextTag :=
  (faultActs_raised k _).nextTag.trans (by rw [(faultOccurs_flagged k .latched loaf s).track])

theorem noFaultStands_iff (s : State) : noFaultStands s = true ↔ ∀ k, (faultEntry s k).state = .inactive := by
  have hall : ∀ k : FaultKind, k ∈ allFaults := fun k => by
    rcases k with _ | _ | _ | _ | _ | _ | _ | _ | _ | _ | _ | (_ | _) | (_ | _) | _ | _ | _ | _ <;> decide
  unfold noFaultStands faultStands
  rw [List.all_eq_true]
  constructor
  · intro h k
    simpa using h k (hall k)
  · intro h k _
    simp [h k]

/-- The first-fault record at an occurrence (R149). -/
theorem raiseFault_first (k : FaultKind) (loaf : Option Nat) (s : State) : (raiseFault k loaf s).sup.firstFault =
    if noFaultStands s then some ⟨k, eventStamp s, loaf, s.sup.line⟩ else s.sup.firstFault := by
  refine (faultActs_raised k _).first.trans ?_
  unfold faultOccurs
  simp only
  rw [(report_noticed _ _).firstFault]
  show (recordFirst k loaf s).sup.firstFault = _
  unfold recordFirst
  split <;> rfl

/-- An action applied at a raised fault, where BELT_STALL is not ACTIVE. -/
theorem raiseFault_acted {k : FaultKind} {loaf : Option Nat} {s u : State} (hl : u.sup.line = s.sup.line)
    (hp : u.track.loaves = [] ↔ s.track.loaves = []) (hlink : u.link = s.link) (hb : BeltRuns u) (hk : k ≠ .beltStall) :
    ActedOnLine (faultEntry u k).action s (finish (raiseFault k loaf u)) := by
  have hu := faultOccurs_flagged k .latched loaf u
  rw [raiseFault_eq, settleBelt_idle]
  · refine actedOnLine_of (m := 1) (n := 0) (hu.line.trans hl) (by rw [hu.track]; exact hp) ?_ (Flagged.refl _) (Tells.refl _ 0) (by omega)
    exact Tells.of_same (faultOccurs_reacts k .latched loaf u).tells hlink
  · rw [(applyToLine_calm _ _).entry, faultOccurs_other _ _ _ _ _ hk]
    exact hb

/-! ## A check that has run out -/

/-- A record found by its tag stands, but for its mark, where the records do. -/
theorem findLoaf_unmarked {s t : State} {n : Nat} {r : Loaf} (h : t.track.loaves.map unmarked = s.track.loaves.map unmarked)
    (hr : findLoaf s n = some r) : ∃ q, findLoaf t n = some q ∧ unmarked q = unmarked r := by
  have hf : ∀ ls : List Loaf, (ls.map unmarked).find? (fun l => decide (l.tag = n)) = (ls.find? fun l => decide (l.tag = n)).map unmarked :=
    fun ls => by
      rw [List.find?_map]
      rfl
  have e := (hf t.track.loaves).symm.trans ((congrArg _ h).trans (hf s.track.loaves))
  unfold findLoaf at hr ⊢
  rw [hr] at e
  obtain ⟨q, hq, he⟩ := Option.map_eq_some_iff.mp e
  exact ⟨q, hq, he⟩

/-- A change of the records that keeps their tags keeps, through what it keeps of them, the record found by its tag. -/
theorem find?_modifyFirst {p : Loaf → Bool} {f : Loaf → Loaf} {P : Loaf → Loaf → Prop} (m : Nat) (ht : ∀ r, (f r).tag = r.tag)
    (hf : ∀ r, P r (f r)) (hP : ∀ r, P r r) (ls : List Loaf) (r : Loaf) (hr : ls.find? (fun l => decide (l.tag = m)) = some r) :
    ∃ q, (modifyFirst p f ls).find? (fun l => decide (l.tag = m)) = some q ∧ P r q := by
  induction ls with
  | nil => cases hr
  | cons a as ih =>
    rw [List.find?_cons] at hr
    unfold modifyFirst
    cases hp : p a with
    | true =>
      rw [if_pos rfl, List.find?_cons, ht]
      cases hm : decide (a.tag = m) with
      | true =>
        rw [hm] at hr
        cases hr
        exact ⟨f r, rfl, hf r⟩
      | false =>
        rw [hm] at hr
        exact ⟨r, hr, hP r⟩
    | false =>
      rw [if_neg Bool.false_ne_true, List.find?_cons]
      cases hm : decide (a.tag = m) with
      | true =>
        rw [hm] at hr
        cases hr
        exact ⟨r, rfl, hP r⟩
      | false =>
        rw [hm] at hr
        exact ih hr

/-- A change of a record that keeps its tag, its mark and its cuts leaves the context's loaf so. -/
theorem headLoaf_modified {s : State} {n : Nat} {f : Loaf → Loaf} (ht : ∀ r, (f r).tag = r.tag) (hm : ∀ r, (f r).mark = r.mark)
    (hc : ∀ r, (f r).cutsDone = r.cutsDone) (r : Loaf) (hr : r ∈ headLoaf s) :
    ∃ q ∈ headLoaf (modifyLoaf n f s), q.mark = r.mark ∧ q.cutsDone = r.cutsDone := by
  obtain ⟨m, hm', hr⟩ := Option.bind_eq_some_iff.mp (show s.head.tag.bind (findLoaf s) = some r from hr)
  obtain ⟨q, hq, e⟩ := find?_modifyFirst (p := fun l => decide (l.tag = n)) (P := fun r q => q.mark = r.mark ∧ q.cutsDone = r.cutsDone) m ht
    (fun r => ⟨hm r, hc r⟩) (fun _ => ⟨rfl, rfl⟩) s.track.loaves r hr
  refine ⟨q, ?_, e⟩
  show s.head.tag.bind (findLoaf (modifyLoaf n f s)) = some q
  rw [hm']
  exact hq

theorem jamOf_event (kind : CheckKind) : jamOf kind ≠ .beltStall := by cases kind <;> nofun

theorem checkFault_jam (kind : CheckKind) : checkFault kind = jamOf kind := by cases kind <;> rfl

theorem exec_expiry (kind : CheckKind) (n : Nat) (s : State) : exec (expiryOf kind n) s = .next (checkExpires kind n s) := by
  cases kind <;> rfl

theorem modifyLoaf_nil (n : Nat) (f : Loaf → Loaf) (s : State) : (modifyLoaf n f s).track.loaves = [] ↔ s.track.loaves = [] := by
  rw [← List.length_eq_zero_iff, ← List.length_eq_zero_iff]
  show (modifyFirst _ f s.track.loaves).length = 0 ↔ _
  rw [modifyFirst_length]

/-- The state with the check taken off the record. -/
abbrev unchecked (n : Nat) (s : State) : State := modifyLoaf n (fun r => { r with check := none }) s

/-- A check that has run out raises its fault. -/
theorem checkExpires_due {kind : CheckKind} {n : Nat} {s : State} {r : Loaf} (h : findLoaf s n = some r) (hc : r.check = some ⟨kind, 0⟩) :
    checkExpires kind n s = finish (raiseFault (jamOf kind) (some n) (unchecked n s)) := by
  unfold checkExpires checkDue
  rw [if_pos (by rw [h]; exact decide_eq_true hc), checkFault_jam]

theorem checkExpires_idle {kind : CheckKind} {n : Nat} {s : State} (h : ∀ r ∈ findLoaf s n, r.check ≠ some ⟨kind, 0⟩) :
    checkExpires kind n s = s := by
  unfold checkExpires checkDue
  cases hf : findLoaf s n with
  | none => rfl
  | some r =>
    refine if_neg fun e => h r hf ?_
    exact of_decide_eq_true e

/-- Settles O22: a check that has run out raises its fault on the record, and one that has not changes nothing (R10, R146). -/
theorem expiredCheckRaisesFault : Obligations.ExpiredCheckRaisesFault := by
  intro kind n s
  refine ⟨fun r hr hc => ?_, fun h => ?_⟩
  swap
  · rw [exec_expiry, checkExpires_idle h]
  have he := checkExpires_due hr hc
  have hentry := raiseFault_entry (jamOf kind) (some n) (unchecked n s) (jamOf_event kind)
  have hfin : ∀ k, faultEntry (checkExpires kind n s) k = faultEntry (raiseFault (jamOf kind) (some n) (unchecked n s)) k := fun k => by
    rw [he]
    exact (finish_calm _).entry k
  have hfirst : (checkExpires kind n s).sup.firstFault =
      if noFaultStands s then some ⟨jamOf kind, ⟨s.shift.clock, s.head.stamp⟩, some n, s.sup.line⟩ else s.sup.firstFault := by
    rw [he, (finish_calm _).first, raiseFault_first]
    rfl
  refine ⟨_, exec_expiry kind n s, (checkExpires_steady kind n s).aside, ?_, ?_, ?_, ?_, ?_, fun hk => ?_, fun ⟨k, hk⟩ => ?_, fun hs => ?_,
    fun ha hl => ⟨?_, fun hs => ?_⟩, fun hb => ?_⟩
  · have hm : findLoaf (unchecked n s) n = some { r with check := none } := findLoaf_modify hr (show r.tag = n from findLoaf_tag hr)
    have hl : (checkExpires kind n s).track.loaves.map unmarked = (unchecked n s).track.loaves.map unmarked := by
      rw [he, (finish_calm _).loaves, raiseFault_loaves]
    obtain ⟨q, hq, hu⟩ := findLoaf_unmarked hl hm
    have hz : (unmarked q).zone = r.zone := by rw [hu]; rfl
    have hc : (unmarked q).check = none := by rw [hu]; rfl
    exact ⟨q, hq, hz, hc⟩
  · rw [hfin, hentry]
  · rw [hfin, hentry]
  · rw [hfin, hentry]
    rfl
  · rw [hfin, hentry]
    rfl
  · rw [hfirst, if_pos ((noFaultStands_iff s).mpr hk)]
  · rw [hfirst, if_neg fun e => hk ((noFaultStands_iff s).mp e k)]
  · rw [he]
    exact Hears.finished (s := unchecked n s) (raiseFault_hears _ _ _) (by omega) ⟨hs.busy, hs.empty, hs.every⟩
  · rw [he]
    refine haltedFrom_before (raiseFault_from (s := unchecked n s) ha hl) rfl (headLoaf_modified (fun _ => rfl) (fun _ => rfl) fun _ => rfl)
      rfl rfl rfl rfl rfl
  · rw [he]
    exact Hears.finished (s := unchecked n s) (raiseFault_hears_halt ha hl) (by omega) ⟨hs.busy, hs.empty, hs.every⟩
  · rw [he]
    exact raiseFault_acted (s := s) (u := unchecked n s) rfl (modifyLoaf_nil n _ s) rfl hb (jamOf_event kind)

/-! ## The belt -/

/-- A belt step up to the condition of BELT_STALL (R10, R88). -/
abbrev stepped (forward : Bool) (s : State) : State :=
  { s with
    track := { s.track with beltCount := beltAfter forward s.track.beltCount, loaves := s.track.loaves.map (Loaf.step forward) }
    stations := { s.stations with recs := ⟨s.stations.recs.a.step forward, s.stations.recs.b.step forward⟩ } }

theorem beltStep_eq (forward : Bool) (s : State) : beltStep forward s = beltMoves (stepped forward s) := rfl

/-- A condition that goes from a fault that is not ACTIVE changes nothing. -/
theorem setCondition_absent {k : FaultKind} {s : State} (h : (faultEntry s k).state ≠ .active) : setCondition k false s = s := by
  unfold setCondition
  split
  · rfl
  · rename_i e _
    cases e
  · rename_i e
    exact absurd e h
  · rfl

theorem setCondition_leaves {k : FaultKind} {s : State} (h : (faultEntry s k).state = .active) :
    setCondition k false s = faultActs k (faultMoves k .latched s) := by
  unfold setCondition
  rw [h]

theorem setCondition_comes {k : FaultKind} {s : State} (h : (faultEntry s k).state ≠ .active) :
    setCondition k true s = faultActs k (faultOccurs k .active none s) := by
  unfold setCondition
  split
  · rename_i e
    exact absurd e h
  · rfl
  · rename_i e _
    cases e
  · rename_i e _
    cases e

theorem beltMoves_runs {s : State} (h : BeltRuns s) :
    beltMoves s = { s with sup := { s.sup with beltWatch := if s.track.infeedHold then s.sup.beltWatch else true } } := by
  unfold beltMoves
  split
  · rfl
  · exact setCondition_absent h

theorem faultMoves_entry (k : FaultKind) (st : FaultState) (s : State) :
    faultEntry (faultMoves k st s) k = { faultEntry s k with state := st } := by
  show faultEntry (report _ (setFault k _ s)) k = _
  rw [report_faults, faultEntry_setFault, if_pos rfl]

/-- The belt moves again under a stall: BELT_STALL becomes LATCHED, and its action is applied (R144, R146). -/
theorem beltStep_recovers {forward : Bool} {s : State} (h : (faultEntry s .beltStall).state = .active) (hh : s.track.infeedHold = false) :
    (faultEntry (finish (beltStep forward s)) .beltStall).state = .latched ∧
      ActedOnLine (faultEntry s .beltStall).action s (finish (beltStep forward s)) := by
  have he : beltStep forward s = setCondition .beltStall false ((stepped forward s).setSup { s.sup with beltWatch := true }) := by
    rw [beltStep_eq]
    unfold beltMoves
    exact if_neg (by rw [show (stepped forward s).track.infeedHold = s.track.infeedHold from rfl, hh]; exact Bool.false_ne_true)
  generalize hv : (stepped forward s).setSup { s.sup with beltWatch := true } = v at he
  have hentry : faultEntry v .beltStall = faultEntry s .beltStall := by rw [← hv]; rfl
  have hm := faultMoves_flagged .beltStall .latched v
  have hlatched : (faultEntry (applyToLine (faultEntry s .beltStall).action (faultMoves .beltStall .latched v)) .beltStall).state = .latched := by
    rw [(applyToLine_calm _ _).entry, faultMoves_entry]
  have hb : beltStep forward s = applyToLine (faultEntry s .beltStall).action (faultMoves .beltStall .latched v) := by
    rw [he, setCondition_leaves (by rw [hentry]; exact h)]
    show settleBelt (applyToLine (faultEntry (faultMoves .beltStall .latched v) .beltStall).action _) = _
    rw [show (faultEntry (faultMoves .beltStall .latched v) .beltStall).action = (faultEntry s .beltStall).action by
      rw [faultMoves_entry, hentry]]
    exact settleBelt_idle _ (by rw [hlatched]; nofun)
  rw [hb]
  refine ⟨by rw [(finish_calm _).entry]; exact hlatched,
    actedOnLine_of (m := 1) (n := 0) ?_ ?_ ?_ (Flagged.refl _) (Tells.refl _ 0) (by omega)⟩
  · rw [hm.line, ← hv]
    rfl
  · rw [hm.track, ← hv]
    exact List.map_eq_nil_iff
  · exact Tells.of_same (faultMoves_reacts .beltStall .latched v).tells (by rw [← hv]; rfl)

theorem applyToLine_watch (a : Action) {s : State} (h : s.sup.beltWatch = false) : (applyToLine a s).sup.beltWatch = false := by
  have hd : (enterDraining s).sup.beltWatch = false := by
    unfold enterDraining trackEmpty
    split
    · rfl
    · unfold trySweep
      split <;> rfl
  unfold applyToLine
  cases a with
  | nothing => exact h
  | hold =>
    dsimp only
    split
    · exact hd
    · exact h
  | halt =>
    dsimp only
    split
    · exact h
    · rfl

/-- The belt watch has run out, up to the settling of the belt. -/
abbrev stalled (s : State) : State :=
  applyToLine (faultEntry s .beltStall).action (faultOccurs .beltStall .active none { s with sup := { s.sup with beltWatch := false } })

theorem watchExpires_eq {s : State} (hw : s.sup.beltWatch = true) (hb : BeltRuns s) : watchExpires s = finish (settleBelt (stalled s)) := by
  unfold watchExpires
  rw [if_pos hw]
  show finish (setCondition .beltStall true { s with sup := { s.sup with beltWatch := false } }) = _
  rw [setCondition_comes (show (faultEntry { s with sup := { s.sup with beltWatch := false } } .beltStall).state ≠ .active from hb)]
  show finish (settleBelt (applyToLine (faultEntry (faultOccurs .beltStall .active none _) .beltStall).action _)) = _
  rw [faultOccurs_entry]
  rfl

theorem stalled_entry (s : State) : faultEntry (stalled s) .beltStall = { faultEntry s .beltStall with
    state := .active, count := min ((faultEntry s .beltStall).count + 1) 255, lastStamp := some (eventStamp s), lastLoaf := none } := by
  rw [(applyToLine_calm _ _).entry, faultOccurs_entry]
  rfl

/-- The settling of the belt latches an ACTIVE stall over an asserted hold and changes nothing else of the entry. -/
theorem settleBelt_active {s : State} (h : (faultEntry s .beltStall).state = .active) :
    faultEntry (settleBelt s) .beltStall =
      { faultEntry s .beltStall with state := if s.track.infeedHold then .latched else .active } := by
  unfold settleBelt
  simp only
  split
  · rename_i hh
    rw [Bool.and_eq_true] at hh
    rw [(applyToLine_calm _ _).entry, faultMoves_entry, if_pos hh.1]
  · rename_i hh
    rw [h, decide_eq_true rfl, Bool.and_true] at hh
    rw [if_neg hh, ← h]

/-- Settles O21: a belt step, the end of a stall, and the belt watch run out (R10, R88, R144). -/
theorem beltStepsAndStalls : Obligations.BeltStepsAndStalls := by
  intro s
  dsimp only
  refine ⟨fun forward => ⟨finish (beltStep forward s), rfl, fun hb => ?_, fun h hh => beltStep_recovers h hh⟩, fun hw => ?_, fun hw hb => ?_⟩
  · rw [beltStep_eq, beltMoves_runs (s := stepped forward s) hb]
    exact finish_noticed _
  · show Host.Outcome.next (watchExpires s) = _
    unfold watchExpires
    rw [if_neg (by rw [hw]; exact Bool.false_ne_true)]
  · have hentry := stalled_entry s
    have hact : (faultEntry (stalled s) .beltStall).action = (faultEntry s .beltStall).action := by rw [hentry]
    have hsettle := settleBelt_active (s := stalled s) (by rw [hentry])
    have hfl : Flagged (stalled s) (settleBelt (stalled s)) := settleBelt_flagged rfl hact
    have hfin := hfl.trans (finish_flagged _)
    have hfe : faultEntry (finish (settleBelt (stalled s))) .beltStall = faultEntry (settleBelt (stalled s)) .beltStall :=
      (finish_calm _).entry _
    have hocc := faultOccurs_flagged .beltStall .active none { s with sup := { s.sup with beltWatch := false } }
    have hto : Tells 1 s (faultOccurs .beltStall .active none { s with sup := { s.sup with beltWatch := false } }) :=
      Tells.of_same (faultOccurs_reacts .beltStall .active none { s with sup := { s.sup with beltWatch := false } }).tells rfl
    refine ⟨watchExpires s, rfl, (watchExpires_steady s).aside, ?_⟩
    rw [watchExpires_eq hw hb]
    refine ⟨?_, ?_, ?_, fun hs => ?_, ?_, fun ha hl => ?_, fun hh => ?_⟩
    · rw [hfin.watch]
      exact applyToLine_watch _ (hocc.watch.trans rfl)
    · rw [hfe, hsettle, hentry]
    · rw [hfe, hsettle]
      show (if _ then _ else _ : FaultState) ≠ .inactive
      split <;> nofun
    · have hh : Hears (.fault .beltStall .active (min ((faultEntry s .beltStall).count + 1) 255)) 1 s
          (faultOccurs .beltStall .active none { s with sup := { s.sup with beltWatch := false } }) :=
        Hears.of_same (faultOccurs_hears .beltStall .active none { s with sup := { s.sup with beltWatch := false } }) rfl
      exact Hears.finished ((hh.trans (applyToLine_reacts _ _).tells).trans (settleBelt_reacts _).tells) (by omega) hs
    · exact actedOnLine_of (m := 1) (n := 3) (hocc.line.trans rfl) (by rw [hocc.track]) hto hfl (settleBelt_reacts _).tells (by omega)
    · have heq : stalled s = enterHalted (faultOccurs .beltStall .active none { s with sup := { s.sup with beltWatch := false } }) := by
        unfold stalled
        rw [ha]
        exact if_neg fun e => hl (hocc.line.symm.trans e)
      rw [heq] at hfin ⊢
      exact haltedFrom_before (haltedFrom_after (enterHalted_from _) hfin.line hfin.track hfin.head hfin.stations hfin.tyers hfin.crumb
        hfin.shift) hocc.head (headLoaf_same hocc.head (congrArg Track.loaves hocc.track)) hocc.stations hocc.tyers hocc.crumb
        (by rw [hocc.shift]) (by rw [hocc.shift])
    · rw [hfe, hsettle]
      rw [hfin.track] at hh
      exact if_pos hh

end Sys2Proof.LoafTrack
end


-- ==== The loaf track, proofs: the infeed eye, the stop eye and the stray edges ====
section
/-! SUPPORT. The edges that open, measure and present a record, and the edges that find none (O15, O16, O17, O20). -/

namespace Sys2Proof.LoafTrack

open Sys2Proof.Machine Sys2Proof.Safety Sys2Proof.Laws

/-! ## The warnings -/

theorem allWarnings_warnIndex (w : WarnKind) : allWarnings.getD (warnIndex w) .trackFull = w := by
  rcases w with _ | _ | _ | _ | x | x | _ | x | _ | _ | _ | _ | _ | _ <;> (try cases x) <;> rfl

theorem warnIndex_injective {w v : WarnKind} (h : warnIndex w = warnIndex v) : w = v := by
  rw [← allWarnings_warnIndex w, h, allWarnings_warnIndex v]

theorem warnEntry_setWarning (w v : WarnKind) (e : WarnEntry) (s : State) :
    warnEntry (setWarning w e s) v = if warnIndex w = warnIndex v then e else warnEntry s v := by
  unfold warnEntry setWarning
  simp only [State.setSup_sup, Fin.getElem_fin, Vector.getElem_set, Fin.ext_iff]

@[simp] theorem warnEntry_setWarning_self (w : WarnKind) (e : WarnEntry) (s : State) : warnEntry (setWarning w e s) w = e := by
  rw [warnEntry_setWarning, if_pos rfl]

theorem warnEntry_of_warnings {s t : State} (h : t.sup.warnings = s.sup.warnings) (w : WarnKind) : warnEntry t w = warnEntry s w := by
  unfold warnEntry
  rw [h]

theorem Reacts.warn {n : Nat} {s t : State} (h : Reacts n s t) (w : WarnKind) : warnEntry t w = warnEntry s w :=
  warnEntry_of_warnings h.warnings w

/-- A warning after its presence has been told: the indication joins at the change. -/
theorem warn_entry (w : WarnKind) (p : Bool) (s : State) : warnEntry (warn w p s) w = { warnEntry s w with
    present := p
    indication := if (warnEntry s w).present = p then (warnEntry s w).indication else (warnEntry s w).indication || p } := by
  unfold warn
  simp only
  by_cases h : (warnEntry s w).present = p
  · rw [if_pos h, if_pos h, ← h]
  · rw [if_neg h, if_neg h, (report_reacts _ _).warn, warnEntry_setWarning_self]

theorem warn_other {w v : WarnKind} (h : w ≠ v) (p : Bool) (s : State) : warnEntry (warn w p s) v = warnEntry s v := by
  unfold warn
  simp only
  split
  · rfl
  · rw [(report_reacts _ _).warn, warnEntry_setWarning, if_neg fun e => h (warnIndex_injective e)]

theorem warn_hears {w : WarnKind} {p : Bool} {s : State} (h : (warnEntry s w).present ≠ p) : Hears (.warning w p) 1 s (warn w p s) := by
  unfold warn
  simp only
  rw [if_neg h]
  exact Hears.of_same (report_hears (.warning w p) (setWarning w _ s)) rfl

/-- The end of an event evaluates NO_STATION, and moves no other warning. -/
theorem finish_warnEntry {w : WarnKind} (h : w ≠ .noStation) (s : State) : warnEntry (finish s) w = warnEntry s w :=
  warn_other (fun e => h e.symm) _ s

/-! ## What stands at another terminal -/

theorem setSignal_mode (p : Point) (sig : Signal) (n : Nat) : (p.setSignal sig n).mode = p.mode := by cases sig <;> rfl

theorem setTerminal_points (p q : PointNo) (sig : Signal) (s : State) :
    (setTerminal p sig s).points[q] = if p = q then s.points[p].setSignal sig s.fresh else s.points[q] := by
  have h : (setTerminal p sig s).points = s.points.set p (s.points[p].setSignal sig s.fresh) := by
    unfold setTerminal
    simp only
    split <;> rfl
  rw [h, Fin.getElem_fin, Vector.getElem_set]
  by_cases e : p = q
  · rw [if_pos e, if_pos (Fin.ext_iff.mp e)]
  · rw [if_neg e, if_neg fun k => e (Fin.ext k)]
    rfl

theorem pointFunction_setTerminal (p q : PointNo) (sig : Signal) (s : State) :
    pointFunction (setTerminal p sig s) q = pointFunction s q := by
  unfold pointFunction
  rw [setTerminal_points]
  split
  · rename_i h
    rw [setSignal_mode, h]
  · rfl

theorem holder_setTerminal (p : PointNo) (sig : Signal) (s : State) (f : Func) : holder (setTerminal p sig s) f = holder s f := by
  unfold holder
  simp only [pointFunction_setTerminal]

theorem holder_function {s : State} {f : Func} {p : PointNo} (h : holder s f = some p) : pointFunction s p = some f := by
  simpa using List.find?_some h

/-- The level of a function does not follow the terminal of another. -/
theorem inputHigh_driveInput {f g : Func} (h : g ≠ f) (b : Bool) (s : State) : inputHigh (driveInput f b s) g = inputHigh s g := by
  unfold driveInput
  cases hp : holder s f with
  | none => rfl
  | some p =>
    unfold inputHigh
    rw [holder_setTerminal]
    cases hq : holder s g with
    | none => rfl
    | some q =>
      have hpq : p ≠ q := fun e => by
        have hf := holder_function hp
        rw [e, holder_function hq] at hf
        exact h (Option.some.inj hf)
      show terminalLevel (setTerminal p _ s).points[q] = _
      rw [setTerminal_points, if_neg hpq]

theorem driveInput_steady (f : Func) (b : Bool) (s : State) : Aside s (driveInput f b s) := by
  rw [driveInput_eq]
  exact ⟨rfl, rfl, rfl, rfl, rfl, rfl, rfl, rfl, rfl, rfl⟩

/-! ## A record is opened -/

/-- The state in which a record has been opened and counted in, before the hold is reviewed. -/
def opened (s : State) : State :=
  let r := newLoaf s
  s.setTrack { s.track with loaves := s.track.loaves ++ [r], nextTag := tagAfter s.track.nextTag }
    |> countShift (fun v => { v with
        loavesIn := raiseCount v.loavesIn 1
        lines := countLine r.key (fun l => { l with loavesIn := raiseCount l.loavesIn 1 }) v.lines })

theorem openRecord_noticed {s : State} (h : BeltRuns s) : Noticed (holdSet (holdOwed (opened s)) (opened s)) (finish (openRecord s)) := by
  have hb : BeltRuns (opened s) := h
  rw [← reviewHold_eq _ hb]
  exact (evaluate_noticed .trackFull (reviewHold (opened s))).trans (finish_noticed _)

theorem recipeAt_eq (s : State) (i : Slot) : recipeAt s i = s.recipes.slots[i] := rfl

/-- The snapshot of a leading edge follows the run recipe, the lockdown and the lock (R4, R31). -/
theorem snapshotNow_none {s : State} (h : s.recipes.runRecipe = none) : snapshotNow s = none := by
  unfold snapshotNow recipeUsable
  rw [h]
  rfl

theorem snapshotNow_some {s : State} {i : Slot} {p : Recipe} (hr : s.recipes.runRecipe = some i) (hp : s.recipes.slots[i] = some p) :
    snapshotNow s = if s.recipes.lockdown = true ∧ p.locked = false then none else some ⟨i, figuresRead s p.figures, p.locked⟩ := by
  have hl : slotLocked s i = p.locked := by
    unfold slotLocked
    rw [recipeAt_eq, hp]
    rfl
  unfold snapshotNow recipeUsable
  rw [hr]
  simp only [recipeAt_eq, hp, hl, Option.isSome_some, Bool.true_and, Option.bind_some, Option.map_some]
  cases s.recipes.lockdown <;> cases p.locked <;> rfl

theorem newLoaf_unmarked {s : State} {sn : Snapshot} (h : snapshotNow s = some sn) : (newLoaf s).snapshot = some sn ∧ (newLoaf s).mark = none := by
  unfold newLoaf
  rw [h]
  exact ⟨rfl, rfl⟩

theorem newLoaf_noRecipe {s : State} (h : snapshotNow s = none) : (newLoaf s).snapshot = none ∧ (newLoaf s).mark = some .noRecipe := by
  unfold newLoaf
  rw [h]
  exact ⟨rfl, rfl⟩

theorem infeedLeading_opens {s : State} (hm : s.sup.line = .running ∨ s.sup.line = .draining) (hl : s.track.loaves.length < 12) :
    infeedLeading s = openRecord s := by
  unfold infeedLeading
  rw [if_pos (moving_of hm), if_pos (show s.track.loaves.length < Config.trackCapacity from hl)]

theorem infeedLeading_stands {s : State} (hm : s.sup.line = .stopped ∨ s.sup.line = .halted) : infeedLeading s = s := by
  unfold infeedLeading
  rw [if_neg (by rw [standing_of hm]; exact Bool.false_ne_true)]

theorem infeedLeading_overruns {s : State} (hm : s.sup.line = .running ∨ s.sup.line = .draining) (hl : 12 ≤ s.track.loaves.length) :
    infeedLeading s = trackOverrun s := by
  unfold infeedLeading
  rw [if_pos (moving_of hm), if_neg (show ¬s.track.loaves.length < Config.trackCapacity from Nat.not_lt.mpr hl)]

/-- The state in which an edge at a full track has been counted. -/
abbrev unrecordedEdge (s : State) : State := countShift (fun v => { v with unrecorded := raiseCount v.unrecorded 1 }) s

theorem driveInput_sup (f : Func) (b : Bool) (s : State) : (driveInput f b s).sup = s.sup := by
  rw [driveInput_eq]

theorem driveInput_track (f : Func) (b : Bool) (s : State) : (driveInput f b s).track = s.track := by
  rw [driveInput_eq]

theorem driveInput_link (f : Func) (b : Bool) (s : State) : (driveInput f b s).link = s.link := by
  rw [driveInput_eq]

theorem faultEntry_of_sup {s t : State} (h : t.sup = s.sup) (k : FaultKind) : faultEntry t k = faultEntry s k := by
  unfold faultEntry
  rw [h]

theorem listening_of_link {s t : State} (h : t.link = s.link) (hs : Listening s) : Listening t :=
  ⟨by rw [h]; exact hs.busy, by rw [h]; exact hs.empty, by rw [h]; exact hs.every⟩

/-- An edge at a full track: TRACK_OVERRUN is raised over the count (R7). -/
theorem overrun_spec {s u : State} (hu : u = { s with points := u.points, fresh := u.fresh }) : let t := finish (trackOverrun u)
    Aside s t ∧ t.track.loaves.map unmarked = s.track.loaves.map unmarked ∧ t.track.nextTag = s.track.nextTag ∧
      t.shift.openRecord.unrecorded = min (s.shift.openRecord.unrecorded + 1) 4294967295 ∧
      (faultEntry t .trackOverrun).state = .latched ∧ (faultEntry t .trackOverrun).lastLoaf = none ∧
      (faultEntry t .trackOverrun).count = min ((faultEntry s .trackOverrun).count + 1) 255 ∧
      (Listening s → Report.fault .trackOverrun .latched (min ((faultEntry s .trackOverrun).count + 1) 255) ∈ t.link.queue) ∧
      ((faultEntry s .trackOverrun).action = .halt → s.sup.line ≠ .halted →
        HaltedFrom s t ∧ (Listening s → Report.line .halted ∈ t.link.queue)) := by
  intro t
  have he : t = finish (raiseFault .trackOverrun none (unrecordedEdge u)) := rfl
  have hv : unrecordedEdge u = { s with shift := (unrecordedEdge s).shift, points := u.points, fresh := u.fresh } := by
    rw [hu]
    rfl
  clear_value t
  generalize unrecordedEdge u = v at he hv
  have hsup : v.sup = s.sup := by rw [hv]
  have hlink : v.link = s.link := by rw [hv]
  have hentry : faultEntry t .trackOverrun = { faultEntry s .trackOverrun with
      state := .latched, count := min ((faultEntry s .trackOverrun).count + 1) 255
      lastStamp := some (eventStamp v), lastLoaf := none } := by
    rw [he, (finish_calm _).entry, raiseFault_entry .trackOverrun none _ (by decide), faultEntry_of_sup hsup]
  have hlisten := fun hs : Listening s => listening_of_link hlink hs
  refine ⟨?_, ?_, ?_, ?_, ?_, ?_, ?_, fun hs => ?_, fun ha hl => ?_⟩
  · have ha : Aside s v := by
      rw [hv]
      exact ⟨rfl, rfl, rfl, rfl, rfl, rfl, rfl, rfl, rfl, rfl⟩
    rw [he]
    exact Laws.Aside.trans ha ((raiseFault_steady _ _ _).trans (finish_steady _)).aside
  · rw [he, (finish_calm _).loaves, raiseFault_loaves, hv]
  · rw [he, (finish_calm _).nextTag, raiseFault_nextTag, hv]
  · obtain ⟨halts, aborted, hr⟩ := (raiseFault_reacts .trackOverrun none v).record
    rw [he, (finish_noticed _).shift, hr, hv]
    rfl
  · rw [hentry]
  · rw [hentry]
  · rw [hentry]
  · rw [he, ← faultEntry_of_sup hsup]
    exact Hears.finished (raiseFault_hears _ _ _) (by omega) (hlisten hs)
  · have ha' : (faultEntry v .trackOverrun).action = .halt := by
      rw [faultEntry_of_sup hsup]
      exact ha
    have hl' : v.sup.line ≠ .halted := by
      rw [hsup]
      exact hl
    rw [he]
    refine ⟨?_, fun hs => Hears.finished (raiseFault_hears_halt ha' hl') (by omega) (hlisten hs)⟩
    refine haltedFrom_before (raiseFault_from ha' hl') ?_ (headLoaf_same ?_ ?_) ?_ ?_ ?_ ?_ ?_ <;> rw [hv] <;> rfl

/-- Settles O15: the record a leading edge opens, the standing line, and the full track (R4, R7). -/
theorem infeedEdgeOpensRecord : Obligations.InfeedEdgeOpensRecord := by
  intro s hf
  have hex : exec .infeedEyeLeadingEdge s = .next (finish (infeedLeading (driveInput .infeedEye true s))) :=
    congrArg Host.Outcome.next (inputEdge_held hf)
  have hd := driveInput_eq .infeedEye true s
  rw [hex]
  generalize driveInput .infeedEye true s = d at hd ⊢
  refine ⟨fun hm hl hb => ?_, fun hm => ?_, fun hm hl => ?_⟩
  · have hrun : d.recipes = s.recipes := by rw [hd]
    have hopt : d.options = s.options := by rw [hd]
    rw [infeedLeading_opens (by rw [hd]; exact hm) (by rw [hd]; exact hl)]
    refine ⟨newLoaf d, _, _, rfl, openRecord_noticed (by rw [hd]; exact hb), ?_, rfl, ?_, rfl, rfl, rfl, rfl, rfl, rfl, rfl, ?_, ?_, ?_, ?_⟩
    · rw [hd]
      rfl
    · rw [hd]
      rfl
    · rw [hd]
      rfl
    · intro hr
      exact newLoaf_noRecipe (snapshotNow_none (by rw [hrun]; exact hr))
    · intro i p hr hp
      have hs := snapshotNow_some (s := d) (by rw [hrun]; exact hr) (by rw [hrun]; exact hp)
      rw [hrun] at hs
      refine ⟨fun h => newLoaf_noRecipe (by rw [hs, if_pos h]), fun h => ?_⟩
      rw [if_neg h] at hs
      obtain ⟨h1, h2⟩ := newLoaf_unmarked hs
      refine ⟨h2, h1.trans ?_⟩
      unfold figuresRead shelfDaysRead
      rw [hopt]
    · rw [hd]
      rfl
  · rw [infeedLeading_stands (by rw [hd]; exact hm)]
    exact ⟨_, rfl, finish_noticed d⟩
  · rw [infeedLeading_overruns (by rw [hd]; exact hm) (by rw [hd]; exact hl)]
    obtain ⟨h1, h2, h3, h4, h5, h6, h7, h8, h9⟩ := overrun_spec hd
    exact ⟨_, rfl, h1, h2, h3, h4, h5, h6, h7, h8, fun ha => h9 ha (by rcases hm with h | h <;> rw [h] <;> nofun)⟩

end Sys2Proof.LoafTrack
end


-- ==== The loaf track, proofs: the trailing edge, the stop eye and the stray edges ====
section
/-! SUPPORT. The edges that measure and present a record, and the edges of the end eyes that find none (O16, O17, O20). -/

namespace Sys2Proof.LoafTrack

open Sys2Proof.Machine Sys2Proof.Safety Sys2Proof.Laws

/-! ## The record at the stop -/

/-- The admission test looks at no check of the record. -/
theorem AdmissionTested.rechecked {r : Loaf} {c : Option DistanceCheck} {s t : State} (h : AdmissionTested { r with check := c } s t) :
    AdmissionTested r s t := by
  have hp : Presented r s → Presented { r with check := c } s := fun h => ⟨h.moves, h.empty, h.home, h.covered, h.measured⟩
  have hq : Presented { r with check := c } s → Presented r s := fun h => ⟨h.moves, h.empty, h.home, h.covered, h.measured⟩
  have ha : ∀ m, AdmittedAs m { r with check := c } s t → AdmittedAs m r s t := fun m h =>
    ⟨h.aside, h.tag, h.pusher, h.record, h.cut, h.passed⟩
  refine ⟨fun k => h.waits (k.imp_left fun k e => k (hq e)), fun k => h.sweeps (hp k), fun k hs hc hu => ?_, fun k hs hu hc => ?_⟩
  · exact ha _ (h.noClean (hp k) hs hc hu)
  · exact ha _ (h.taken (hp k) hs hu hc)

theorem driveInput_beltRuns {f : Func} {b : Bool} {s : State} (h : BeltRuns s) : BeltRuns (driveInput f b s) := by
  unfold BeltRuns
  rw [faultEntry_of_sup (driveInput_sup f b s)]
  exact h

/-- A record that is the first of its tag and the oldest of its zone is, changed under its tag, the oldest of its zone. -/
theorem oldestIn_modifyLoaf {s : State} {z : Zone} {r : Loaf} {f : Loaf → Loaf} (ho : oldestIn s z = some r)
    (hf : findLoaf s r.tag = some r) (hz : (f r).zone = z) : oldestIn (modifyLoaf r.tag f s) z = some (f r) := by
  have hboth := find_oldest ho
  have e : modifyFirst (fun l => decide (l.tag = r.tag)) f s.track.loaves = modifyFirst (fun l => decide (l.zone = z)) f s.track.loaves :=
    (modifyFirst_test hf hboth fun x hx => (Bool.and_eq_true _ _ ▸ hx).1).trans
      (modifyFirst_test (show _ = some r from ho) hboth fun x hx => (Bool.and_eq_true _ _ ▸ hx).2).symm
  show (modifyFirst (fun l => decide (l.tag = r.tag)) f s.track.loaves).find? (fun l => decide (l.zone = z)) = some (f r)
  rw [e]
  exact modifyFirst_find ho (decide_eq_true hz)

theorem oldestIn_zone {s : State} {z : Zone} {r : Loaf} (h : oldestIn s z = some r) : r.zone = z := by
  simpa using List.find?_some h

/-! ## The trailing edge -/

/-- The record as its trailing edge leaves it. -/
abbrev measuredLoaf (s : State) (r : Loaf) : Loaf :=
  { r.measure s.track.beltCount s.track.geometry with check := arrivalCheck s r }

theorem heldLength_eq (n : Nat) : heldLength n = max 1 (min n 65535) := by
  unfold heldLength
  split <;> omega

/-- What the measurement leaves of the record: all but its length, mark and plan. -/
theorem measure_rest (r : Loaf) (b : Belt) (g : Geometry) : r.measure b g = { r with
    measured := some ⟨heldLength (b - r.leadCount).toNat, unitsOf (heldLength (b - r.leadCount).toNat) g.k⟩
    mark := (r.measure b g).mark
    plan := (r.measure b g).plan } := by
  unfold Loaf.measure
  simp only
  split
  · split <;> rfl
  · rfl

/-- A record without a snapshot, or with a mark, is neither banded nor planned. -/
theorem measure_plain {r : Loaf} (b : Belt) (g : Geometry) (h : r.snapshot = none ∨ r.mark ≠ none) :
    (r.measure b g).mark = r.mark ∧ (r.measure b g).plan = r.plan := by
  unfold Loaf.measure
  simp only
  split
  · rename_i hs hm
    rcases h with h | h
    · rw [hs] at h
      cases h
    · exact absurd hm h
  · exact ⟨rfl, rfl⟩

/-- The band test decides between a mark and a plan. -/
theorem measure_banded {r : Loaf} {sn : Snapshot} (b : Belt) (g : Geometry) (hs : r.snapshot = some sn) (hm : r.mark = none) :
    let lmm := unitsOf (heldLength (b - r.leadCount).toNat) g.k
    (lmm < sn.figures.minLength → (r.measure b g).mark = some .short ∧ (r.measure b g).plan = r.plan) ∧
      (sn.figures.minLength ≤ lmm → sn.figures.maxLength < lmm →
        (r.measure b g).mark = some .double ∧ (r.measure b g).plan = r.plan) ∧
      (sn.figures.minLength ≤ lmm → lmm ≤ sn.figures.maxLength →
        (r.measure b g).mark = none ∧ (r.measure b g).plan = some (planOf sn.figures lmm g.kp)) := by
  intro lmm
  have he : r.measure b g = match bandMark sn.figures lmm with
      | some m => { r with measured := some ⟨heldLength (b - r.leadCount).toNat, lmm⟩, mark := some m }
      | none => { r with measured := some ⟨heldLength (b - r.leadCount).toNat, lmm⟩, plan := some (planOf sn.figures lmm g.kp) } := by
    unfold Loaf.measure
    rw [hs, hm] <;> rfl
  refine ⟨fun h => ?_, fun h1 h2 => ?_, fun h1 h2 => ?_⟩
  · rw [he, show bandMark sn.figures lmm = some .short from if_pos h]
    exact ⟨rfl, rfl⟩
  · rw [he, show bandMark sn.figures lmm = some .double from (if_neg (Nat.not_lt.mpr h1)).trans (if_pos h2)]
    exact ⟨rfl, rfl⟩
  · rw [he, show bandMark sn.figures lmm = none from (if_neg (Nat.not_lt.mpr h1)).trans (if_neg (Nat.not_lt.mpr h2))]
    exact ⟨hm, rfl⟩

theorem fixLength_eq {r : Loaf} {s : State} (h : findLoaf s r.tag = some r) : fixLength r s =
    if foremost s r then testAdmission (modifyLoaf r.tag (fun _ => measuredLoaf s r) s)
    else modifyLoaf r.tag (fun _ => measuredLoaf s r) s := by
  unfold fixLength
  rw [show modifyLoaf r.tag (fun l => { l.measure s.track.beltCount s.track.geometry with check := arrivalCheck s r }) s =
    modifyLoaf r.tag (fun _ => measuredLoaf s r) s from congrArg (setLoaves · s) (modifyFirst_congr h rfl)]

/-- Under a clear stop eye the admission test waits. -/
theorem testAdmission_uncovered {s : State} (h : inputHigh s .stopEye = false) : testAdmission s = s := by
  unfold testAdmission
  rw [if_neg]
  unfold admissionOpen
  rw [h, Bool.and_false]
  exact Bool.false_ne_true

/-- Settles O16: the length, the band, the plan and the arrival check of the last record (R5, R11). -/
theorem trailingEdgeFixesLength : Obligations.TrailingEdgeFixesLength := by
  intro r s hf hlast hmeas hfind oldest
  have hstop : inputHigh (driveInput .infeedEye false s) .stopEye = inputHigh s .stopEye := inputHigh_driveInput (by decide) false s
  have htrack := driveInput_track .infeedEye false s
  have hbelt : BeltRuns s → BeltRuns (driveInput .infeedEye false s) := driveInput_beltRuns
  have hex : exec .infeedEyeTrailingEdge s = .next (finish (infeedTrailing (driveInput .infeedEye false s))) :=
    congrArg Host.Outcome.next (inputEdge_held hf)
  rw [hex]
  generalize driveInput .infeedEye false s = d at hstop htrack hbelt ⊢
  have hfd : findLoaf d r.tag = some r := by
    unfold findLoaf
    rw [htrack]
    exact hfind
  have hold : foremost d r = oldest := by
    unfold foremost oldestIn
    rw [htrack]
    rfl
  have hcheck : arrivalCheck d r = if oldest = true ∧ inputHigh s .stopEye = false then
      some ⟨.stop, (s.track.geometry.dStop + 200) * s.track.geometry.k / 100⟩ else none := by
    unfold arrivalCheck armedCheck
    rw [hold, hstop, htrack]
    cases oldest <;> cases inputHigh s .stopEye <;> rfl
  have hinf : infeedTrailing d = fixLength r d := by
    unfold infeedTrailing
    rw [htrack, hlast]
    exact if_pos (by rw [hmeas]; rfl)
  refine ⟨measuredLoaf d r, finish (fixLength r d), heldLength (s.track.beltCount - r.leadCount).toNat, _,
    congrArg _ (congrArg finish hinf), heldLength_eq _, rfl, ?_, fun h => ?_, fun sn hs hm => ?_, fun h => ?_,
    fun ho hc hb => ?_⟩
  · unfold measuredLoaf
    rw [hcheck, htrack]
    conv_lhs => rw [measure_rest]
    rfl
  · exact measure_plain _ _ h
  · have hband := measure_banded d.track.beltCount d.track.geometry hs hm
    rw [htrack] at hband
    unfold measuredLoaf
    rw [htrack]
    exact hband
  · rw [fixLength_eq hfd]
    by_cases hfore : foremost d r = true
    · have hclear : inputHigh (modifyLoaf r.tag (fun _ => measuredLoaf d r) d) .stopEye = false := by
        rcases h with h | h
        · exact hstop.trans h
        · rw [hold, h] at hfore
          cases hfore
      rw [if_pos hfore, testAdmission_uncovered hclear]
      exact finish_noticed _
    · rw [if_neg hfore]
      exact finish_noticed _
  · have hfore : foremost d r = true := by
      unfold foremost
      rw [show oldestIn d .infeed = some r by unfold oldestIn; rw [htrack]; exact ho]
      exact decide_eq_true rfl
    rw [fixLength_eq hfd, if_pos hfore]
    refine testAdmission_tested _ _ ?_ (hbelt hb)
    refine oldestIn_modifyLoaf (f := fun _ => measuredLoaf d r) ?_ hfd ?_
    · unfold oldestIn
      rw [htrack]
      exact ho
    · show (r.measure _ _).zone = _
      have hz : r.zone = .infeed := oldestIn_zone ho
      rw [measure_rest]
      exact hz

/-! ## The stop eye -/

/-- Settles O17: the arrival check is disarmed and the admission test made on the oldest INFEED record (R11, R62). -/
theorem stopEdgePresentsLoaf : Obligations.StopEdgePresentsLoaf := by
  intro r s hf ho hfind hb disarmed
  have htrack := driveInput_track .stopEye true s
  have hbelt : BeltRuns (driveInput .stopEye true s) := driveInput_beltRuns hb
  refine ⟨_, congrArg Host.Outcome.next (inputEdge_held hf), ?_⟩
  revert disarmed
  generalize driveInput .stopEye true s = d at htrack hbelt ⊢
  intro disarmed
  have hod : oldestIn d .infeed = some r := by
    unfold oldestIn
    rw [htrack]
    exact ho
  have hfd : findLoaf d r.tag = some r := by
    unfold findLoaf
    rw [htrack]
    exact hfind
  have hdis : disarmStop d = disarmed := by
    unfold disarmStop
    rw [hod]
    refine congrArg (setLoaves · d) (modifyFirst_congr hfd ?_)
    cases hc : r.check with
    | none =>
      show r = { r with check := if _ then none else none }
      rw [ite_self, ← hc]
    | some c =>
      show (if c.kind = .stop then _ else r) = { r with check := if decide (c.kind = .stop) = true then none else some c }
      by_cases hk : c.kind = .stop
      · rw [if_pos hk, if_pos (decide_eq_true hk)]
      · rw [if_neg hk, if_neg fun e => hk (of_decide_eq_true e), ← hc]
  show AdmissionTested r disarmed (finish (testAdmission (disarmStop d)))
  rw [hdis]
  have hz : r.zone = .infeed := oldestIn_zone ho
  exact AdmissionTested.rechecked (testAdmission_tested _ disarmed (oldestIn_modifyLoaf hod hfd hz) hbelt)

/-! ## The stray edges -/

theorem oldestIn_none_iff (s : State) (z : Zone) : oldestIn s z = none ↔ ∀ r ∈ s.track.loaves, r.zone ≠ z := by
  unfold oldestIn
  rw [List.find?_eq_none]
  simp only [decide_eq_true_eq, ne_eq]

theorem warn_track (w : WarnKind) (p : Bool) (s : State) : (warn w p s).track = s.track := (warn_noticed w p s).track

/-- An edge that changes the warning alone, to the end of its event. -/
theorem strayEdge_told {s d : State} (hs : d.sup = s.sup) (hl : d.link = s.link) (ht : d.track = s.track) :
    let t := finish (warn .strayEdge true d)
    t.track = s.track ∧ (warnEntry t .strayEdge).present = true ∧ (Listening s → (warnEntry s .strayEdge).present = false →
      (warnEntry t .strayEdge).indication = true ∧ Report.warning .strayEdge true ∈ t.link.queue) := by
  have hw : warnEntry d .strayEdge = warnEntry s .strayEdge := warnEntry_of_warnings (by rw [hs]) _
  have he : warnEntry (finish (warn .strayEdge true d)) .strayEdge = _ := (finish_warnEntry (by decide) _).trans (warn_entry .strayEdge true d)
  refine ⟨?_, ?_, fun hq hp => ⟨?_, ?_⟩⟩
  · exact (finish_noticed _).track.trans ((warn_track _ _ _).trans ht)
  · rw [he]
  · rw [he]
    show (if (warnEntry d .strayEdge).present = true then _ else (warnEntry d .strayEdge).indication || true) = true
    rw [hw, hp, if_neg Bool.false_ne_true, Bool.or_true]
  · exact Hears.finished (warn_hears (by rw [hw, hp]; nofun)) (by omega) (listening_of_link hl hq)

theorem driveInput_stray (f : Func) (b : Bool) (s : State) : let t := finish (warn .strayEdge true (driveInput f b s))
    t.track = s.track ∧ (warnEntry t .strayEdge).present = true ∧ (Listening s → (warnEntry s .strayEdge).present = false →
      (warnEntry t .strayEdge).indication = true ∧ Report.warning .strayEdge true ∈ t.link.queue) :=
  strayEdge_told (driveInput_sup f b s) (driveInput_link f b s) (driveInput_track f b s)

theorem oldestIn_driveInput (f : Func) (b : Bool) (s : State) (z : Zone) : oldestIn (driveInput f b s) z = oldestIn s z := by
  unfold oldestIn
  rw [driveInput_track]

/-- Settles O20: an edge of an end eye without a candidate is a stray edge, one with a candidate ends the warning (R17). -/
theorem strayEdges : Obligations.StrayEdges := by
  intro s strays
  refine ⟨fun eye hf => ?_, fun hf hz => ?_, fun hf hz => ?_⟩
  · refine ⟨_, congrArg Host.Outcome.next (inputEdge_held hf), ?_, fun hz => ?_, fun ⟨r, hr, hz⟩ => ?_⟩
    · exact (finish_noticed _).track.trans ((warn_track _ _ _).trans (driveInput_track _ _ _))
    · unfold endEyeLeading
      rw [oldestIn_driveInput, (oldestIn_none_iff s _).mpr hz]
      exact driveInput_stray _ _ s
    · have hsome : (oldestIn s (eyeZone eye)).isNone = false := by
        rw [Option.isNone_eq_false_iff, Option.isSome_iff_ne_none]
        exact fun e => (oldestIn_none_iff s _).mp e r hr hz
      unfold endEyeLeading
      rw [oldestIn_driveInput, hsome, finish_warnEntry (by decide), warn_entry]
  · refine ⟨_, congrArg Host.Outcome.next (inputEdge_held hf), ?_⟩
    unfold exitTrailing
    rw [oldestIn_driveInput, (oldestIn_none_iff s _).mpr hz]
    exact driveInput_stray _ _ s
  · refine ⟨_, congrArg Host.Outcome.next (inputEdge_held hf), ?_⟩
    unfold rejectTrailing
    rw [oldestIn_driveInput, (oldestIn_none_iff s _).mpr hz]
    exact driveInput_stray _ _ s

end Sys2Proof.LoafTrack
end


-- ==== The loaf track, proofs: the end eyes ====
section
/-! SUPPORT. The edges that take a loaf out of the track, to the hold, the end of DRAINING and the gate decision (O18, O19). -/

namespace Sys2Proof.LoafTrack

open Sys2Proof.Machine Sys2Proof.Safety Sys2Proof.Laws

/-! ## The hold after notices -/

theorem holdOwed_noticed {u w : State} (h : Noticed u w) : holdOwed w = holdOwed u := by
  unfold holdOwed
  rw [h.line, h.track]

theorem holdSet_noticed {u w : State} (h : Noticed u w) : Noticed (holdSet (holdOwed u) u) (holdSet (holdOwed w) w) := by
  rw [holdOwed_noticed h]
  refine ⟨?_, h.buffer, h.enables, h.answer⟩
  conv_lhs => rw [h.rest]
  rfl

theorem noticed_beltRuns {u w : State} (h : Noticed u w) (hb : BeltRuns u) : BeltRuns w := by
  unfold BeltRuns
  rw [(Noticed.calm h).entry]
  exact hb

theorem enterStopped_beltRuns {now : Bool} {u : State} (hb : BeltRuns u) : BeltRuns (enterStopped now u) := by
  unfold BeltRuns
  rw [(enterStopped_calm now u).entry]
  exact hb

/-! ## The end of DRAINING -/

/-- What the end of DRAINING leaves (R142). -/
structure StopsEmpty (s t : State) : Prop where
  line : t.sup.line = .stopped
  loaves : t.track.loaves = []
  shift : t.shift = s.shift
  hold : t.track.infeedHold = true
  knife : t.head.knife = false
  head : t.head.state ≠ .ejecting ∧ t.head.state ≠ .passing

theorem headStops_shift (s : State) : (headStops s).shift = s.shift := by
  obtain ⟨_, _, _, _, _, _, e⟩ := knifeTo_off s
  have hk : (knifeTo false s).shift = s.shift := by rw [e]
  unfold headStops
  simp only
  split <;> exact hk

/-- The head standing still drives no loaf out (R73). -/
theorem headStops_state (s : State) : (headStops s).head.state ≠ .ejecting ∧ (headStops s).head.state ≠ .passing := by
  unfold headStops
  simp only
  split
  case h_6 => exact ⟨nofun, nofun⟩
  case h_7 h => exact ⟨fun e => (nomatch h.symm.trans e), fun e => (nomatch h.symm.trans e)⟩
  case h_8 h => exact ⟨fun e => (nomatch h.symm.trans e), fun e => (nomatch h.symm.trans e)⟩
  case h_9 h => exact ⟨fun e => (nomatch h.symm.trans e), fun e => (nomatch h.symm.trans e)⟩
  all_goals exact ⟨nofun, nofun⟩

theorem stationStops_rest (x : Station) (s : State) : (stationStops x s).shift = s.shift ∧ (stationStops x s).head = s.head := by
  unfold stationStops
  simp only
  split <;> exact ⟨rfl, rfl⟩

theorem setLine_shift (l : LineState) (s : State) : (setLine l s).shift = s.shift := by
  unfold setLine
  rw [report_eq]
  rfl

theorem enterStopped_stops {s : State} (h : s.track.loaves = []) : StopsEmpty s (enterStopped false s) := by
  obtain ⟨_, hline, hhold⟩ := enterStopped_spec false s
  have hb := stationStops_rest .b (stationStops .a (headStops (setLine .stopped s)))
  have ha := stationStops_rest .a (headStops (setLine .stopped s))
  have hhead : (enterStopped false s).head = (headStops (setLine .stopped s)).head := hb.2.trans ha.2
  refine ⟨hline, ?_, ?_, hhold, ?_, ?_⟩
  · have e := (enterStopped_calm false s).loaves
    rw [h] at e
    exact List.map_eq_nil_iff.mp e
  · exact hb.1.trans (ha.1.trans ((headStops_shift _).trans (setLine_shift _ _)))
  · rw [hhead]
    exact (headStops_released _).knife
  · rw [hhead]
    exact headStops_state _

/-- The review of the hold on a line that stands on an empty track. -/
theorem StopsEmpty.reviewed {s t : State} (h : StopsEmpty s t) (hb : BeltRuns t) : StopsEmpty s (reviewHold t) := by
  have hh := reviewHold_hold t
  rw [holdOwed_still t (by rw [h.line]; nofun)] at hh
  rw [reviewHold_eq t hb] at hh ⊢
  exact ⟨h.line, h.loaves, h.shift, hh, h.knife, h.head⟩

theorem StopsEmpty.noticed {s t u : State} (h : StopsEmpty s t) (k : Noticed t u) : StopsEmpty s u :=
  ⟨k.line.trans h.line, by rw [k.track]; exact h.loaves, k.shift.trans h.shift, by rw [k.track]; exact h.hold,
    by rw [k.head]; exact h.knife, by rw [k.head]; exact h.head⟩

/-! ## What follows a removal -/

theorem trackEmpty_stays {s : State} (h : s.sup.line ≠ .draining ∨ s.track.loaves ≠ []) : trackEmpty s = s := by
  refine if_neg fun e => ?_
  obtain ⟨hl, hn⟩ := (Bool.and_eq_true _ _).mp e
  exact h.elim (fun k => k (of_decide_eq_true hl)) fun k => k (List.isEmpty_iff.mp hn)

theorem trackEmpty_stops {s : State} (h : s.sup.line = .draining) (hn : s.track.loaves = []) : trackEmpty s = enterStopped false s :=
  if_pos ((Bool.and_eq_true _ _).mpr ⟨decide_eq_true h, List.isEmpty_iff.mpr hn⟩)

theorem trackEmpty_beltRuns {u : State} (hb : BeltRuns u) : BeltRuns (trackEmpty u) := by
  unfold BeltRuns
  rw [(trackEmpty_calm u).entry]
  exact hb

theorem reviewHold_reacts {s : State} (hb : BeltRuns s) : Reacts 0 s (reviewHold s) := by
  rw [reviewHold_eq s hb]
  exact ⟨rfl, ⟨_, _, rfl⟩, Tells.of_link rfl 0⟩

/-- While records remain, or the line does not drain, a removal leads to the review of the hold alone. -/
theorem afterRemoval_stays {u w : State} (hw : Noticed u w) (hb : BeltRuns u) (h : u.sup.line ≠ .draining ∨ u.track.loaves ≠ []) :
    Noticed (holdSet (holdOwed u) u) (afterRemoval w) := by
  have he := hw.trans (evaluate_noticed .trackFull w)
  unfold afterRemoval
  rw [trackEmpty_stays (by rw [he.line, he.track]; exact h), reviewHold_eq _ (noticed_beltRuns he hb)]
  exact holdSet_noticed he

/-- The last record of a DRAINING line taken out stops the line (R142). -/
theorem afterRemoval_stops {u w : State} (hw : Noticed u w) (hb : BeltRuns u) (hl : u.sup.line = .draining) (hn : u.track.loaves = []) :
    StopsEmpty u (afterRemoval w) ∧ Hears (.line .stopped) 2 w (afterRemoval w) := by
  have he := hw.trans (evaluate_noticed .trackFull w)
  have hstop : trackEmpty (evaluate .trackFull w) = enterStopped false (evaluate .trackFull w) :=
    trackEmpty_stops (he.line.trans hl) (by rw [he.track]; exact hn)
  have hbe := noticed_beltRuns he hb
  unfold afterRemoval
  rw [hstop]
  refine ⟨?_, ?_⟩
  · obtain ⟨h1, h2, h3, h4, h5, h6⟩ := enterStopped_stops (s := evaluate .trackFull w) (by rw [he.track]; exact hn)
    exact StopsEmpty.reviewed ⟨h1, h2, h3.trans he.shift, h4, h5, h6⟩ (enterStopped_beltRuns hbe)
  · exact (evaluate_tells .trackFull w).hears ((enterStopped_hears _).trans (reviewHold_reacts (enterStopped_beltRuns hbe)).tells)

theorem afterRemoval_tells {w : State} (hb : BeltRuns w) : Tells 2 w (afterRemoval w) :=
  (evaluate_tells .trackFull w).trans <| (trackEmpty_reacts _).tells.trans
    (reviewHold_reacts (trackEmpty_beltRuns (noticed_beltRuns (evaluate_noticed .trackFull w) hb))).tells

theorem afterRemoval_record {w : State} (hb : BeltRuns w) : ∃ halts aborted, (afterRemoval w).shift =
    { w.shift with openRecord := { w.shift.openRecord with halts := halts, sweepsAborted := aborted } } := by
  obtain ⟨h, a, e⟩ := (Reacts.trans (trackEmpty_reacts (evaluate .trackFull w))
    (reviewHold_reacts (trackEmpty_beltRuns (noticed_beltRuns (evaluate_noticed .trackFull w) hb)))).record
  exact ⟨h, a, by rw [← (evaluate_noticed .trackFull w).shift]; exact e⟩

theorem afterRemoval_warnEntry {w : State} (hb : BeltRuns w) {v : WarnKind} (h : v ≠ .trackFull) :
    warnEntry (afterRemoval w) v = warnEntry w v := by
  have hr := reviewHold_reacts (trackEmpty_beltRuns (noticed_beltRuns (evaluate_noticed .trackFull w) hb))
  unfold afterRemoval
  rw [hr.warn, (trackEmpty_reacts _).warn]
  exact warn_other (fun e => h e.symm) _ w

/-! ## The exit eye -/

/-- The state in which a loaf has left by the exit eye and been counted. -/
abbrev bagged (r : Loaf) (s : State) : State :=
  removeLoaf r.tag s |> countShift (fun v => { v with
    bagged := raiseCount v.bagged 1
    lines := countLine r.key (fun l => { l with bagged := raiseCount l.bagged 1 }) v.lines })

/-- The two notices of a loaf that leaves the track: STRAY_EDGE ends, and the report. -/
abbrev takenNote (q : Report) (u : State) : State := report q (warn .strayEdge false u)

theorem takenNote_noticed (q : Report) (u : State) : Noticed u (takenNote q u) := (warn_noticed _ _ u).trans (report_noticed q _)

theorem takenNote_warning (q : Report) (u : State) : (warnEntry (takenNote q u) .strayEdge).present = false := by
  rw [(report_reacts q _).warn, warn_entry]

theorem takenNote_hears (q : Report) (u : State) : Hears q 2 u (takenNote q u) := (warn_tells _ _ u).hears (report_hears q _)

/-- A loaf that has been taken out and counted, to the hold and the end of DRAINING. -/
abbrev leaves (q : Report) (u : State) : State := afterRemoval (takenNote q u)

section
variable {q : Report} {u : State} (hb : BeltRuns u)
include hb

theorem takenNote_beltRuns : BeltRuns (takenNote q u) := noticed_beltRuns (takenNote_noticed q u) hb

theorem leaves_hears : Hears q 4 u (leaves q u) := (takenNote_hears q u).trans (afterRemoval_tells (takenNote_beltRuns hb))

theorem leaves_warning : (warnEntry (leaves q u) .strayEdge).present = false := by
  rw [afterRemoval_warnEntry (takenNote_beltRuns hb) (by decide), takenNote_warning]

theorem leaves_stays (h : u.sup.line ≠ .draining ∨ u.track.loaves ≠ []) : Noticed (holdSet (holdOwed u) u) (leaves q u) :=
  afterRemoval_stays (takenNote_noticed q u) hb h

theorem leaves_stops (hl : u.sup.line = .draining) (hn : u.track.loaves = []) :
    StopsEmpty u (leaves q u) ∧ Hears (.line .stopped) 4 u (leaves q u) := by
  obtain ⟨he, hh⟩ := afterRemoval_stops (takenNote_noticed q u) hb hl hn
  exact ⟨he, (takenNote_hears q u).toTells.hears hh⟩

theorem leaves_lines : (leaves q u).shift.openRecord.lines = u.shift.openRecord.lines := by
  obtain ⟨_, _, h⟩ := afterRemoval_record (takenNote_beltRuns (q := q) hb)
  rw [h, (takenNote_noticed q u).shift]

theorem leaves_tags : (leaves q u).track.loaves.map Loaf.tag = u.track.loaves.map Loaf.tag := by
  have h : (leaves q u).track.loaves.map unmarked = u.track.loaves.map unmarked := by
    have he := (takenNote_noticed q u).trans (evaluate_noticed .trackFull _)
    show (reviewHold _).track.loaves.map unmarked = _
    rw [reviewHold_eq _ (trackEmpty_beltRuns (noticed_beltRuns he hb))]
    exact (trackEmpty_calm _).loaves.trans (Noticed.calm he).loaves
  have e := congrArg (List.map Loaf.tag) h
  rw [List.map_map, List.map_map] at e
  exact e

end

theorem leaves_steady {q : Report} (hq : isEdge q = false) (u : State) : Steady u (leaves q u) :=
  (warn_steady _ _ u).trans ((report_steady q _ hq).trans (afterRemoval_steady _))

theorem beltRuns_of_sup {s u : State} (h : u.sup = s.sup) (hb : BeltRuns s) : BeltRuns u := by
  unfold BeltRuns
  rw [faultEntry_of_sup h]
  exact hb

/-- Settles O18: the oldest OUTFEED record leaves, is reported and counted (R15). -/
theorem exitEdgeBagsOldest : Obligations.ExitEdgeBagsOldest := by
  intro r s hf ho hb u
  have hd := driveInput_eq .exitEye false s
  have hu : u = bagged r (driveInput .exitEye false s) := by
    unfold u
    rw [hd]
    rfl
  have hsup : u.sup = s.sup := (congrArg State.sup hu).trans (driveInput_sup _ _ s)
  have hlisten := listening_of_link ((congrArg State.link hu).trans (driveInput_link _ _ s))
  have hbu : BeltRuns u := beltRuns_of_sup hsup hb
  have hexit : exitTrailing (driveInput .exitEye false s) = leaves (.done r.tag r.tie) u := by
    unfold exitTrailing
    rw [oldestIn_driveInput, ho, hu]
    rfl
  refine ⟨finish (leaves (.done r.tag r.tie) u), ?_, ?_, fun hs => ?_, fun h => ?_, fun hl hn => ?_⟩
  · rw [← hexit]
    exact congrArg Host.Outcome.next (inputEdge_held hf)
  · rw [finish_warnEntry (by decide), leaves_warning hbu]
  · exact Hears.finished (leaves_hears hbu) (by omega) (hlisten hs)
  · exact (leaves_stays hbu (by rw [hsup]; exact h)).trans (finish_noticed _)
  · obtain ⟨he, hh⟩ := leaves_stops (q := .done r.tag r.tie) hbu (by rw [hsup]; exact hl) hn
    have hfin := he.noticed (finish_noticed _)
    exact ⟨hfin.line, hfin.loaves, hfin.shift, hfin.hold, hfin.knife, fun hs => Hears.finished hh (by omega) (hlisten hs)⟩

/-! ## The gate decision and the eject -/

/-- What the gate decision and the eject leave: the tags in their order, the shift record, the flags and the link. -/
structure Routes (s t : State) : Prop where
  tags : t.track.loaves.map Loaf.tag = s.track.loaves.map Loaf.tag
  shift : t.shift = s.shift
  link : t.link = s.link

theorem Routes.refl (s : State) : Routes s s := ⟨rfl, rfl, rfl⟩

theorem Routes.trans {s t u : State} (h : Routes s t) (k : Routes t u) : Routes s u :=
  ⟨k.tags.trans h.tags, k.shift.trans h.shift, k.link.trans h.link⟩

theorem modifyFirst_tags (p : Loaf → Bool) (f : Loaf → Loaf) (hf : ∀ r, (f r).tag = r.tag) (ls : List Loaf) :
    (modifyFirst p f ls).map Loaf.tag = ls.map Loaf.tag := by
  induction ls with
  | nil => rfl
  | cons a as ih =>
    unfold modifyFirst
    split
    · rw [List.map_cons, List.map_cons, hf]
    · rw [List.map_cons, List.map_cons, ih]

theorem moveLoaf_routes (z : Zone) (n : Nat) (f : Loaf → Loaf) (hf : ∀ r, (f r).tag = r.tag) (s : State) : Routes s (moveLoaf z n f s) :=
  ⟨modifyFirst_tags _ f hf _, rfl, rfl⟩

theorem gateDecision_routes (s : State) : Routes s (gateDecision s) := by
  unfold gateDecision
  split
  · exact Routes.refl s
  split
  · exact Routes.refl s
  rename_i r _
  split
  · exact moveLoaf_routes .transfer r.tag (fun l => { l with zone := .reject, check := some (armedCheck s .reject) }) (fun _ => rfl) s
  split
  · exact Routes.refl s
  split
  · exact Routes.refl s
  · rename_i x _
    obtain ⟨h1, h2, h3⟩ := moveLoaf_routes .transfer r.tag (fun l => { l with zone := .station x, station := some x }) (fun _ => rfl) s
    exact ⟨h1, h2, h3⟩

theorem knifeTo_on_routes (s : State) : Routes s (knifeTo true s) := by
  unfold knifeTo
  split
  · exact Routes.refl s
  · rw [if_pos rfl]
    exact ⟨rfl, rfl, rfl⟩

theorem ejectLoaf_routes (s : State) : Routes s (ejectLoaf s) := by
  unfold ejectLoaf
  split
  · exact Routes.refl s
  · rename_i tag _
    obtain ⟨h1, h2, h3⟩ := moveLoaf_routes .slicer tag
      (fun r => { r with zone := .transfer, ejectCount := some s.track.beltCount }) (fun _ => rfl) s
    refine Routes.trans ?_ (gateDecision_routes _)
    simp only
    split
    · refine Routes.trans ?_ (knifeTo_on_routes _)
      exact ⟨h1, h2, h3⟩
    · exact ⟨h1, h2, h3⟩

theorem route_routes (s : State) : Routes s (route s) := by
  unfold route endStroke
  split
  · exact (gateDecision_routes s).trans (ejectLoaf_routes _)
  · exact gateDecision_routes s

/-- On an empty track, with no loaf driven out, there is nothing to route. -/
theorem StopsEmpty.route {s t : State} (h : StopsEmpty s t) : route t = t := by
  have hg : gateDecision t = t := by
    unfold gateDecision
    rw [oldestIn_nil h.loaves]
    exact ite_self t
  unfold Machine.route
  rw [hg]
  exact endStroke_stands h.head.1 h.head.2

/-! ## The reject eye -/

/-- The state in which a loaf has left by the reject eye and been counted. -/
abbrev rejectedLoaf (r : Loaf) (s : State) : State :=
  removeLoaf r.tag s |> countShift (fun v => { v with
    rejected := match r.mark with
      | some m => v.rejected.add m
      | none => v.rejected
    lines := countLine r.key (fun l => { l with rejected := raiseCount l.rejected 1 }) v.lines })

/-- The gate decision is taken again where the REJECT zone is left empty (R86). -/
abbrev rerouted (w : State) : State := if (oldestIn w .reject).isNone then route w else w

theorem rerouted_routes (w : State) : Routes w (rerouted w) := by
  unfold rerouted
  split
  · exact route_routes w
  · exact Routes.refl w

theorem rerouted_stays {w : State} {q : Loaf} (hq : q ∈ w.track.loaves) (hz : q.zone = .reject) : rerouted w = w :=
  if_neg fun e => (oldestIn_none_iff w _).mp (Option.isNone_iff_eq_none.mp e) q hq hz

/-- Settles O19: the oldest REJECT record leaves, is reported and counted under its mark (R16). -/
theorem rejectEdgeRejectsOldest : Obligations.RejectEdgeRejectsOldest := by
  intro r m s hf ho hm hb u
  have hd := driveInput_eq .rejectEye false s
  have hu : u = rejectedLoaf r (driveInput .rejectEye false s) := by
    unfold u rejectedLoaf
    rw [hm, hd]
    rfl
  have hsup : u.sup = s.sup := (congrArg State.sup hu).trans (driveInput_sup _ _ s)
  have hlisten := listening_of_link ((congrArg State.link hu).trans (driveInput_link _ _ s))
  have hbu : BeltRuns u := beltRuns_of_sup hsup hb
  have hreject : rejectTrailing (driveInput .rejectEye false s) = rerouted (leaves (.rejected r.tag (some m)) u) := by
    unfold rejectTrailing
    rw [oldestIn_driveInput, ho, hu, ← hm]
    rfl
  have hroutes := rerouted_routes (leaves (.rejected r.tag (some m)) u)
  refine ⟨finish (rerouted (leaves (.rejected r.tag (some m)) u)), ?_, ?_, ?_, ?_, fun hs => ?_, fun ⟨q, hq, hz⟩ => ?_, fun hl hn => ?_⟩
  · rw [← hreject]
    exact congrArg Host.Outcome.next (inputEdge_held hf)
  · have hs := leaves_steady (q := .rejected r.tag (some m)) rfl u
    exact ((Steady.ite (hs.trans (route_steady _)) hs).trans (finish_steady _)).aside
  · rw [(finish_noticed _).track, hroutes.tags, leaves_tags hbu]
  · rw [(finish_noticed _).shift, hroutes.shift, leaves_lines hbu]
  · exact Hears.finished ((leaves_hears hbu).trans (Tells.of_link hroutes.link 0)) (by omega) (hlisten hs)
  · have hstay := leaves_stays (q := .rejected r.tag (some m)) hbu (Or.inr (List.ne_nil_of_mem hq))
    rw [rerouted_stays (by rw [hstay.track]; exact hq) hz]
    exact hstay.trans (finish_noticed _)
  · obtain ⟨he, hh⟩ := leaves_stops (q := .rejected r.tag (some m)) hbu (by rw [hsup]; exact hl) hn
    have hsame : rerouted (leaves (.rejected r.tag (some m)) u) = leaves (.rejected r.tag (some m)) u := by
      unfold rerouted
      rw [he.route, ite_self]
    rw [hsame]
    have hfin := he.noticed (finish_noticed _)
    exact ⟨hfin.line, hfin.loaves, hfin.hold, hfin.knife, fun hs => Hears.finished hh (by omega) (hlisten hs)⟩

end Sys2Proof.LoafTrack
end


-- ==== The loaf track, proofs: the readings ====
section
/-! SUPPORT. What each reading answers, field by field (O58): the text forms of R180 and R186, then one lemma for each reading. -/

namespace Sys2Proof.LoafTrack

open Sys2Proof.Machine Sys2Proof.Safety Sys2Proof.Laws

/-! ## The text forms -/

/-- Parts each led by the separator, the first separator dropped, are the parts joined. -/
theorem joinWith_eq (c : Byte) (ts : List Text) : ((ts.map fun f => c :: f).flatten.drop 1 : Text) = joinWith c ts := by
  have h : ∀ (t : Text) (us : List Text), t ++ (us.map fun f => c :: f).flatten = joinWith c (t :: us) := fun t us => by
    induction us generalizing t with
    | nil => exact List.append_nil t
    | cons u us ih => exact congrArg (fun v => t ++ c :: v) (ih u)
  cases ts with
  | nil => rfl
  | cons t us => exact h t us

theorem codes_absent : codes "-" = absentText := by decide

theorem codes_flag (b : Bool) : codes (if b then "1" else "0") = flagText b := by cases b <;> decide

theorem optText_map {α β : Type} (g : β → Text) (f : α → β) (o : Option α) : optText g (o.map f) = optText (g ∘ f) o := by
  cases o <;> rfl

theorem getD_absent (o : Option Text) : o.getD (codes "-") = optText id o := by
  rw [codes_absent]
  cases o <;> rfl

theorem listText_eq (ts : List Text) :
    (if ts = [] then codes "-" else ((ts.map fun f => 0x2C :: f).flatten.drop 1 : Text)) = listText ts := by
  unfold listText
  rw [codes_absent, joinWith_eq]
  cases ts <;> rfl

theorem setText_eq (cs : List Channel) : (if cs = [] then codes "NONE" else ((cs.map fun c => decimal c.val).flatten : Text)) = setText cs := by
  unfold setText
  cases cs <;> rfl

/-! ## The alerts of a member -/

theorem memberFaults_eq (m : Member) :
    (allFaults.filter fun k => m = .bl340 || (k ≠ .station .b && k ≠ .clipsOut .b)) = memberFaults m := by cases m <;> decide

theorem memberWarnings_eq (m : Member) :
    (allWarnings.filter fun w => m = .bl340 || (w ≠ .bagsLow .b && w ≠ .bagsEmpty .b && w ≠ .clipsLow .b)) = memberWarnings m := by
  cases m <;> decide

/-- The bound limits with the channel of each and the name of what it drives. -/
abbrev boundRows : List (BoundLimit × Channel × String) := [(.knifeWarn, 0, "BLADE_DULL"), (.knifeFault, 0, "BLADE_OVERLOAD"),
  (.pusherFault, 1, "PUSHER_OVERLOAD"), (.bladeWarn, 2, "BLADE_WARM"), (.bladeFault, 2, "BLADE_HOT"), (.supplyWarn, 6, "SUPPLY_SAG"),
  (.supplyFault, 6, "SUPPLY_LOW"), (.boardFault, 7, "BOARD_HOT")]

theorem boundRows_eq : boundRows = allBounds.map fun b => (b, boundChannel b, alertText (boundDrives b)) := rfl

theorem boundNames_eq (s : State) (c : Channel) :
    ((boundRows.filter fun v => v.2.1 = c && s.meas.bounds[boundIndex v.1].present).map fun v => codes v.2.2) = boundNames s c := by
  rw [boundRows_eq, List.filter_map, List.map_map]
  rfl

/-! ## A request that reads -/

/-- A reading changes nothing, and is free to every caller. -/
theorem read_taken {o : State → Owed} {s : State} {r : Owed} (hf : Free s) (h : o s = r) :
    (Host.Outcome.next (serve (needTier .operator fun s => (s, o s)) s) : Result) = .next (answered r s) :=
  taken hf ((needTier_pass (operator_ok s)).trans (congrArg (Prod.mk s) h))

theorem headLoaf_cutsDone (s : State) :
    (s.head.tag.bind fun tag => (findLoaf s tag).bind fun r => r.cutsDone) = (headLoaf s).bind Loaf.cutsDone := by
  unfold headLoaf
  cases s.head.tag <;> rfl

/-- An unfitted tyer reads zero. -/
theorem tyerLine_eq (s : State) (x : Station) : [codes (stationText x), flagText (tyerFitted s x)] ++
    (if tyerFitted s x then [(tyerOf s x).spool, (tyerOf s x).settings.s, (tyerOf s x).settings.m, (tyerOf s x).settings.l,
      (tyerOf s x).settings.xl, (tyerOf s x).settings.strike].map decimal else List.replicate 6 (decimal 0)) ++
    [optText (fun _ => codes "STRIKING") (tyerOf s x).stage, flagText (tyerOf s x).clipsOut] = tyerLine s x := by
  unfold tyerLine
  cases tyerFitted s x <;> rfl

theorem channelFitted_iff (s : State) (c : Channel) : channelFitted s c.val = true ↔ ¬(s.member = .bl320 ∧ c = 5) := by
  unfold channelFitted
  rw [Fin.ext_iff]
  cases s.member <;> simp [stationFitted]

/-- Channel 5 of a BL-320 shows zero limits, and its deglitch count as stored. -/
theorem channelFields_eq (s : State) (c : Channel) :
    [decimal c.val, decimal s.meas.samples[c].value, decimal s.meas.samples[c].stamp.toNat, codes (samplePhaseText s.meas.samples[c].phase)] ++
    (if s.member = .bl320 ∧ c = 5 then List.replicate 4 (decimal 0) else [s.meas.limits[c].faultLow, s.meas.limits[c].warnLow,
      s.meas.limits[c].warnHigh, s.meas.limits[c].faultHigh].map decimal) ++
    [decimal s.meas.limits[c].deglitch, listText (boundNames s c)] = channelFields s c := by
  unfold channelFields
  by_cases h : s.member = .bl320 ∧ c = 5
  · rw [if_pos h]
    simp only
    rw [if_neg (fun e => (channelFitted_iff s c).mp e h)]
    rfl
  · rw [if_neg h]
    simp only
    rw [if_pos ((channelFitted_iff s c).mpr h)]
    rfl

theorem slotOf_val (i : Slot) : slotOf i.val = i := Fin.ofNat_val_eq_self i

/-- The reading of a slot that is out of range, EMPTY or VALID (R29). -/
theorem readRecipe_taken {s : State} (hf : Free s) (n : Nat) :
    (15 < n → exec (.readRecipe (some n)) s = .next (answered (refusal .range) s)) ∧
      ∀ i : Slot, i.val = n → exec (.readRecipe (some n)) s = .next (answered (match s.recipes.slots[i] with
        | none => refusal .noSuch
        | some r => accepted "READ RECIPE" (decimal n :: r.name :: figureFields (figuresRead s r.figures) ++
            [flagText r.locked, flagText (decide (s.recipes.runRecipe = some i))])) s) := by
  refine ⟨fun h => taken hf ?_, fun i hi => taken hf ?_⟩
  · unfold svcReadRecipe withForm
    exact require_fail (ok := fun _ => slotInRange n) (decide_eq_false (Nat.not_le.mpr h))
  · subst hi
    unfold svcReadRecipe withForm
    refine (require_pass (ok := fun _ => slotInRange i.val) (decide_eq_true (Nat.le_of_lt_succ i.isLt))).trans ?_
    refine (needTier_pass (operator_ok s)).trans ?_
    rw [slotOf_val, recipeAt_eq]
    cases s.recipes.slots[i] <;> rfl

/-- The reading of a place of the history that is out of range, empty or filled (R167). -/
theorem readHistory_taken {s : State} (hf : Free s) (n : Nat) :
    (7 < n → exec (.readHistory (some n)) s = .next (answered (refusal .range) s)) ∧
      (n ≤ 7 → exec (.readHistory (some n)) s = .next (answered (match s.shift.history[n]? with
        | none => refusal .noSuch
        | some c => multiLine "READ HISTORY" (recordHeader c.record ++ [decimal c.carriedOut, decimal c.closeTime,
            flagText c.closeClockSet, codes (causeText c.cause)]) (recordLines s.member c.record)) s)) := by
  refine ⟨fun h => taken hf ?_, fun h => taken hf ?_⟩
  · unfold svcReadHistory withForm
    exact require_fail (ok := fun _ => decide (n ≤ 7)) (decide_eq_false (Nat.not_le.mpr h))
  · unfold svcReadHistory withForm
    refine (require_pass (ok := fun _ => decide (n ≤ 7)) (decide_eq_true h)).trans ?_
    cases s.shift.history[n]? with
    | none => rfl
    | some c => exact needTier_pass (operator_ok s)

/-- READ POINTS uses up a free value of the model's, or none. -/
theorem trendRead_eq (s : State) : ∃ n, trendRead s = { s with fresh := n } := by
  unfold trendRead
  split <;> exact ⟨_, rfl⟩

theorem svcReadPoints_eq (s : State) : svcReadPoints (some ()) s =
    (trendRead s, multiLine "READ POINTS" [] ((List.finRange 24).map (pointFields s))) := by
  unfold svcReadPoints withForm
  exact needTier_pass (operator_ok s)

theorem reset_reply : (accepted "RESET" []).lines = [codes "=RESET"] := by decide

theorem svcReset_eq {s : State} (h : tierOk s .engineer = true) : svcReset (some ()) s = (s, ⟨[codes "=RESET"], true⟩) := by
  unfold svcReset withForm
  exact (needTier_pass h).trans (congrArg (fun ls => (s, (⟨ls, true⟩ : Owed))) reset_reply)

/-- Settles O58: each reading answers by its layout and changes nothing but what it is said to clear. -/
theorem readsAnswerAsTheStateStands : Obligations.ReadsAnswerAsTheStateStands := by
  unfold Obligations.ReadsAnswerAsTheStateStands
  intro joined line table or nat list flag time figures loaf bounds set header counts s hf onePart faults warnings
  have hjoined : joined = fields := funext fun fs => joinWith_eq 0x20 fs
  clear_value joined
  subst hjoined
  have hline : line = accepted := rfl
  have htable : table = multiLine := rfl
  have hor : or = optText id := funext getD_absent
  clear_value line table or
  subst hline htable hor
  have hnat : nat = optText decimal := funext fun o => optText_map id decimal o
  have hlist : list = listText := funext listText_eq
  have hflag : flag = flagText := funext codes_flag
  have htime : time = minuteText := rfl
  have hset : set = setText := funext setText_eq
  clear_value nat list flag time set
  subst hnat hlist hflag htime hset
  have hfaults : faults = memberFaults s.member := memberFaults_eq s.member
  have hwarnings : warnings = memberWarnings s.member := memberWarnings_eq s.member
  clear_value faults warnings
  subst hfaults hwarnings
  clear onePart
  have hloaf : loaf = loafFields := by
    funext r
    unfold loaf loafFields snapshotFields
    simp only [optText_map]
    cases r.snapshot <;> cases r.plan <;> rfl
  have hheader : header = recordHeader := by
    funext r
    unfold header recordHeader
    simp only [optText_map]
    rfl
  have hcounts : counts = recordLines := rfl
  clear_value loaf header counts
  subst hloaf hheader hcounts
  refine ⟨?_, ?_, ?_, ?_, ?_⟩
  · simp only [List.forall_mem_cons]
    refine ⟨?_, ?_, ?_, ?_, ?_, ?_, ?_, ?_, ?_, ?_, ?_, nofun⟩
    · exact read_taken hf rfl
    · refine read_taken hf ?_
      simp only [optText_map]
      rfl
    · refine read_taken hf ?_
      simp only [optText_map, headLoaf_cutsDone]
      rfl
    · exact read_taken hf rfl
    · refine read_taken hf ?_
      simp only [optText_map]
      exact congrArg (multiLine "READ TYERS" _) (List.map_congr_left fun x _ => (tyerLine_eq s x).symm)
    · refine read_taken hf ?_
      simp only [optText_map]
      rfl
    · refine read_taken hf ?_
      exact congrArg (multiLine "READ CHANNELS" _) (List.map_congr_left fun c _ =>
        (channelFields_eq s c).symm.trans (by rw [← boundNames_eq]))
    · refine read_taken hf ?_
      simp only [optText_map]
      rfl
    · exact read_taken hf rfl
    · exact read_taken hf rfl
    · exact read_taken hf rfl
  · intro n
    obtain ⟨hrange, hslot⟩ := readRecipe_taken hf n
    obtain ⟨hplace, hrecord⟩ := readHistory_taken hf n
    refine ⟨hrange, fun i hi hn => ?_, fun i r hi hr => ?_, hplace, fun h hn => ?_, fun c h hc => ?_⟩
    · rw [hslot i hi, hn]
    · rw [hslot i hi, hr]
      rfl
    · rw [hrecord h, List.getElem?_eq_none hn]
    · rw [hrecord h, hc]
  · refine taken hf ((needTier_pass (operator_ok s)).trans (congrArg (Prod.mk (clearIndications s)) ?_))
    unfold statusReply firstFaultFields
    rw [← codes_absent]
    cases s.sup.firstFault <;> rfl
  · obtain ⟨n, hn⟩ := trendRead_eq s
    simp only [optText_map]
    refine ⟨n, taken hf ?_⟩
    rw [svcReadPoints_eq, hn]
    rfl
  · exact fun ht => taken hf (svcReset_eq ht)

end Sys2Proof.LoafTrack
end


-- ==== The loaf track, proofs: a station on an empty track ====
section
/-! SUPPORT. What a station's operations do to it and to nothing else, on a track without records (O14, O60). -/

namespace Sys2Proof.LoafTrack

open Sys2Proof.Machine Sys2Proof.Safety Sys2Proof.Laws

/-! ## One station alone -/

/-- The counts of a station in the open shift record. -/
abbrev bagCounts (s : State) (x : Station) : StationCounts := s.shift.openRecord.stations.get x

/-- The state is the one before but for the stations' records, tyers and counts, measurement, the warning flags and the link. -/
def Aloof (s t : State) : Prop :=
  t = { s with
    stations := { s.stations with recs := t.stations.recs }
    tyers := t.tyers
    meas := t.meas
    sup := { s.sup with warnings := t.sup.warnings }
    shift := { s.shift with openRecord := { s.shift.openRecord with stations := t.shift.openRecord.stations } }
    link := t.link }

theorem Aloof.trans {s t u : State} (h : Aloof s t) (k : Aloof t u) : Aloof s u := by
  unfold Aloof at h k ⊢
  rw [k]
  conv => lhs; rw [h]

theorem noticed_aloof {s t : State} (h : Noticed s t) : Aloof s t := by
  unfold Aloof
  rw [h.rest]

/-- The masks of the warnings stand. -/
def Masks (s t : State) : Prop := ∀ w, (warnEntry t w).mask = (warnEntry s w).mask

theorem Masks.of_sup {s t : State} (h : t.sup = s.sup) : Masks s t := fun w => by
  unfold warnEntry
  rw [h]

theorem warn_masks (w : WarnKind) (p : Bool) (s : State) : Masks s (warn w p s) := fun v => by
  by_cases h : w = v
  · subst h
    rw [warn_entry]
  · rw [warn_other h]

/-- An event in the life of one station: its record, its tyer and its counts are those given, the other station's stand. -/
structure Becomes (x : Station) (r : StationRec) (k : Tyer) (c : StationCounts) (s t : State) : Prop where
  aloof : Aloof s t
  others : ∀ y, y ≠ x → stationRec t y = stationRec s y ∧ tyerOf t y = tyerOf s y ∧ bagCounts t y = bagCounts s y
  record : stationRec t x = r
  tyer : tyerOf t x = k
  counts : bagCounts t x = c
  masks : Masks s t

theorem Becomes.trans {x : Station} {r r' : StationRec} {k k' : Tyer} {c c' : StationCounts} {s t u : State}
    (h : Becomes x r k c s t) (j : Becomes x r' k' c' t u) : Becomes x r' k' c' s u := by
  refine ⟨h.aloof.trans j.aloof, fun y hy => ?_, j.record, j.tyer, j.counts, fun w => (j.masks w).trans (h.masks w)⟩
  obtain ⟨h1, h2, h3⟩ := h.others y hy
  obtain ⟨j1, j2, j3⟩ := j.others y hy
  exact ⟨j1.trans h1, j2.trans h2, j3.trans h3⟩

theorem Becomes.of_eq {x : Station} {r r' : StationRec} {k k' : Tyer} {c c' : StationCounts} {s t : State}
    (h : Becomes x r k c s t) (hr : r = r') (hk : k = k') (hc : c = c') : Becomes x r' k' c' s t := by
  subst hr hk hc
  exact h

/-- The station as it stands. -/
abbrev Stays (x : Station) (s t : State) : Prop := Becomes x (stationRec s x) (tyerOf s x) (bagCounts s x) s t

theorem Stays.refl (x : Station) (s : State) : Stays x s s := ⟨rfl, fun _ _ => ⟨rfl, rfl, rfl⟩, rfl, rfl, rfl, fun _ => rfl⟩

theorem evaluate_stays (w : WarnKind) (x : Station) (s : State) : Stays x s (evaluate w s) := by
  have h := evaluate_noticed w s
  have hs : ∀ y, stationRec (evaluate w s) y = stationRec s y := fun y => by
    unfold stationRec
    rw [h.stations]
  have hy : ∀ y, tyerOf (evaluate w s) y = tyerOf s y := fun y => by
    unfold tyerOf
    rw [h.tyers]
  have hc : ∀ y, bagCounts (evaluate w s) y = bagCounts s y := fun y => by
    unfold bagCounts
    rw [h.shift]
  exact ⟨noticed_aloof h, fun y _ => ⟨hs y, hy y, hc y⟩, hs x, hy x, hc x, warn_masks w _ s⟩

theorem setStation_becomes (x : Station) (r : StationRec) (s : State) : Becomes x r (tyerOf s x) (bagCounts s x) s (setStation x r s) := by
  refine ⟨rfl, fun y hy => ⟨?_, rfl, rfl⟩, stationRec_setStation_self x r s, rfl, rfl, Masks.of_sup rfl⟩
  rw [stationRec_setStation, Function.update_of_ne hy]

theorem setTyer_becomes (x : Station) (k : Tyer) (s : State) : Becomes x (stationRec s x) k (bagCounts s x) s (setTyer x k s) := by
  refine ⟨rfl, fun y hy => ⟨rfl, ?_, rfl⟩, rfl, tyerOf_setTyer_self x k s, rfl, Masks.of_sup rfl⟩
  rw [tyerOf_setTyer, Function.update_of_ne hy]

theorem countStation_becomes (x : Station) (f : StationCounts → StationCounts) (s : State) :
    Becomes x (stationRec s x) (tyerOf s x) (f (bagCounts s x)) s (countStation x f s) := by
  refine ⟨rfl, fun y hy => ⟨rfl, rfl, ?_⟩, rfl, rfl, ?_, Masks.of_sup rfl⟩
  · cases x <;> cases y <;> first | exact absurd rfl hy | rfl
  · cases x <;> rfl

theorem dropRequests_stays (who : Requester) (x : Station) (s : State) : Stays x s (dropRequests who s) :=
  ⟨rfl, fun _ _ => ⟨rfl, rfl, rfl⟩, rfl, rfl, rfl, Masks.of_sup rfl⟩

/-! ## What stands beside a station -/

section
variable {s t : State} (h : Aloof s t)
include h

theorem Aloof.track : t.track = s.track := by rw [h]
theorem Aloof.head : t.head = s.head := by rw [h]
theorem Aloof.crumb : t.crumb = s.crumb := by rw [h]
theorem Aloof.recipes : t.recipes = s.recipes := by rw [h]
theorem Aloof.points : t.points = s.points := by rw [h]
theorem Aloof.member : t.member = s.member := by rw [h]
theorem Aloof.line : t.sup.line = s.sup.line := by rw [h]
theorem Aloof.faults : t.sup.faults = s.sup.faults := by rw [h]
theorem Aloof.times : t.stations.times = s.stations.times := by rw [h]

theorem Aloof.pointFunction (p : PointNo) : pointFunction t p = pointFunction s p := by
  unfold Machine.pointFunction
  rw [h.points]

theorem Aloof.holder (f : Func) : holder t f = holder s f := by
  unfold Machine.holder
  simp only [h.pointFunction]

theorem Aloof.isHeld (f : Func) : isHeld t f = isHeld s f := by
  unfold Machine.isHeld
  rw [h.holder]

theorem Aloof.inputHigh (f : Func) : inputHigh t f = inputHigh s f := by
  unfold Machine.inputHigh
  rw [h.holder, h.points]

theorem Aloof.inService {x : Station} (hr : (stationRec t x).inServiceFlag = (stationRec s x).inServiceFlag) :
    inService t x = inService s x := by
  have hf : ∀ k, faultEntry t k = faultEntry s k := fun k => by
    unfold faultEntry
    rw [h.faults]
  unfold Machine.inService faultHold faultStands
  rw [h.member, hr, hf, hf]

end

/-! ## A draw on an empty track -/

/-- No record is on the track and no loaf in the context: there is nothing to route. -/
structure Clear (s : State) : Prop where
  loaves : s.track.loaves = []
  tag : s.head.tag = none

theorem Clear.aloof {s t : State} (h : Clear s) (k : Aloof s t) : Clear t := ⟨by rw [k.track]; exact h.loaves, by rw [k.head]; exact h.tag⟩

theorem Clear.route {s : State} (h : Clear s) : route s = s := route_bare (congrArg (List.map placeOf) h.loaves) h.tag

/-- The record of a station in OPENING after it has drawn, where a draw is due (R80, R81). -/
def drewRec (due eye : Bool) (timeout : Nat) (r : StationRec) : StationRec :=
  if due = false then r
  else if r.magazine = 0 then { r with state := .empty, attempt := none, held := false, bagTimer := none }
  else if eye then { r with state := .ready, magazine := r.magazine - 1, attempt := none, bagTimer := none }
  else { r with magazine := r.magazine - 1, attempt := some 1, bagTimer := some timeout }

/-- The counts of a station after it has drawn, where a draw is due. -/
def drewCounts (due : Bool) (magazine : Nat) (c : StationCounts) : StationCounts :=
  if due = true ∧ magazine ≠ 0 then { c with drawn := raiseCount c.drawn 1 } else c

theorem drewRec_none {eye : Bool} {timeout : Nat} {r : StationRec} (h : r.magazine = 0) :
    drewRec true eye timeout r = { r with state := .empty, attempt := none, held := false, bagTimer := none } :=
  (if_neg (by decide)).trans (if_pos h)

theorem drewRec_bag {eye : Bool} {timeout : Nat} {r : StationRec} (h : r.magazine ≠ 0) : drewRec true eye timeout r =
    if eye then { r with state := .ready, magazine := r.magazine - 1, attempt := none, bagTimer := none }
    else { r with magazine := r.magazine - 1, attempt := some 1, bagTimer := some timeout } :=
  (if_neg (by decide)).trans (if_neg h)

theorem drewCounts_bag {magazine : Nat} {c : StationCounts} (h : magazine ≠ 0) :
    drewCounts true magazine c = { c with drawn := raiseCount c.drawn 1 } := if_pos ⟨rfl, h⟩

theorem stationEmpties_becomes (x : Station) (s : State) : Becomes x
    { stationRec s x with state := .empty, attempt := none, held := false, bagTimer := none } (tyerOf s x) (bagCounts s x) s
    (stationEmpties x s) :=
  (setStation_becomes x _ s).trans ((evaluate_stays _ x _).of_eq (stationRec_setStation_self x _ s) rfl rfl)

theorem drawn_becomes (x : Station) (n : Nat) (s : State) :
    Becomes x (drawnRec s x n) (tyerOf s x) { bagCounts s x with drawn := raiseCount (bagCounts s x).drawn 1 } s (drawn s x n) := by
  have h1 := setStation_becomes x (drawnRec s x n) s
  have h2 := (countStation_becomes x (fun c => { c with drawn := raiseCount c.drawn 1 }) (setStation x (drawnRec s x n) s)).of_eq
    h1.record h1.tyer rfl
  exact (h1.trans h2).trans ((evaluate_stays _ x _).of_eq h2.record h2.tyer h2.counts)

theorem stationReady_becomes {x : Station} {s : State} (h : Clear s) : Becomes x
    { stationRec s x with state := .ready, attempt := none, bagTimer := none } (tyerOf s x) (bagCounts s x) s (stationReady x s) := by
  have hs := setStation_becomes x { stationRec s x with state := .ready, attempt := none, bagTimer := none } s
  unfold stationReady
  rw [(h.aloof hs.aloof).route]
  exact hs

theorem drawBag_becomes {x : Station} {s : State} (h : Clear s) : Becomes x
    (drewRec true (inputHigh s (.bagEye x)) s.stations.times.openTimeout (stationRec s x)) (tyerOf s x)
    (drewCounts true (stationRec s x).magazine (bagCounts s x)) s (drawBag x 1 s) := by
  have hd := drawn_becomes x 1 s
  rw [drawBag_eq, hd.aloof.inputHigh]
  by_cases hm : (stationRec s x).magazine = 0
  · rw [drewRec_none hm, if_pos hm]
    exact (stationEmpties_becomes x s).of_eq rfl rfl (if_neg fun e => e.2 hm).symm
  · rw [drewRec_bag hm, drewCounts_bag hm, if_neg hm]
    cases inputHigh s (.bagEye x) with
    | false => exact hd
    | true => exact hd.trans ((stationReady_becomes (h.aloof hd.aloof)).of_eq (by rw [hd.record]; rfl) hd.tyer hd.counts)

theorem tryDraw_becomes {x : Station} {s : State} (h : Clear s) : Becomes x
    (drewRec (drawDue s x) (inputHigh s (.bagEye x)) s.stations.times.openTimeout (stationRec s x)) (tyerOf s x)
    (drewCounts (drawDue s x) (stationRec s x).magazine (bagCounts s x)) s (tryDraw x s) := by
  unfold tryDraw
  cases drawDue s x with
  | false => exact Stays.refl x s
  | true => exact drawBag_becomes h

/-! ## The entry into OPENING and out of service -/

/-- The record of a station that has entered OPENING, before it draws (R80, R94). -/
def openingRec (halted : Bool) (r : StationRec) : StationRec :=
  { r with
    state := .opening, tag := none, attempt := none, held := r.held || halted
    bagTimer := none, travel := none, scoopTimer := none, releaseTimer := none }

/-- A station that enters OPENING draws: not held, the line not HALTED, both its functions held by points (R80). -/
def openDraws (s : State) (x : Station) : Bool :=
  !((stationRec s x).held || decide (s.sup.line = .halted)) && isHeld s (.bagEye x) && isHeld s (.blower x)

/-- The record of a station after its entry into OPENING. -/
abbrev openedRec (s : State) (x : Station) : StationRec :=
  drewRec (openDraws s x) (inputHigh s (.bagEye x)) s.stations.times.openTimeout
    (openingRec (decide (s.sup.line = .halted)) (stationRec s x))

theorem enterOpening_becomes {x : Station} {s : State} (h : Clear s) : Becomes x (openedRec s x) (tyerOf s x)
    (drewCounts (openDraws s x) (stationRec s x).magazine (bagCounts s x)) s (enterOpening x s) := by
  have h1 := setStation_becomes x (openingRec (decide (s.sup.line = .halted)) (stationRec s x)) s
  have h2 := h1.trans ((evaluate_stays (.bagsEmpty x) x _).of_eq h1.record h1.tyer h1.counts)
  have h3 := tryDraw_becomes (x := x) (h.aloof h2.aloof)
  have hdue : drawDue (evaluate (.bagsEmpty x) (setStation x (openingRec (decide (s.sup.line = .halted)) (stationRec s x)) s)) x =
      openDraws s x := by
    unfold drawDue openDraws
    rw [h2.record, h2.aloof.line, h2.aloof.isHeld, h2.aloof.isHeld]
    cases hl : decide (s.sup.line = .halted) with
    | true =>
      rw [Bool.or_true, show decide (s.sup.line ≠ .halted) = false from decide_eq_false (not_not.mpr (of_decide_eq_true hl))]
      simp
    | false =>
      rw [show decide (s.sup.line ≠ .halted) = true from decide_eq_true (of_decide_eq_false hl)]
      rfl
  rw [hdue, h2.aloof.inputHigh, h2.aloof.times, h2.record, h2.tyer, h2.counts] at h3
  exact h2.trans h3

/-- The record of a station out of service (R79). -/
def outRec (r : StationRec) : StationRec :=
  { r with
    state := .outOfService, tag := none, attempt := none, held := false, bagTimer := none, travel := none, scoopTimer := none
    releaseTimer := none }

theorem stationOut_becomes (x : Station) (s : State) :
    Becomes x (outRec (stationRec s x)) (tyerOf s x) (bagCounts s x) s (stationOut x s) :=
  (setStation_becomes x _ s).trans ((evaluate_stays _ x _).of_eq (stationRec_setStation_self x _ s) rfl rfl)

/-! ## Both stations in turn -/

/-- An operation made at both stations does to each what it does from what stands beside the stations. -/
theorem both_become {f : Station → State → State} {R : State → Station → StationRec} {K : State → Station → Tyer}
    {C : State → Station → StationCounts} (hf : ∀ x s, Clear s → Becomes x (R s x) (K s x) (C s x) s (f x s))
    (hs : ∀ x s t, Aloof s t → stationRec t x = stationRec s x → tyerOf t x = tyerOf s x → bagCounts t x = bagCounts s x →
      R t x = R s x ∧ K t x = K s x ∧ C t x = C s x) {s : State} (h : Clear s) :
    Aloof s (f .b (f .a s)) ∧ Masks s (f .b (f .a s)) ∧
      ∀ x, stationRec (f .b (f .a s)) x = R s x ∧ tyerOf (f .b (f .a s)) x = K s x ∧ bagCounts (f .b (f .a s)) x = C s x := by
  have ha := hf .a s h
  have hb := hf .b (f .a s) (h.aloof ha.aloof)
  refine ⟨ha.aloof.trans hb.aloof, fun w => (hb.masks w).trans (ha.masks w), fun x => ?_⟩
  cases x with
  | a =>
    obtain ⟨h1, h2, h3⟩ := hb.others .a nofun
    exact ⟨h1.trans ha.record, h2.trans ha.tyer, h3.trans ha.counts⟩
  | b =>
    obtain ⟨h1, h2, h3⟩ := ha.others .b nofun
    obtain ⟨e1, e2, e3⟩ := hs .b s (f .a s) ha.aloof h1 h2 h3
    exact ⟨hb.record.trans e1, hb.tyer.trans e2, hb.counts.trans e3⟩

end Sys2Proof.LoafTrack
end


-- ==== The loaf track, proofs: PURGE ====
section
/-! SUPPORT. PURGE clears the track and the context, and each station abandons its loaf (O14). -/

namespace Sys2Proof.LoafTrack

open Sys2Proof.Machine Sys2Proof.Safety Sys2Proof.Laws

/-! ## A station abandons its loaf -/

/-- The state in which a station has given up its loaf and its bag, before it opens or goes out of service (R95). -/
def gaveUp (x : Station) (s : State) : State :=
  wasteBag x s |> setStation x { stationRec s x with tag := none, held := false } |> cutStage x

/-- The tyer of a station whose stage has been cut short. -/
abbrev cutTyer (k : Tyer) : Tyer := { k with stage := none, codeHeld := none }

theorem gaveUp_becomes (x : Station) (s : State) : Becomes x { stationRec s x with tag := none, held := false } (cutTyer (tyerOf s x))
    { bagCounts s x with wasted := raiseCount (bagCounts s x).wasted 1 } s (gaveUp x s) := by
  have h1 := countStation_becomes x (fun c => { c with wasted := raiseCount c.wasted 1 }) s
  have h2 := h1.trans ((setStation_becomes x { stationRec s x with tag := none, held := false } (wasteBag x s)).of_eq rfl h1.tyer h1.counts)
  have h3 := h2.trans ((setTyer_becomes x (cutTyer (tyerOf s x)) _).of_eq h2.record rfl h2.counts)
  exact h3.trans ((dropRequests_stays (.station x) x _).of_eq h3.record h3.tyer h3.counts)

theorem stationAbandons_none {x : Station} {s : State} (h : (stationRec s x).tag = none) : stationAbandons x s = s := by
  unfold stationAbandons
  simp only
  rw [h]

theorem stationAbandons_some {x : Station} {s : State} (h : (stationRec s x).tag ≠ none) :
    stationAbandons x s = if inService s x then enterOpening x (gaveUp x s) else stationOut x (gaveUp x s) := by
  have hg := gaveUp_becomes x s
  have hs : inService (gaveUp x s) x = inService s x := hg.aloof.inService (by rw [hg.record])
  obtain ⟨n, hn⟩ := Option.ne_none_iff_exists'.mp h
  unfold stationAbandons
  simp only
  rw [hn, ← hs]
  rfl

/-- A station that opens after it has given up its loaf draws: the line not HALTED, both its functions held by points. -/
def purgeDraws (s : State) (x : Station) : Bool := !decide (s.sup.line = .halted) && isHeld s (.bagEye x) && isHeld s (.blower x)

/-- The record of a station after a PURGE. -/
def purgedRec (s : State) (x : Station) : StationRec :=
  if (stationRec s x).tag = none then stationRec s x
  else if inService s x then drewRec (purgeDraws s x) (inputHigh s (.bagEye x)) s.stations.times.openTimeout
    (openingRec (decide (s.sup.line = .halted)) { stationRec s x with tag := none, held := false })
  else outRec { stationRec s x with tag := none, held := false }

/-- The tyer of a station after a PURGE. -/
def purgedTyer (s : State) (x : Station) : Tyer := if (stationRec s x).tag = none then tyerOf s x else cutTyer (tyerOf s x)

/-- The counts of a station after a PURGE. -/
def purgedCounts (s : State) (x : Station) : StationCounts :=
  if (stationRec s x).tag = none then bagCounts s x
  else drewCounts (inService s x && purgeDraws s x) (stationRec s x).magazine
    { bagCounts s x with wasted := raiseCount (bagCounts s x).wasted 1 }

theorem stationAbandons_becomes {x : Station} {s : State} (h : Clear s) :
    Becomes x (purgedRec s x) (purgedTyer s x) (purgedCounts s x) s (stationAbandons x s) := by
  by_cases ht : (stationRec s x).tag = none
  · rw [stationAbandons_none ht]
    exact (Stays.refl x s).of_eq (if_pos ht).symm (if_pos ht).symm (if_pos ht).symm
  · have hg := gaveUp_becomes x s
    unfold purgedRec purgedTyer purgedCounts
    rw [stationAbandons_some ht, if_neg ht, if_neg ht, if_neg ht]
    cases hs : inService s x with
    | false =>
      exact hg.trans ((stationOut_becomes x _).of_eq (by rw [hg.record]; rfl) hg.tyer hg.counts)
    | true =>
      have hdraws : openDraws (gaveUp x s) x = purgeDraws s x := by
        unfold openDraws purgeDraws
        rw [hg.record, hg.aloof.line, hg.aloof.isHeld, hg.aloof.isHeld, Bool.false_or]
      refine hg.trans ((enterOpening_becomes (h.aloof hg.aloof)).of_eq ?_ hg.tyer ?_)
      · unfold openedRec
        rw [hdraws, hg.aloof.inputHigh, hg.aloof.times, hg.aloof.line, hg.record]
        rfl
      · rw [hdraws, hg.record, hg.counts]
        rfl

/-- What a PURGE makes of a station depends on the station and on what stands beside the stations. -/
theorem purged_aloof {x : Station} {s t : State} (h : Aloof s t) (hr : stationRec t x = stationRec s x) (hk : tyerOf t x = tyerOf s x)
    (hc : bagCounts t x = bagCounts s x) :
    purgedRec t x = purgedRec s x ∧ purgedTyer t x = purgedTyer s x ∧ purgedCounts t x = purgedCounts s x := by
  have hs : inService t x = inService s x := h.inService (by rw [hr])
  have hd : purgeDraws t x = purgeDraws s x := by
    unfold purgeDraws
    rw [h.line, h.isHeld, h.isHeld]
  refine ⟨?_, ?_, ?_⟩
  · unfold purgedRec
    rw [hr, hs, hd, h.inputHigh, h.times, h.line]
  · unfold purgedTyer
    rw [hr, hk]
  · unfold purgedCounts
    rw [hr, hs, hd, hc]

/-- Both stations abandon their loaves. -/
abbrev bothAbandon (s : State) : State := stationAbandons .b (stationAbandons .a s)

theorem bothAbandon_spec {s : State} (h : Clear s) : Aloof s (bothAbandon s) ∧ ∀ x, stationRec (bothAbandon s) x = purgedRec s x ∧
    tyerOf (bothAbandon s) x = purgedTyer s x ∧ bagCounts (bothAbandon s) x = purgedCounts s x := by
  obtain ⟨ha, _, hx⟩ := both_become (f := stationAbandons) (fun _ _ => stationAbandons_becomes) (fun _ _ _ => purged_aloof) h
  exact ⟨ha, hx⟩

theorem purgedRec_tag (s : State) (x : Station) : (purgedRec s x).tag = none := by
  unfold purgedRec
  split
  · assumption
  split
  · unfold drewRec openingRec
    repeat' split
    all_goals rfl
  · rfl

/-! ## The station's record, case by case -/

section
variable {s : State} {x : Station} (ht : (stationRec s x).tag ≠ none)
include ht

theorem purgedCounts_wasted : (purgedCounts s x).wasted = min ((bagCounts s x).wasted + 1) 4294967295 := by
  unfold purgedCounts drewCounts
  rw [if_neg ht]
  split <;> rfl

theorem purgedRec_out (hs : inService s x = false) : (purgedRec s x).state = .outOfService ∧ (purgedRec s x).held = false := by
  unfold purgedRec
  rw [if_neg ht, hs]
  exact ⟨rfl, rfl⟩

theorem purgedRec_halted (hs : inService s x = true) (hl : s.sup.line = .halted) :
    (purgedRec s x).state = .opening ∧ (purgedRec s x).held = true ∧ (purgedRec s x).attempt = none := by
  unfold purgedRec purgeDraws
  rw [if_neg ht, if_pos hs, hl]
  exact ⟨rfl, rfl, rfl⟩

theorem purgedRec_stopped (hs : inService s x = true) (hl : s.sup.line = .stopped) :
    purgedRec s x = drewRec (isHeld s (.bagEye x) && isHeld s (.blower x)) (inputHigh s (.bagEye x)) s.stations.times.openTimeout
      (openingRec false { stationRec s x with tag := none, held := false }) := by
  unfold purgedRec purgeDraws
  rw [if_neg ht, if_pos hs, hl]
  rfl

theorem purgedRec_free (hs : inService s x = true) (hl : s.sup.line = .stopped) : (purgedRec s x).held = false := by
  rw [purgedRec_stopped ht hs hl]
  unfold drewRec openingRec
  repeat' split
  all_goals rfl

theorem purgedRec_waits (hs : inService s x = true) (hl : s.sup.line = .stopped) (hh : ¬(Held s (.bagEye x) ∧ Held s (.blower x))) :
    (purgedRec s x).state = .opening ∧ (purgedRec s x).attempt = none := by
  rw [purgedRec_stopped ht hs hl, show (isHeld s (.bagEye x) && isHeld s (.blower x)) = false by
    rw [← Bool.not_eq_true, Bool.and_eq_true]
    exact hh]
  exact ⟨rfl, rfl⟩

theorem purgedRec_empties (hs : inService s x = true) (hl : s.sup.line = .stopped) (hh : Held s (.bagEye x) ∧ Held s (.blower x))
    (hm : (stationRec s x).magazine = 0) : (purgedRec s x).state = .empty := by
  rw [purgedRec_stopped ht hs hl, (Bool.and_eq_true _ _).mpr hh, drewRec_none (r := openingRec false { stationRec s x with tag := none, held := false }) hm]

theorem purgedRec_draws (hs : inService s x = true) (hl : s.sup.line = .stopped) (hh : Held s (.bagEye x) ∧ Held s (.blower x))
    (hm : 1 ≤ (stationRec s x).magazine) : (purgedRec s x).magazine = (stationRec s x).magazine - 1 ∧
      (purgedCounts s x).drawn = min ((bagCounts s x).drawn + 1) 4294967295 ∧
      (inputHigh s (.bagEye x) = true → (purgedRec s x).state = .ready) ∧
      (inputHigh s (.bagEye x) = false → (purgedRec s x).state = .opening ∧ (purgedRec s x).attempt = some 1) := by
  have hd : (isHeld s (.bagEye x) && isHeld s (.blower x)) = true := (Bool.and_eq_true _ _).mpr hh
  have hm' : ¬(stationRec s x).magazine = 0 := Nat.one_le_iff_ne_zero.mp hm
  rw [purgedRec_stopped ht hs hl, hd, drewRec_bag (r := openingRec false { stationRec s x with tag := none, held := false }) hm']
  refine ⟨?_, ?_, fun h => ?_, fun h => ?_⟩
  · split <;> rfl
  · unfold purgedCounts purgeDraws
    rw [if_neg ht, hs, hl, Bool.true_and, Bool.and_assoc, hd]
    exact congrArg StationCounts.drawn (drewCounts_bag hm')
  · rw [h]
    rfl
  · rw [h]
    exact ⟨rfl, rfl⟩

end

/-! ## The line that stands -/

/-- An empty context stays so, whatever stops the line. -/
theorem enterHalted_empty {s : State} (h : s.head.state = .empty) :
    (enterHalted s).head.state = .empty ∧ (enterHalted s).head.tag = s.head.tag := by
  obtain ⟨_, _, hhead, _⟩ := stationsHalt_spec (headHalts (countShift (fun r => { r with halts := raiseCount r.halts 1 }) (setLine .halted s)))
  obtain ⟨_, _, habort, _⟩ := abortSweep_spec (stationHalts .b (stationHalts .a
    (headHalts (countShift (fun r => { r with halts := raiseCount r.halts 1 }) (setLine .halted s)))))
  have he : (enterHalted s).head = (headHalts (countShift (fun r => { r with halts := raiseCount r.halts 1 }) (setLine .halted s))).head :=
    habort.trans hhead
  have hs : (countShift (fun r => { r with halts := raiseCount r.halts 1 }) (setLine .halted s)).head = s.head :=
    (setLine_spec .halted s).1
  rw [he]
  generalize countShift (fun r => { r with halts := raiseCount r.halts 1 }) (setLine .halted s) = u at hs
  obtain ⟨_, _, _, _, _, _, hk⟩ := knifeTo_off u
  have hstate : (knifeTo false u).head.state = .empty := by
    rw [hk]
    exact (congrArg Head.state hs).trans h
  have htag : (knifeTo false u).head.tag = s.head.tag := by
    rw [hk]
    show u.head.tag = _
    rw [hs]
  unfold headHalts
  simp only
  rw [hstate]
  exact ⟨hstate, htag⟩

/-- The review of the hold of a line that stands, over an empty context. -/
theorem reviewHold_empty {s : State} (hl : s.sup.line ≠ .running) (h : s.head.state = .empty) :
    (reviewHold s).head.state = .empty ∧ (reviewHold s).head.tag = s.head.tag := by
  have hact : ∀ (a : Action) (t : State), t.sup.line ≠ .running → t.head.state = .empty →
      (applyToLine a t).head.state = .empty ∧ (applyToLine a t).head.tag = t.head.tag := fun a t hl h => by
    unfold applyToLine
    split
    · split
      · exact ⟨h, rfl⟩
      · exact enterHalted_empty h
    · rw [if_neg hl]
      exact ⟨h, rfl⟩
    · exact ⟨h, rfl⟩
  have hset : (settleBelt (assertHold s)).head.state = .empty ∧ (settleBelt (assertHold s)).head.tag = s.head.tag := by
    unfold settleBelt
    simp only
    split
    · have hf := faultMoves_flagged .beltStall .latched (assertHold s)
      obtain ⟨h1, h2⟩ := hact (faultEntry (faultMoves .beltStall .latched (assertHold s)) .beltStall).action
        (faultMoves .beltStall .latched (assertHold s)) (by rw [hf.line]; exact hl) (by rw [hf.head]; exact h)
      exact ⟨h1, h2.trans (congrArg Head.tag hf.head)⟩
    · exact ⟨h, rfl⟩
  unfold reviewHold
  split
  · exact hset
  · exact ⟨h, rfl⟩
  · exact ⟨h, rfl⟩

theorem reviewHold_stands (s : State) : Stands s (reviewHold s) := by
  unfold reviewHold
  split
  · exact settleBelt_stands (assertHold s)
  · exact Stands.refl s
  · exact Stands.refl s

theorem reviewHold_raised (s : State) : Raised s (reviewHold s) := by
  unfold reviewHold
  split
  · exact Raised.trans (Raised.of_calm (assertHold_calm s)) (settleBelt_raised _)
  · exact Raised.of_calm (releaseHold_calm s)
  · exact Raised.of_calm (Calm.refl s)

theorem trySweep_crumb (s : State) : ∃ c, trySweep s = s.setCrumb c := by
  unfold trySweep
  split
  · exact ⟨_, rfl⟩
  · exact ⟨s.crumb, rfl⟩

/-! ## The track is purged -/

/-- The state in which the records are counted lost and the context is cleared (R21, R57). -/
def cleared (s : State) : State :=
  setLoaves [] s
    |> countShift (fun r => { r with lost := raiseCount r.lost s.track.loaves.length })
    |> (fun u => u.setHead u.head.emptied)

/-- The state after the stations have abandoned their loaves, the line standing and the hold not yet reviewed. -/
def abandoned (s : State) : State := evaluate .trackFull (bothAbandon (cleared s))

/-- The start test of a sweep that a context newly EMPTY makes (R117). -/
def maySweep (s w : State) : State := if s.head.state = .empty then w else trySweep w

theorem purgeTrack_eq {s : State} (h : s.sup.line = .stopped ∨ s.sup.line = .halted) :
    purgeTrack s = evaluate .noStation (maySweep s (reviewHold (abandoned s))) := by
  have hline : (abandoned s).sup.line = s.sup.line :=
    (evaluate_noticed _ _).line.trans (bothAbandon_spec (s := cleared s) ⟨rfl, rfl⟩).1.line
  have hstay : trackEmpty (abandoned s) = abandoned s := trackEmpty_stays (Or.inl (by rw [hline]; rcases h with h | h <;> rw [h] <;> nofun))
  show evaluate .noStation (maySweep s (reviewHold (trackEmpty (abandoned s)))) = _
  rw [hstay]

theorem maySweep_crumb (s w : State) : ∃ c, maySweep s w = w.setCrumb c := by
  unfold maySweep
  split
  · exact ⟨w.crumb, rfl⟩
  · exact trySweep_crumb w

theorem svcPurge_taken {s : State} (ht : tierOk s .setter = true) (h : s.sup.line = .stopped ∨ s.sup.line = .halted) :
    svcPurge (some ()) s = (purgeTrack s, accepted "PURGE" [decimal s.track.loaves.length]) := by
  unfold svcPurge withForm
  refine (needTier_pass ht).trans (require_pass (ok := fun s => decide (s.sup.line = .stopped) || decide (s.sup.line = .halted)) ?_)
  rcases h with h | h <;> rw [h] <;> rfl

theorem svcPurge_moving {s : State} (ht : tierOk s .setter = true) (h : s.sup.line = .running ∨ s.sup.line = .draining) :
    svcPurge (some ()) s = (s, refusal .state) := by
  unfold svcPurge withForm
  refine (needTier_pass ht).trans (require_fail (ok := fun s => decide (s.sup.line = .stopped) || decide (s.sup.line = .halted)) ?_)
  rcases h with h | h <;> rw [h] <;> rfl

/-- What stands before the hold is reviewed. -/
theorem abandoned_spec (s : State) : Aloof (cleared s) (abandoned s) ∧ ∀ x, stationRec (abandoned s) x = purgedRec s x ∧
    tyerOf (abandoned s) x = purgedTyer s x ∧ bagCounts (abandoned s) x = purgedCounts s x := by
  obtain ⟨h, k⟩ := bothAbandon_spec (s := cleared s) ⟨rfl, rfl⟩
  have hn := evaluate_noticed .trackFull (bothAbandon (cleared s))
  refine ⟨h.trans (noticed_aloof hn), fun x => ?_⟩
  obtain ⟨h1, h2, h3⟩ := k x
  have he := evaluate_stays .trackFull x (bothAbandon (cleared s))
  exact ⟨he.record.trans h1, he.tyer.trans h2, he.counts.trans h3⟩

/-- What PURGE leaves whatever BELT_STALL does (R21). -/
theorem purgeTrack_spec {s : State} (h : s.sup.line = .stopped ∨ s.sup.line = .halted) : let t := purgeTrack s
    t.track.loaves = [] ∧ t.track.nextTag = s.track.nextTag ∧ t.track.infeedHold = true ∧
      t.shift.openRecord.lost = min (s.shift.openRecord.lost + s.track.loaves.length) 4294967295 ∧ t.head.state = .empty ∧
      t.head.tag = none ∧ (∀ x, (stationRec t x).tag = none) ∧ t.recipes = s.recipes := by
  intro t
  obtain ⟨ha, hx⟩ := abandoned_spec s
  have hline : (abandoned s).sup.line ≠ .running := by
    rw [ha.line]
    show s.sup.line ≠ _
    rcases h with h | h <;> rw [h] <;> nofun
  have hhold := reviewHold_hold (abandoned s)
  rw [holdOwed_still _ hline] at hhold
  have hempty := reviewHold_empty hline (by rw [ha.head]; rfl)
  have hraised := reviewHold_raised (abandoned s)
  have hstands := reviewHold_stands (abandoned s)
  have haside := (reviewHold_steady (abandoned s)).aside
  obtain ⟨c, hc⟩ := maySweep_crumb s (reviewHold (abandoned s))
  have ht : t = evaluate .noStation ((reviewHold (abandoned s)).setCrumb c) := (purgeTrack_eq h).trans (congrArg _ hc)
  have hn := evaluate_noticed .noStation ((reviewHold (abandoned s)).setCrumb c)
  rw [← ht] at hn
  refine ⟨?_, ?_, ?_, ?_, ?_, ?_, fun x => ?_, ?_⟩
  · rw [hn.track]
    have e := hraised.loaves
    rw [ha.track] at e
    exact List.map_eq_nil_iff.mp e
  · rw [hn.track]
    exact hraised.nextTag.trans (by rw [ha.track]; rfl)
  · rw [hn.track]
    exact hhold
  · rw [hn.shift]
    refine (congrArg LoafCounts.lost haside.counts).trans ?_
    rw [ha]
    rfl
  · rw [hn.head]
    exact hempty.1
  · rw [hn.head]
    exact hempty.2.trans (by rw [ha.head]; rfl)
  · have hs : stationRec t x = stationRec (reviewHold (abandoned s)) x := by
      unfold stationRec
      rw [hn.stations]
      rfl
    rw [hs, (hstands x).2, (hx x).1, purgedRec_tag]
  · rw [hn.recipes]
    exact haside.recipes.trans (by rw [ha.recipes]; rfl)

/-- What PURGE leaves of the line, the context and the stations where BELT_STALL is not ACTIVE (R57, R95). -/
theorem purgeTrack_stations {s : State} (h : s.sup.line = .stopped ∨ s.sup.line = .halted) (hb : BeltRuns s) : let t := purgeTrack s
    t.sup.line = s.sup.line ∧ t.head = s.head.emptied ∧ ∀ x, stationRec t x = purgedRec s x ∧ tyerOf t x = purgedTyer s x ∧
      bagCounts t x = purgedCounts s x := by
  intro t
  obtain ⟨ha, hx⟩ := abandoned_spec s
  have hbe : BeltRuns (abandoned s) := by
    unfold BeltRuns faultEntry
    rw [ha.faults]
    exact hb
  obtain ⟨c, hc⟩ := maySweep_crumb s (reviewHold (abandoned s))
  have ht : t = evaluate .noStation ((reviewHold (abandoned s)).setCrumb c) := (purgeTrack_eq h).trans (congrArg _ hc)
  rw [reviewHold_eq _ hbe] at ht
  have hn := evaluate_noticed .noStation ((holdSet (holdOwed (abandoned s)) (abandoned s)).setCrumb c)
  rw [← ht] at hn
  refine ⟨hn.line.trans (ha.line.trans rfl), hn.head.trans (ha.head.trans rfl), fun x => ?_⟩
  obtain ⟨h1, h2, h3⟩ := hx x
  have hs := evaluate_stays .noStation x ((holdSet (holdOwed (abandoned s)) (abandoned s)).setCrumb c)
  rw [← ht] at hs
  exact ⟨hs.record.trans h1, hs.tyer.trans h2, hs.counts.trans h3⟩

/-- Settles O14: PURGE empties the track, the context and the stations, and is refused while the line moves. -/
theorem purgeEmptiesTrack : Obligations.PurgeEmptiesTrack := by
  intro s hf ht
  refine ⟨fun h => ?_, fun h => taken hf (svcPurge_moving ht h)⟩
  obtain ⟨h1, h2, h3, h4, h5, h6, h7, h8⟩ := purgeTrack_spec h
  refine ⟨purgeTrack s, taken hf (svcPurge_taken ht h), h1, h2, h3, h4, h5, h6, h7, h8, fun hb => ?_⟩
  obtain ⟨hline, hhead, hx⟩ := purgeTrack_stations h hb
  refine ⟨hline, hhead, fun x => ?_⟩
  intro rec' counted held
  obtain ⟨hr, hk, hc⟩ := hx x
  have hc' : (purgeTrack s).shift.openRecord.stations.get x = purgedCounts s x := hc
  rw [hr, hk, hc']
  refine ⟨fun hn => ⟨if_pos hn, if_pos hn, if_pos hn⟩, fun hn => ?_⟩
  refine ⟨?_, purgedCounts_wasted hn, purgedRec_out hn, purgedRec_halted hn, fun hs hl => ⟨purgedRec_free hn hs hl, purgedRec_waits hn hs hl,
    purgedRec_empties hn hs hl, purgedRec_draws hn hs hl⟩⟩
  unfold purgedTyer
  rw [if_neg hn]

end Sys2Proof.LoafTrack
end


-- ==== The loaf track, proofs: what the owners present after a reset ====
section
/-! SUPPORT. The warnings and conditions presented once a reset has given the blocks their values, and POWER_ON (O59). -/

namespace Sys2Proof.LoafTrack

open Sys2Proof.Machine Sys2Proof.Safety Sys2Proof.Laws

/-! ## The warnings presented -/

theorem warnCondition_noticed {s t : State} (h : Noticed s t) (w : WarnKind) : warnCondition t w = warnCondition s w := by
  rw [h.rest]
  rfl

/-- The entry of a warning that is present and indicated exactly where its condition holds. -/
abbrev presentedEntry (s : State) (mask : WarnKind → Bool) (w : WarnKind) : WarnEntry := ⟨warnCondition s w, warnCondition s w, mask w⟩

/-- Every warning is presented or absent, and those for which `done` holds are presented. -/
def Presenting (s : State) (mask : WarnKind → Bool) (done : WarnKind → Prop) (t : State) : Prop :=
  Noticed s t ∧ ∀ w, (warnEntry t w = ⟨false, false, mask w⟩ ∧ ¬done w) ∨ warnEntry t w = presentedEntry s mask w

theorem warn_presents {w : WarnKind} {b m : Bool} {t : State} (h : warnEntry t w = ⟨false, false, m⟩ ∨ warnEntry t w = ⟨b, b, m⟩) :
    warnEntry (warn w b t) w = ⟨b, b, m⟩ := by
  rw [warn_entry]
  rcases h with h | h
  · rw [h]
    cases b <;> rfl
  · rw [h]
    exact congrArg (fun i => (⟨b, i, m⟩ : WarnEntry)) (if_pos rfl)

theorem evaluate_presents {s t : State} {mask : WarnKind → Bool} {done : WarnKind → Prop} (w : WarnKind) (h : Presenting s mask done t) :
    Presenting s mask (fun v => v = w ∨ done v) (evaluate w t) := by
  refine ⟨h.1.trans (evaluate_noticed w t), fun v => ?_⟩
  by_cases hv : w = v
  · subst hv
    refine Or.inr ?_
    unfold evaluate
    rw [warnCondition_noticed h.1]
    exact warn_presents ((h.2 w).imp_left And.left)
  · rw [show warnEntry (evaluate w t) v = warnEntry t v from warn_other hv _ t]
    exact (h.2 v).imp_left fun ⟨he, hd⟩ => ⟨he, fun k => k.elim (fun e => hv e.symm) hd⟩

theorem foldl_presents {s : State} {mask : WarnKind → Bool} (ws : List WarnKind) : ∀ {done : WarnKind → Prop} {t : State},
    Presenting s mask done t → Presenting s mask (fun v => v ∈ ws ∨ done v) (ws.foldl (fun t w => evaluate w t) t) := by
  induction ws with
  | nil => exact fun h => ⟨h.1, fun w => (h.2 w).imp_left fun ⟨he, hd⟩ => ⟨he, fun k => k.elim nofun hd⟩⟩
  | cons w ws ih =>
    intro done t h
    obtain ⟨hn, hw⟩ := ih (evaluate_presents w h)
    refine ⟨hn, fun v => (hw v).imp_left fun ⟨he, hd⟩ => ⟨he, fun k => hd ?_⟩⟩
    rcases k with k | k
    · rcases List.mem_cons.mp k with k | k
      · exact Or.inr (Or.inl k)
      · exact Or.inl k
    · exact Or.inr (Or.inr k)

/-- A warning that the member does not have has no condition. -/
theorem warnCondition_absent {s : State} {w : WarnKind} (h : w ∉ memberWarnings s.member) : warnCondition s w = false := by
  have hw : ¬warnExists s.member w = true := fun e => h (List.mem_filter.mpr ⟨by rcases w with _ | _ | _ | _ | x | x | _ | x | _ | _ | _ | _ | _ | _ <;>
    (try cases x) <;> decide, e⟩)
  rw [Bool.not_eq_true] at hw
  cases w with
  | bagsLow x => exact (Bool.and_eq_false_iff.mpr (Or.inl hw))
  | bagsEmpty x => exact (Bool.and_eq_false_iff.mpr (Or.inl hw))
  | clipsLow x => exact (Bool.and_eq_false_iff.mpr (Or.inl (Bool.and_eq_false_iff.mpr (Or.inl hw))))
  | _ => cases hw

/-- The owners present their warnings. -/
abbrev presentWarnings (s : State) : State := (memberWarnings s.member).foldl (fun t w => evaluate w t) s

/-- From none present, each warning is presented and indicated where its condition holds (R154). -/
theorem presentWarnings_spec {s : State} {mask : WarnKind → Bool} (h : ∀ w, warnEntry s w = ⟨false, false, mask w⟩) :
    Noticed s (presentWarnings s) ∧ ∀ w, warnEntry (presentWarnings s) w = presentedEntry s mask w := by
  obtain ⟨hn, hw⟩ := foldl_presents (s := s) (mask := mask) (done := fun _ => False) (memberWarnings s.member) (t := s)
    ⟨Noticed.refl s, fun w => Or.inl ⟨h w, not_false⟩⟩
  refine ⟨hn, fun w => ?_⟩
  rcases hw w with ⟨he, hd⟩ | he
  · unfold presentedEntry
    rw [he, warnCondition_absent fun k => hd (Or.inl k)]
  · exact he

/-! ## The conditions presented -/

theorem present_eq (s : State) : present s = transmit (reviewTray (reviewGuard (presentWarnings s))) := rfl

/-- With neither condition there, nothing follows the warnings. -/
theorem reviewGuard_quiet {s : State} (hc : guardCondition s = false) (hf : (faultEntry s .guardOpen).state ≠ .active) :
    reviewGuard s = s := by
  unfold reviewGuard
  rw [hc]
  exact setCondition_absent hf

theorem reviewTray_quiet {s : State} (hc : inputHigh s .trayFull = false) (hf : (faultEntry s .trayFull).state ≠ .active) :
    reviewTray s = s := by
  unfold reviewTray
  simp only
  rw [hc, setCondition_absent hf]
  cases sweepsSuspended s <;> rfl

theorem holder_none {s : State} (h : ∀ p : PointNo, s.points[p].mode = .input) (f : Func) : holder s f = none := by
  refine List.find?_eq_none.mpr fun p _ => ?_
  unfold pointFunction
  rw [h p]
  nofun

theorem isHeld_none {s : State} (h : ∀ p : PointNo, s.points[p].mode = .input) (f : Func) : isHeld s f = false := by
  unfold isHeld
  rw [holder_none h]
  rfl

theorem inputHigh_none {s : State} (h : ∀ p : PointNo, s.points[p].mode = .input) (f : Func) : inputHigh s f = false := by
  unfold inputHigh
  rw [holder_none h]

/-- Where no point holds a function and no fault stands ACTIVE, a reset presents its warnings alone. -/
theorem present_quiet {s : State} {mask : WarnKind → Bool} (h : ∀ w, warnEntry s w = ⟨false, false, mask w⟩)
    (hp : ∀ p : PointNo, s.points[p].mode = .input) (hf : ∀ k, (faultEntry s k).state ≠ .active) :
    Noticed s (present s) ∧ ∀ w, warnEntry (present s) w = presentedEntry s mask w := by
  obtain ⟨hn, hw⟩ := presentWarnings_spec h
  rw [present_eq]
  generalize presentWarnings s = v at hn hw
  have hp' : ∀ p : PointNo, v.points[p].mode = .input := fun p => by
    rw [hn.points]
    exact hp p
  have hf' : ∀ k, (faultEntry v k).state ≠ .active := fun k => by
    rw [(Noticed.calm hn).entry]
    exact hf k
  have hguard : guardCondition v = false := by
    unfold guardCondition
    rw [isHeld_none hp']
    rfl
  rw [reviewGuard_quiet hguard (hf' _), reviewTray_quiet (inputHigh_none hp' _) (hf' _)]
  exact ⟨hn.trans (transmit_noticed v), hw⟩

/-! ## POWER_ON -/

theorem allFaults_faultIndex (k : FaultKind) : allFaults.getD (faultIndex k).val .guardOpen = k := by
  rcases k with _ | _ | _ | _ | _ | _ | _ | _ | _ | _ | _ | x | x | _ | _ | _ | _ <;> (try cases x) <;> rfl

/-- The state that POWER_ON sets, before the owners present their warnings. -/
def poweredOn (p : Straps) (s : State) : State :=
  { s with
    options := Options.ofStraps s.member p
    track := Track.powerOn
    recipes := Recipes.powerOn
    head := Head.powerOn s.head.park s.head.phaseInput
    stations := Stations.powerOn
    tyers := ⟨Tyer.powerOn, Tyer.powerOn⟩
    crumb := Crumb.powerOn
    meas := Meas.powerOn
    sup := Supervision.powerOn s.member
    shift := Shift.powerOn
    points := s.points.map Point.lineReset
    link := Link.powerOn }

theorem poweredOn_fault (p : Straps) (s : State) (k : FaultKind) :
    faultEntry (poweredOn p s) k = ⟨.inactive, defaultAction s.member k, 0, none, none, false⟩ := by
  show (faultsPowerOn s.member)[faultIndex k] = _
  unfold faultsPowerOn
  rw [Fin.getElem_fin, Vector.getElem_ofFn]
  simp only [allFaults_faultIndex]

theorem poweredOn_point (p : Straps) (s : State) (q : PointNo) : (poweredOn p s).points[q] = Point.lineReset s.points[q] := by
  show (s.points.map Point.lineReset)[q] = _
  rw [Fin.getElem_fin, Vector.getElem_map]
  rfl

theorem poweredOn_warn (p : Straps) (s : State) (w : WarnKind) : warnEntry (poweredOn p s) w = ⟨false, false, false⟩ := by
  show (Vector.replicate 17 (⟨false, false, false⟩ : WarnEntry))[warnIndex w] = _
  rw [Fin.getElem_fin, Vector.getElem_replicate]

theorem stationRec_poweredOn (p : Straps) (s : State) (x : Station) : stationRec (poweredOn p s) x = StationRec.powerOn := by
  cases x <;> rfl

theorem tyerOf_poweredOn (p : Straps) (s : State) (x : Station) : tyerOf (poweredOn p s) x = Tyer.powerOn := by
  cases x <;> rfl

/-- The warnings that stand after POWER_ON: those of the fitted stations and tyers, which are empty. -/
theorem poweredOn_condition (p : Straps) (s : State) (w : WarnKind) : warnCondition (poweredOn p s) w = true ↔
    ∃ x, stationFitted s.member x = true ∧
      (w = .bagsLow x ∨ w = .bagsEmpty x ∨ (w = .clipsLow x ∧ (poweredOn p s).options.tyers.get x = true)) := by
  cases w with
  | bagsLow x =>
    have h : warnCondition (poweredOn p s) (.bagsLow x) = stationFitted s.member x := by
      show (stationFitted s.member x && decide ((stationRec (poweredOn p s) x).magazine ≤ Config.bagsLowAt)) = _
      rw [stationRec_poweredOn]
      exact Bool.and_true _
    rw [h]
    exact ⟨fun h => ⟨x, h, Or.inl rfl⟩, fun ⟨y, hy, e⟩ => by rcases e with e | e | ⟨e, _⟩ <;> cases e; exact hy⟩
  | bagsEmpty x =>
    have h : warnCondition (poweredOn p s) (.bagsEmpty x) = stationFitted s.member x := by
      show (stationFitted s.member x && decide ((stationRec (poweredOn p s) x).state = .empty)) = _
      rw [stationRec_poweredOn]
      exact Bool.and_true _
    rw [h]
    exact ⟨fun h => ⟨x, h, Or.inr (Or.inl rfl)⟩, fun ⟨y, hy, e⟩ => by rcases e with e | e | ⟨e, _⟩ <;> cases e; exact hy⟩
  | clipsLow x =>
    have h : warnCondition (poweredOn p s) (.clipsLow x) = (stationFitted s.member x && (poweredOn p s).options.tyers.get x) := by
      show (tyerFitted (poweredOn p s) x && decide ((tyerOf (poweredOn p s) x).spool ≤
        Config.clipsLowAt * (tyerOf (poweredOn p s) x).settings.m)) = _
      rw [tyerOf_poweredOn]
      exact Bool.and_true _
    rw [h, Bool.and_eq_true]
    refine ⟨fun ⟨h, k⟩ => ⟨x, h, Or.inr (Or.inr ⟨rfl, k⟩)⟩, fun ⟨y, hy, e⟩ => ?_⟩
    rcases e with e | e | ⟨e, k⟩ <;> cases e
    exact ⟨hy, k⟩
  | keyInvalid =>
    have h : warnCondition (poweredOn p s) .keyInvalid = false := by
      show keyInvalidCondition _ = _
      unfold keyInvalidCondition keysAssigned
      rw [isHeld_none (fun q => by rw [poweredOn_point]; rfl)]
      rfl
    rw [h]
    exact ⟨nofun, fun ⟨y, hy, e⟩ => by rcases e with e | e | ⟨e, _⟩ <;> cases e⟩
  | _ => exact ⟨fun h => absurd (show false = true from h) Bool.false_ne_true, fun ⟨y, hy, e⟩ => by rcases e with e | e | ⟨e, _⟩ <;> cases e⟩

/-- Settles O59: every block has its power-on values, and the warnings of the empty stations and tyers are presented. -/
theorem powerOnSetsEveryBlock : Obligations.PowerOnSetsEveryBlock := by
  intro p s
  obtain ⟨hn, hw⟩ := present_quiet (mask := fun _ => false) (poweredOn_warn p s) (fun q => by rw [poweredOn_point]; rfl)
    (fun k => by rw [poweredOn_fault]; nofun)
  refine ⟨poweredOn p s, present (poweredOn p s), rfl, hn, rfl, rfl, rfl, ?_, rfl, rfl, rfl, stationRec_poweredOn p s, rfl, rfl, rfl, rfl,
    tyerOf_poweredOn p s, rfl, rfl, rfl, rfl, rfl, rfl, poweredOn_fault p s, fun w => ⟨_, hw w, poweredOn_condition p s w⟩, rfl,
    poweredOn_point p s, rfl⟩
  cases hm : s.member <;> simp [poweredOn, Options.ofStraps, hm, stationFitted]

end Sys2Proof.LoafTrack
end


-- ==== The loaf track, proofs: the stations at a warm reset ====
section
/-! SUPPORT. What a warm reset counts, and how a station restarts after it (O60). -/

namespace Sys2Proof.LoafTrack

open Sys2Proof.Machine Sys2Proof.Safety Sys2Proof.Laws

/-! ## The counts -/

theorem wasteHeld_becomes (x : Station) (s : State) : Becomes x (stationRec s x) (tyerOf s x)
    (if stationFitted s.member x && holdsBag (stationRec s x) then
      { bagCounts s x with wasted := raiseCount (bagCounts s x).wasted 1 } else bagCounts s x) s (wasteHeld x s) := by
  unfold wasteHeld
  split
  · exact countStation_becomes x (fun c => { c with wasted := raiseCount c.wasted 1 }) s
  · exact Stays.refl x s

theorem wasteHeld_eq (x : Station) (s : State) : ∃ v, wasteHeld x s =
    { s with shift := { s.shift with openRecord := { s.shift.openRecord with stations := v } } } := by
  unfold wasteHeld
  split
  · exact ⟨_, rfl⟩
  · exact ⟨s.shift.openRecord.stations, rfl⟩

/-- The record with the lost loaves and the aborted sweep of a warm reset counted in. -/
abbrev warmRecord (s : State) (v : PerStation StationCounts) : ShiftRecord :=
  { s.shift.openRecord with
    lost := raiseCount s.shift.openRecord.lost s.track.loaves.length
    sweepsAborted := if s.crumb.sweep.isSome then raiseCount s.shift.openRecord.sweepsAborted 1 else s.shift.openRecord.sweepsAborted
    stations := v }

/-- The lost loaves and the aborted sweep counted, the bags not yet. -/
abbrev lostCounted (s : State) : State :=
  countShift (fun r => { r with
    lost := raiseCount r.lost s.track.loaves.length
    sweepsAborted := if s.crumb.sweep.isSome then raiseCount r.sweepsAborted 1 else r.sweepsAborted }) s

/-- A warm reset counts into the open record, and that alone. -/
theorem warmCounts_eq (s : State) : ∃ v, warmCounts s = { s with shift := { s.shift with openRecord := warmRecord s v } } := by
  obtain ⟨v, hv⟩ := wasteHeld_eq .a (lostCounted s)
  obtain ⟨w, hw⟩ := wasteHeld_eq .b (wasteHeld .a (lostCounted s))
  refine ⟨w, Eq.trans (show warmCounts s = wasteHeld .b (wasteHeld .a (lostCounted s)) from rfl) (hw.trans ?_)⟩
  rw [hv]
  rfl

theorem warmCounts_bags (s : State) (x : Station) :
    bagCounts (warmCounts s) x = if stationFitted s.member x && holdsBag (stationRec s x) then
      { bagCounts s x with wasted := raiseCount (bagCounts s x).wasted 1 } else bagCounts s x := by
  have ha := wasteHeld_becomes .a (lostCounted s)
  have hb := wasteHeld_becomes .b (wasteHeld .a (lostCounted s))
  cases x with
  | a => exact (hb.others .a nofun).2.2.trans ha.counts
  | b =>
    obtain ⟨h1, _, h3⟩ := ha.others .b nofun
    refine hb.counts.trans ?_
    rw [h1, h3, ha.aloof.member]
    rfl

/-! ## The restart of a station -/

/-- The record of a station after its restart, from the record that a warm reset leaves it. -/
def restartRec (s : State) (x : Station) : StationRec :=
  if stationFitted s.member x = false then stationRec s x
  else if (stationRec s x).inServiceFlag = false then outRec (stationRec s x)
  else if (stationRec s x).magazine = 0 then { stationRec s x with state := .empty, attempt := none, held := false, bagTimer := none }
  else openedRec s x

/-- The counts of a station after its restart. -/
def restartCounts (s : State) (x : Station) : StationCounts :=
  drewCounts (stationFitted s.member x && (stationRec s x).inServiceFlag && openDraws s x) (stationRec s x).magazine (bagCounts s x)

theorem drewCounts_idle {due : Bool} {magazine : Nat} {c : StationCounts} (h : due = false ∨ magazine = 0) : drewCounts due magazine c = c :=
  if_neg fun e => h.elim (fun k => Bool.false_ne_true (k.symm.trans e.1)) e.2

theorem restartStation_becomes (x : Station) (s : State) (h : Clear s) :
    Becomes x (restartRec s x) (tyerOf s x) (restartCounts s x) s (restartStation x s) := by
  unfold restartStation restartRec restartCounts
  cases hm : stationFitted s.member x with
  | false => exact (Stays.refl x s).of_eq rfl rfl (drewCounts_idle (Or.inl rfl)).symm
  | true =>
    cases hi : (stationRec s x).inServiceFlag with
    | false => exact (stationOut_becomes x s).of_eq rfl rfl (drewCounts_idle (Or.inl rfl)).symm
    | true =>
      by_cases hz : (stationRec s x).magazine = 0
      · simp only [if_pos hz]
        exact (stationEmpties_becomes x s).of_eq rfl rfl (drewCounts_idle (Or.inr hz)).symm
      · simp only [if_neg hz]
        exact enterOpening_becomes h

theorem restart_aloof (x : Station) (s t : State) (h : Aloof s t) (hr : stationRec t x = stationRec s x) (hk : tyerOf t x = tyerOf s x)
    (hc : bagCounts t x = bagCounts s x) :
    restartRec t x = restartRec s x ∧ tyerOf t x = tyerOf s x ∧ restartCounts t x = restartCounts s x := by
  have hd : openDraws t x = openDraws s x := by
    unfold openDraws
    rw [hr, h.line, h.isHeld, h.isHeld]
  refine ⟨?_, hk, ?_⟩
  · unfold restartRec openedRec
    rw [hr, hd, h.member, h.inputHigh, h.times, h.line]
  · unfold restartCounts
    rw [hr, hc, hd, h.member]

/-- Both stations restart. -/
abbrev restartBoth (s : State) : State := restartStation .b (restartStation .a s)

theorem restartBoth_spec {s : State} (h : Clear s) : Aloof s (restartBoth s) ∧ Masks s (restartBoth s) ∧
    ∀ x, stationRec (restartBoth s) x = restartRec s x ∧ tyerOf (restartBoth s) x = tyerOf s x ∧
      bagCounts (restartBoth s) x = restartCounts s x :=
  both_become restartStation_becomes restart_aloof h

/-! ## Measurement stands -/

theorem stationEmpties_meas (x : Station) (s : State) : (stationEmpties x s).meas = s.meas := (evaluate_noticed _ _).meas

theorem stationOut_meas (x : Station) (s : State) : (stationOut x s).meas = s.meas := (evaluate_noticed _ _).meas

theorem drawBag_meas {x : Station} {s : State} (h : Clear s) : (drawBag x 1 s).meas = s.meas := by
  have hd : (drawn s x 1).meas = s.meas := (evaluate_noticed _ _).meas
  have hc : Clear (setStation x { stationRec (drawn s x 1) x with state := .ready, attempt := none, bagTimer := none } (drawn s x 1)) :=
    h.aloof ((drawn_becomes x 1 s).aloof.trans rfl)
  rw [drawBag_eq]
  split
  · exact stationEmpties_meas x s
  split
  · unfold stationReady
    rw [hc.route]
    exact hd
  · exact hd

theorem enterOpening_meas {x : Station} {s : State} (h : Clear s) : (enterOpening x s).meas = s.meas := by
  have hn := evaluate_noticed (.bagsEmpty x) (setStation x (openingRec (decide (s.sup.line = .halted)) (stationRec s x)) s)
  have ht : ∀ t, Clear t → (tryDraw x t).meas = t.meas := fun t ht => by
    unfold tryDraw
    split
    · exact drawBag_meas ht
    · rfl
  exact (ht _ ⟨(congrArg Track.loaves hn.track).trans h.loaves, (congrArg Head.tag hn.head).trans h.tag⟩).trans hn.meas

theorem restartStation_meas {x : Station} {s : State} (h : Clear s) : (restartStation x s).meas = s.meas := by
  unfold restartStation
  repeat' split
  · exact stationEmpties_meas x s
  · exact enterOpening_meas h
  · exact stationOut_meas x s
  · rfl

theorem restartBoth_meas {s : State} (h : Clear s) : (restartBoth s).meas = s.meas :=
  (restartStation_meas (h.aloof (restartStation_becomes .a s h).aloof)).trans (restartStation_meas h)

end Sys2Proof.LoafTrack
end


-- ==== The loaf track, proofs: conditions presented over a resting line ====
section
/-! SUPPORT. What GUARD_OPEN and TRAY_FULL, present once a reset is settled, do to a line that stands (R94, R146, R154; O60). -/

namespace Sys2Proof.LoafTrack

open Sys2Proof.Machine Sys2Proof.Safety Sys2Proof.Laws

/-! ## An idle link -/

/-- Nothing received, owed or to be answered; reports may wait or be sent. -/
structure Idle (e : Enables) (l : Link) : Prop where
  buffer : l.buffer = []
  silence : l.silence = false
  owed : l.owed = none
  answer : l.pendingAnswer = none
  enables : l.enables = e

theorem push_idle {e : Enables} {l : Link} (r : Report) (h : Idle e l) : Idle e (l.push r) := by
  obtain ⟨h1, h2, h3, h4, h5⟩ := h
  unfold Link.push
  repeat' split
  all_goals exact ⟨h1, h2, h3, h4, h5⟩

theorem begin_idle {e : Enables} {l : Link} (h : Idle e l) : Idle e l.begin := by
  unfold Link.begin
  simp only [h.owed, h.answer]
  split
  · exact h
  · split
    · exact ⟨h.buffer, h.silence, rfl, rfl, h.enables⟩
    · exact h

theorem report_idle {e : Enables} {s : State} (r : Report) (h : Idle e s.link) : Idle e (report r s).link := by
  unfold report
  split
  · exact push_idle r h
  · exact h

theorem warn_idle {e : Enables} {s : State} (w : WarnKind) (p : Bool) (h : Idle e s.link) : Idle e (warn w p s).link := by
  unfold warn
  simp only
  split
  · exact h
  · exact report_idle _ h

theorem recordFirst_link (k : FaultKind) (loaf : Option Nat) (s : State) : (recordFirst k loaf s).link = s.link := by
  unfold recordFirst
  split <;> rfl

theorem faultOccurs_idle {e : Enables} {s : State} (k : FaultKind) (st : FaultState) (loaf : Option Nat) (h : Idle e s.link) :
    Idle e (faultOccurs k st loaf s).link := by
  refine report_idle _ (?_ : Idle e (recordFirst k loaf s).link)
  rw [recordFirst_link]
  exact h

/-! ## A resting line -/

/-- The line as a reset leaves it: nothing moves, and no block has anything to bring to rest. -/
structure AtRest (s : State) : Prop where
  head : s.head.state = .empty
  knife : s.head.knife = false
  sweep : s.crumb.sweep = none
  pending : s.crumb.pending = none
  hold : s.track.infeedHold = true
  watch : s.sup.beltWatch = false
  line : s.sup.line = .stopped ∨ s.sup.line = .halted
  tying : ∀ x, (stationRec s x).state ≠ .tying
  belt : (faultEntry s .beltStall).state ≠ .active

/-- The state is the one before but for the station records, the line state, the faults, the warning flags, the count of halts and the link. -/
def Alarmed (s t : State) : Prop :=
  t = { s with
    stations := { s.stations with recs := t.stations.recs }
    sup := { s.sup with
      line := t.sup.line, faults := t.sup.faults, firstFault := t.sup.firstFault, warnings := t.sup.warnings }
    shift := { s.shift with openRecord := { s.shift.openRecord with halts := t.shift.openRecord.halts } }
    link := t.link }

theorem Alarmed.trans {s t u : State} (h : Alarmed s t) (k : Alarmed t u) : Alarmed s u := by
  unfold Alarmed at h k ⊢
  rw [k]
  conv => lhs; rw [h]

theorem Flagged.alarmed {s t : State} (h : Flagged s t) : Alarmed s t := by
  unfold Alarmed
  unfold Flagged at h
  conv => lhs; rw [h]
  rw [h]

/-- Conditions have been presented over a resting line: it stands as it was, or it has just been HALTED, which holds its stations (R94). -/
structure Rung (s t : State) : Prop where
  rest : Alarmed s t
  line : (t.sup.line = s.sup.line ∧ ∀ x, stationRec t x = stationRec s x) ∨
    (s.sup.line ≠ .halted ∧ t.sup.line = .halted ∧ ∀ x, stationRec t x = haltedRec (stationRec s x))
  idle : ∀ e, Idle e s.link → Idle e t.link

theorem Rung.trans {s t u : State} (h : Rung s t) (k : Rung t u) : Rung s u where
  rest := h.rest.trans k.rest
  line := by
    rcases h.line with ⟨hl, hr⟩ | ⟨hn, hl, hr⟩
    · simpa only [hl, hr] using k.line
    · rcases k.line with ⟨kl, kr⟩ | ⟨kn, _⟩
      · exact Or.inr ⟨hn, kl.trans hl, fun x => (kr x).trans (hr x)⟩
      · exact absurd hl kn
  idle := fun e i => k.idle e (h.idle e i)

theorem Flagged.rung {s t : State} (h : Flagged s t) (hi : ∀ e, Idle e s.link → Idle e t.link) : Rung s t where
  rest := h.alarmed
  line := Or.inl ⟨h.line, fun x => congrArg (fun v : Stations => v.recs.get x) h.stations⟩
  idle := hi

theorem Rung.refl (s : State) : Rung s s := (Flagged.refl s).rung fun _ h => h

theorem haltedRec_state (r : StationRec) : (haltedRec r).state = r.state := by
  unfold haltedRec
  split <;> rfl

theorem AtRest.rung {s t : State} (h : AtRest s) (k : Rung s t) (hb : (faultEntry t .beltStall).state ≠ .active) : AtRest t where
  head := by rw [k.rest]; exact h.head
  knife := by rw [k.rest]; exact h.knife
  sweep := by rw [k.rest]; exact h.sweep
  pending := by rw [k.rest]; exact h.pending
  hold := by rw [k.rest]; exact h.hold
  watch := by rw [k.rest]; exact h.watch
  line := k.line.elim (fun ⟨hl, _⟩ => hl ▸ h.line) fun ⟨_, hl, _⟩ => Or.inr hl
  tying := fun x => by
    rcases k.line with ⟨_, hr⟩ | ⟨_, _, hr⟩
    · rw [hr]
      exact h.tying x
    · rw [hr, haltedRec_state]
      exact h.tying x
  belt := hb

/-! ## The halt of a resting line -/

theorem headHalts_rest {s : State} (hk : s.head.knife = false) (hs : s.head.state = .empty) : headHalts s = s := by
  unfold headHalts
  rw [show knifeTo false s = s from if_pos hk]
  simp only [hs]

theorem stationHalts_rest {x : Station} {s : State} (h : (stationRec s x).state ≠ .tying) :
    stationHalts x s = setStation x (haltedRec (stationRec s x)) s := by
  have hsame : setStation x (stationRec s x) s = s := by cases x <;> rfl
  unfold stationHalts haltedRec
  cases hs : (stationRec s x).state with
  | tying => exact absurd hs h
  | outOfService =>
    simp only [hs]
    exact hsame.symm
  | empty =>
    simp only [hs]
    exact hsame.symm
  | _ =>
    simp only [hs]
    exact congrArg (fun r => setStation x r s) (if_pos rfl).symm

theorem stationsHalt_rest {s : State} (h : ∀ x, (stationRec s x).state ≠ .tying) : stationHalts .b (stationHalts .a s) =
    { s with stations := { s.stations with recs := ⟨haltedRec s.stations.recs.a, haltedRec s.stations.recs.b⟩ } } := by
  have hb : (stationRec (setStation .a (haltedRec (stationRec s .a)) s) .b).state ≠ .tying := h .b
  rw [stationHalts_rest (h .a), stationHalts_rest hb]
  rfl

theorem abortSweep_none {s : State} (h : s.crumb.sweep = none) : abortSweep s = s := by
  unfold abortSweep
  rw [h]

theorem assertHold_same {s : State} (h : s.track.infeedHold = true) (hw : s.sup.beltWatch = false) : assertHold s = s := by
  show { s with track := { s.track with infeedHold := true }, sup := { s.sup with beltWatch := false } } = s
  rw [← h, ← hw]

/-- The state of a resting line that is HALTED: the stations are held, and the halt is counted and reported. -/
abbrev haltedAt (s : State) : State :=
  { s with
    stations := { s.stations with recs := ⟨haltedRec s.stations.recs.a, haltedRec s.stations.recs.b⟩ }
    sup := { s.sup with line := .halted }
    shift := { s.shift with openRecord := { s.shift.openRecord with halts := raiseCount s.shift.openRecord.halts 1 } }
    link := (setLine .halted s).link }

/-- The line is HALTED and the halt counted; the blocks have not reacted yet. -/
abbrev haltTold (s : State) : State :=
  { s with
    sup := { s.sup with line := .halted }
    shift := { s.shift with openRecord := { s.shift.openRecord with halts := raiseCount s.shift.openRecord.halts 1 } }
    link := (setLine .halted s).link }

theorem haltTold_eq (s : State) : countShift (fun r => { r with halts := raiseCount r.halts 1 }) (setLine .halted s) = haltTold s := by
  rw [show setLine .halted s = { s with sup := { s.sup with line := .halted }, link := (setLine .halted s).link } from report_eq _ _]
  rfl

theorem enterHalted_rest {s : State} (h : AtRest s) : enterHalted s = haltedAt s := by
  have hh : headHalts (haltTold s) = haltTold s := headHalts_rest h.knife h.head
  have hs : stationHalts .b (stationHalts .a (haltTold s)) = haltedAt s := stationsHalt_rest (s := haltTold s) h.tying
  have ha : abortSweep (haltedAt s) = haltedAt s := abortSweep_none h.sweep
  have ho : assertHold (haltedAt s) = haltedAt s := assertHold_same h.hold h.watch
  unfold enterHalted
  rw [haltTold_eq, hh, hs, ha, ho]

theorem enterHalted_rung {s : State} (h : AtRest s) (hl : s.sup.line ≠ .halted) : Rung s (enterHalted s) := by
  rw [enterHalted_rest h]
  exact ⟨rfl, Or.inr ⟨hl, rfl, fun x => by cases x <;> rfl⟩, fun e => report_idle (s := s.setSup { s.sup with line := .halted }) _⟩

theorem applyToLine_rung {s : State} (a : Action) (h : AtRest s) : Rung s (applyToLine a s) := by
  unfold applyToLine
  cases a with
  | halt =>
    simp only
    split
    · exact Rung.refl s
    · exact enterHalted_rung h ‹_›
  | hold =>
    have hr : s.sup.line ≠ .running := by rcases h.line with e | e <;> rw [e] <;> nofun
    simp only [if_neg hr]
    exact Rung.refl s
  | nothing => exact Rung.refl s

theorem applyToLine_belt {s : State} (a : Action) (h : (faultEntry s .beltStall).state ≠ .active) :
    (faultEntry (applyToLine a s) .beltStall).state ≠ .active := by
  rw [(applyToLine_calm a s).entry]
  exact h

theorem faultActs_rest {k : FaultKind} {s : State} (h : AtRest s) : faultActs k s = applyToLine (faultEntry s k).action s :=
  settleBelt_idle _ (applyToLine_belt _ h.belt)

/-! ## A condition presented -/

/-- What the presentation of one condition over a resting line leaves. -/
structure Presented1 (k : FaultKind) (b : Bool) (s t : State) : Prop where
  rung : Rung s t
  others : ∀ j, j ≠ k → faultEntry t j = faultEntry s j
  state : (faultEntry t k).state = if b then .active else .inactive
  action : (faultEntry t k).action = (faultEntry s k).action
  mask : (faultEntry t k).mask = (faultEntry s k).mask
  absent : b = false → t = s

theorem Presented1.atRest {k : FaultKind} {b : Bool} {s t : State} (h : Presented1 k b s t) (hs : AtRest s) (hk : k ≠ .beltStall) :
    AtRest t :=
  hs.rung h.rung (by rw [h.others _ (Ne.symm hk)]; exact hs.belt)

theorem setCondition_rest {k : FaultKind} (b : Bool) {s : State} (h : AtRest s) (hk : k ≠ .beltStall)
    (hf : (faultEntry s k).state = .inactive) : Presented1 k b s (setCondition k b s) := by
  have hn : (faultEntry s k).state ≠ .active := by rw [hf]; nofun
  cases b with
  | false =>
    rw [setCondition_absent hn]
    exact ⟨Rung.refl s, fun _ _ => rfl, hf, rfl, rfl, fun _ => rfl⟩
  | true =>
    have ho : Rung s (faultOccurs k .active none s) :=
      (faultOccurs_flagged k .active none s).rung fun e => faultOccurs_idle k .active none
    have hr : AtRest (faultOccurs k .active none s) := h.rung ho (by rw [faultOccurs_other _ _ _ _ _ hk]; exact h.belt)
    rw [setCondition_comes hn, faultActs_rest hr]
    have hc := (applyToLine_calm (faultEntry (faultOccurs k .active none s) k).action (faultOccurs k .active none s)).entry
    have hk := (hc k).trans (faultOccurs_entry k .active none s)
    exact ⟨ho.trans (applyToLine_rung _ hr), fun j hj => (hc j).trans (faultOccurs_other _ _ _ _ _ (Ne.symm hj)),
      (congrArg FaultEntry.state hk).trans rfl, (congrArg FaultEntry.action hk).trans rfl, (congrArg FaultEntry.mask hk).trans rfl, nofun⟩

theorem suspensionBegins_rest {s : State} (h : AtRest s) : suspensionBegins s = s := by
  have hm : admissionOpen s = false := by
    unfold admissionOpen moving
    rcases h.line with e | e <;> rw [e] <;> rfl
  unfold suspensionBegins testAdmission
  rw [h.sweep, h.pending]
  simp [hm]

theorem reviewGuard_rest {s : State} (h : AtRest s) (hf : (faultEntry s .guardOpen).state = .inactive) :
    Presented1 .guardOpen (guardCondition s) s (reviewGuard s) := setCondition_rest (k := .guardOpen) _ h nofun hf

theorem reviewTray_rest {s : State} (h : AtRest s) (hf : (faultEntry s .trayFull).state = .inactive) :
    Presented1 .trayFull (inputHigh s .trayFull) s (reviewTray s) := by
  have hc := setCondition_rest (k := .trayFull) (inputHigh s .trayFull) h nofun hf
  have he : reviewTray s = setCondition .trayFull (inputHigh s .trayFull) s := by
    unfold reviewTray
    simp only
    split
    · exact suspensionBegins_rest (hc.atRest h nofun)
    · rfl
  rw [he]
  exact hc

/-! ## All that a reset presents -/

theorem presentWarnings_noticed (s : State) : Noticed s (presentWarnings s) := by
  have hfold : ∀ (ws : List WarnKind) (t : State), Noticed t (ws.foldl (fun t w => evaluate w t) t) := by
    intro ws
    induction ws with
    | nil => exact Noticed.refl
    | cons w ws ih => exact fun t => (evaluate_noticed w t).trans (ih _)
  exact hfold _ s

theorem presentWarnings_idle {e : Enables} (s : State) (h : Idle e s.link) : Idle e (presentWarnings s).link := by
  have hfold : ∀ (ws : List WarnKind) (t : State), Idle e t.link → Idle e (ws.foldl (fun t w => evaluate w t) t).link := by
    intro ws
    induction ws with
    | nil => exact fun _ h => h
    | cons w ws ih => exact fun t h => ih _ (warn_idle w _ h)
  exact hfold _ s h

theorem transmit_rung (s : State) : Rung s (transmit s) :=
  (noticed_flagged (transmit_noticed s)).rung fun _ => begin_idle

theorem Alarmed.inputs {s t : State} (h : Alarmed s t) (f : Func) : isHeld t f = isHeld s f ∧ inputHigh t f = inputHigh s f := by
  rw [h]
  exact ⟨rfl, rfl⟩

/-- What a reset presents over a resting line with no fault standing: the two conditions that are there (R144, R154). -/
theorem present_rest {s : State} (h : AtRest s) (hf : ∀ k, (faultEntry s k).state = .inactive) : let t := present s
    Rung s t ∧
    (∀ k, (faultEntry t k).action = (faultEntry s k).action ∧ (faultEntry t k).mask = (faultEntry s k).mask ∧
      (k ≠ .guardOpen → k ≠ .trayFull → faultEntry t k = faultEntry s k)) ∧
    (faultEntry t .guardOpen).state = (if guardCondition s then .active else .inactive) ∧
    (faultEntry t .trayFull).state = (if inputHigh s .trayFull then .active else .inactive) ∧
    (guardCondition s = false → inputHigh s .trayFull = false → t.sup.line = s.sup.line ∧ t.sup.firstFault = s.sup.firstFault) := by
  have nv := presentWarnings_noticed s
  have hv : Rung s (presentWarnings s) := (noticed_flagged nv).rung fun _ => presentWarnings_idle s
  have ev : ∀ k, faultEntry (presentWarnings s) k = faultEntry s k := (Noticed.calm nv).entry
  have rv : AtRest (presentWarnings s) := h.rung hv (by rw [ev]; exact h.belt)
  rw [present_eq]
  generalize presentWarnings s = v at *
  have hg := reviewGuard_rest rv (by rw [ev]; exact hf _)
  have rg := hg.atRest rv nofun
  rw [show guardCondition v = guardCondition s by
    unfold guardCondition; rw [(hv.rest.inputs _).1, (hv.rest.inputs _).2]] at hg
  generalize reviewGuard v = a at *
  have hta := (hv.trans hg.rung).rest.inputs .trayFull
  have ht := reviewTray_rest rg (by rw [hg.others .trayFull nofun, ev]; exact hf _)
  rw [hta.2] at ht
  generalize reviewTray a = b at *
  have eb : ∀ k, faultEntry (transmit b) k = faultEntry b k := fun _ => rfl
  refine ⟨hv.trans (hg.rung.trans (ht.rung.trans (transmit_rung b))), fun k => ?_, ?_, ?_, fun h1 h2 => ?_⟩
  · rw [eb, ← ev k]
    by_cases hk : k = .guardOpen
    · subst hk
      rw [ht.others .guardOpen nofun]
      exact ⟨hg.action, hg.mask, fun e => absurd rfl e⟩
    · by_cases hk' : k = .trayFull
      · subst hk'
        rw [ht.action, ht.mask, hg.others .trayFull nofun]
        exact ⟨rfl, rfl, fun _ e => absurd rfl e⟩
      · rw [ht.others _ hk', hg.others _ hk]
        exact ⟨rfl, rfl, fun _ _ => rfl⟩
  · rw [eb, ht.others .guardOpen nofun, hg.state]
  · rw [eb, ht.state]
  · have hav := hg.absent h1
    have hba := ht.absent h2
    subst hav hba
    exact ⟨nv.line, nv.firstFault⟩

end Sys2Proof.LoafTrack
end


-- ==== The loaf track, proofs: the warm resets ====
section
/-! SUPPORT. What both warm resets keep, clear and count (O60). -/

namespace Sys2Proof.LoafTrack

open Sys2Proof.Machine Sys2Proof.Safety Sys2Proof.Laws

/-! ## A restarted station -/

theorem drewRec_keeps (due eye : Bool) (n : Nat) (r : StationRec) (hr : r.state = .opening) : let q := drewRec due eye n r
    q.bagClass = r.bagClass ∧ q.inServiceFlag = r.inServiceFlag ∧ q.misties = r.misties ∧ q.tag = r.tag ∧ q.state ≠ .tying := by
  unfold drewRec
  simp only
  repeat' split
  all_goals simp [hr]

/-- A restart keeps the class, the flag and the misties, and leaves no loaf and no tying. -/
theorem restartRec_keeps {s : State} {x : Station} (ht : (stationRec s x).tag = none) (hs : (stationRec s x).state ≠ .tying) :
    let q := restartRec s x
    q.bagClass = (stationRec s x).bagClass ∧ q.inServiceFlag = (stationRec s x).inServiceFlag ∧ q.misties = (stationRec s x).misties ∧
      q.tag = none ∧ q.state ≠ .tying := by
  unfold restartRec
  simp only
  repeat' split
  · exact ⟨rfl, rfl, rfl, ht, hs⟩
  · exact ⟨rfl, rfl, rfl, rfl, nofun⟩
  · exact ⟨rfl, rfl, rfl, ht, nofun⟩
  · exact drewRec_keeps _ _ _ _ rfl

theorem haltedRec_keeps (r : StationRec) : (haltedRec r).bagClass = r.bagClass ∧ (haltedRec r).inServiceFlag = r.inServiceFlag ∧
    (haltedRec r).misties = r.misties ∧ (haltedRec r).tag = r.tag := by
  unfold haltedRec
  split <;> exact ⟨rfl, rfl, rfl, rfl⟩

theorem openDraws_warm {s u : State} {x : Station} (hr : stationRec u x = (stationRec s x).warm) (hl : u.sup.line = .stopped) :
    openDraws u x = (isHeld u (.bagEye x) && isHeld u (.blower x)) := by
  unfold openDraws
  rw [hr, hl]
  rfl

/-- A fitted station after a warm reset has the record that R97 gives it. -/
theorem restartRec_warm {s u : State} {x : Station} {draws : Bool} (hr : stationRec u x = (stationRec s x).warm)
    (hm : stationFitted u.member x = true) (hl : u.sup.line = .stopped) (ht : u.stations.times = s.stations.times)
    (hd : (isHeld u (.bagEye x) && isHeld u (.blower x)) = draws) (hi : draws = true → inputHigh u (.bagEye x) = inputHigh s (.bagEye x)) :
    restartRec u x = restartedRec s x draws := by
  unfold restartRec openedRec restartedRec
  rw [openDraws_warm hr hl, hd, hr, hm, hl, ht]
  cases hf : (stationRec s x).inServiceFlag with
  | false => simp [StationRec.warm, outRec, StationRec.powerOn, hf]
  | true =>
    by_cases hz : (stationRec s x).magazine = 0
    · simp [StationRec.warm, StationRec.powerOn, hf, hz]
    · cases draws with
      | false => simp [StationRec.warm, StationRec.powerOn, hf, hz, drewRec, openingRec]
      | true => simp [StationRec.warm, StationRec.powerOn, hf, hz, drewRec, openingRec, hi rfl]

/-- The counts of a fitted station after a warm reset: the bag it held wasted, the bag it draws drawn. -/
abbrev restartedCounts (s : State) (x : Station) (draws : Bool) : StationCounts :=
  { bagCounts s x with
    wasted := if holdsBag (stationRec s x) then min ((bagCounts s x).wasted + 1) 4294967295 else (bagCounts s x).wasted
    drawn := if draws = true ∧ (stationRec s x).inServiceFlag = true ∧ 1 ≤ (stationRec s x).magazine
      then min ((bagCounts s x).drawn + 1) 4294967295 else (bagCounts s x).drawn }

theorem restartCounts_warm {s u : State} {x : Station} {draws : Bool} (hr : stationRec u x = (stationRec s x).warm)
    (hm : stationFitted s.member x = true) (hu : u.member = s.member) (hl : u.sup.line = .stopped)
    (hd : (isHeld u (.bagEye x) && isHeld u (.blower x)) = draws) (hc : u.shift = (warmCounts s).shift) :
    restartCounts u x = restartedCounts s x draws := by
  have hb : bagCounts u x = bagCounts (warmCounts s) x := congrArg (fun v : Shift => v.openRecord.stations.get x) hc
  unfold restartCounts drewCounts restartedCounts
  rw [openDraws_warm hr hl, hd, hr, hu, hm, hb, warmCounts_bags, hm]
  have hg : ((true && (stationRec s x).warm.inServiceFlag && draws) = true ∧ (stationRec s x).warm.magazine ≠ 0) ↔
      (draws = true ∧ (stationRec s x).inServiceFlag = true ∧ 1 ≤ (stationRec s x).magazine) := by
    rw [Bool.true_and, Bool.and_eq_true, Nat.one_le_iff_ne_zero]
    exact ⟨fun ⟨⟨h1, h2⟩, h3⟩ => ⟨h2, h1, h3⟩, fun ⟨h2, h1, h3⟩ => ⟨⟨h1, h2⟩, h3⟩⟩
  by_cases hw : draws = true ∧ (stationRec s x).inServiceFlag = true ∧ 1 ≤ (stationRec s x).magazine
  · rw [if_pos (hg.mpr hw), if_pos hw]
    cases holdsBag (stationRec s x) <;> rfl
  · rw [if_neg (mt hg.mp hw), if_neg hw]
    cases holdsBag (stationRec s x) <;> rfl

/-! ## The blocks of a warm reset -/

/-- The blocks have their values of a warm reset, and the stations are about to restart. -/
structure Warmed (cause : ResetCause) (s u : State) : Prop where
  blocks : u = { warmBlocks (warmCounts s) with options := u.options, meas := u.meas, sup := u.sup, points := u.points }
  line : u.sup.line = .stopped
  cause : u.sup.resetCause = cause
  watch : u.sup.beltWatch = false
  faults : ∀ k, (faultEntry u k).state = .inactive

theorem Warmed.shift {cause : ResetCause} {s u : State} (h : Warmed cause s u) : u.shift = (warmCounts s).shift :=
  (congrArg State.shift h.blocks).trans rfl

theorem Warmed.record {cause : ResetCause} {s u : State} (h : Warmed cause s u) (x : Station) :
    stationRec u x = (stationRec s x).warm := by
  obtain ⟨v, hv⟩ := warmCounts_eq s
  rw [h.blocks, hv]
  cases x <;> rfl

/-- The state is that of a warm reset but for the straps, measurement, the station records, the line state, the flags, the counts that the
stations and a halt change, the points and the link. -/
def WarmEnd (cause : ResetCause) (s t : State) : Prop :=
  t = { s with
    options := t.options
    track := s.track.warm
    head := s.head.warm
    stations := { s.stations.warm with recs := t.stations.recs }
    tyers := ⟨s.tyers.a.warm, s.tyers.b.warm⟩
    crumb := s.crumb.warm
    meas := t.meas
    sup := { t.sup with resetCause := cause, beltWatch := false }
    shift := { s.shift with
      openRecord := { warmRecord s t.shift.openRecord.stations with halts := t.shift.openRecord.halts } }
    points := t.points
    link := t.link }

theorem warmBlocks_end {cause : ResetCause} (s : State) (o : Options) (m : Meas) {p : Supervision} (q : Vector Point 24)
    (hc : p.resetCause = cause) (hw : p.beltWatch = false) :
    WarmEnd cause s { warmBlocks (warmCounts s) with options := o, meas := m, sup := p, points := q } := by
  obtain ⟨v, hv⟩ := warmCounts_eq s
  subst hc
  have hp : { p with resetCause := p.resetCause, beltWatch := false } = p := by rw [← hw]
  rw [hv]
  unfold WarmEnd
  simp only [hp]
  rfl

theorem Warmed.warmEnd {cause : ResetCause} {s u : State} (h : Warmed cause s u) : WarmEnd cause s u := by
  rw [h.blocks]
  exact warmBlocks_end s u.options u.meas u.points h.cause h.watch

theorem WarmEnd.aloof {cause : ResetCause} {s u r : State} (h : WarmEnd cause s u) (k : Aloof u r) (ht : r.tyers = u.tyers) :
    WarmEnd cause s r := by
  unfold WarmEnd Aloof at *
  rw [ht] at k
  rw [k]
  conv => lhs; rw [h]

theorem WarmEnd.alarmed {cause : ResetCause} {s u t : State} (h : WarmEnd cause s u) (k : Alarmed u t) : WarmEnd cause s t := by
  unfold WarmEnd Alarmed at *
  rw [k]
  conv => lhs; rw [h]

theorem WarmEnd.forget {cause : ResetCause} {s u : State} (h : WarmEnd cause s u) (l : Link) : WarmEnd cause s (forget l u) := by
  unfold WarmEnd at *
  conv => lhs; rw [h]
  rfl

theorem WarmEnd.member {cause : ResetCause} {s t : State} (h : WarmEnd cause s t) : t.member = s.member := by
  rw [h]

theorem WarmEnd.recipes {cause : ResetCause} {s t : State} (h : WarmEnd cause s t) : t.recipes = s.recipes := by
  rw [h]

theorem WarmEnd.stations {cause : ResetCause} {s t : State} (h : WarmEnd cause s t) : t.stations.policy = s.stations.policy ∧
    t.stations.lastAssigned = s.stations.lastAssigned ∧ t.stations.times = s.stations.times := by
  rw [h]
  exact ⟨rfl, rfl, rfl⟩

theorem WarmEnd.shift {cause : ResetCause} {s t : State} (h : WarmEnd cause s t) : t.shift.clock = s.shift.clock ∧
    t.shift.clockSet = s.shift.clockSet ∧ t.shift.schedule = s.shift.schedule ∧ t.shift.history = s.shift.history := by
  rw [h]
  exact ⟨rfl, rfl, rfl, rfl⟩

theorem WarmEnd.tyer {cause : ResetCause} {s t : State} (h : WarmEnd cause s t) (x : Station) : tyerOf t x = (tyerOf s x).warm := by
  rw [h]
  cases x <;> rfl

/-! ## What a warm reset leaves -/

theorem Warmed.clear {cause : ResetCause} {s u : State} (h : Warmed cause s u) : Clear u :=
  ⟨(congrArg (fun t : State => t.track.loaves) h.warmEnd).trans rfl, (congrArg (fun t : State => t.head.tag) h.warmEnd).trans rfl⟩

theorem restartBoth_tyers {u : State} (h : Clear u) : (restartBoth u).tyers = u.tyers := by
  obtain ⟨_, _, hx⟩ := restartBoth_spec h
  have ha : (restartBoth u).tyers.a = u.tyers.a := (hx .a).2.1
  have hb : (restartBoth u).tyers.b = u.tyers.b := (hx .b).2.1
  calc (restartBoth u).tyers = ⟨(restartBoth u).tyers.a, (restartBoth u).tyers.b⟩ := rfl
    _ = u.tyers := by rw [ha, hb]

/-- The stations have restarted, and the flags that this raised are forgotten. -/
abbrev settled (l : Link) (u : State) : State := forget l (restartBoth u)

theorem settled_atRest {cause : ResetCause} {s u : State} (l : Link) (h : Warmed cause s u) :
    WarmEnd cause s (settled l u) ∧ AtRest (settled l u) ∧ (∀ k, faultEntry (settled l u) k = faultEntry u k) ∧
      (settled l u).sup.line = .stopped ∧ (settled l u).sup.firstFault = u.sup.firstFault := by
  obtain ⟨ha, _, hx⟩ := restartBoth_spec h.clear
  have he : WarmEnd cause s (settled l u) := (h.warmEnd.aloof ha (restartBoth_tyers h.clear)).forget l
  have hf : ∀ k, faultEntry (settled l u) k = faultEntry u k := fun k => congrArg (fun v : Vector FaultEntry 19 => v[faultIndex k]) ha.faults
  have hl : (settled l u).sup.line = .stopped := ha.line.trans h.line
  have hr : ∀ x, stationRec u x = (stationRec s x).warm := h.record
  refine ⟨he, ?_, hf, hl, (congrArg (fun t : State => t.sup.firstFault) ha).trans rfl⟩
  exact {
    head := (congrArg (fun t : State => t.head.state) he).trans rfl
    knife := (congrArg (fun t : State => t.head.knife) he).trans rfl
    sweep := (congrArg (fun t : State => t.crumb.sweep) he).trans rfl
    pending := (congrArg (fun t : State => t.crumb.pending) he).trans rfl
    hold := (congrArg (fun t : State => t.track.infeedHold) he).trans rfl
    watch := (congrArg (fun t : State => t.sup.beltWatch) he).trans rfl
    line := Or.inl hl
    tying := fun x => by
      show (stationRec (restartBoth u) x).state ≠ _
      rw [(hx x).1]
      exact (restartRec_keeps (by rw [hr]; rfl) (by rw [hr]; nofun)).2.2.2.2
    belt := by
      rw [hf, h.faults]
      nofun }

/-- What a warm reset leaves, from the blocks `u` on: the stations restart, and GUARD_OPEN and TRAY_FULL are presented (R97, R154). -/
structure Reset (cause : ResetCause) (e : Enables) (s u t : State) : Prop where
  blocks : WarmEnd cause s t
  options : t.options = u.options
  meas : t.meas = u.meas
  points : t.points = u.points
  link : Idle e t.link
  counts : ∀ x, bagCounts t x = restartCounts u x
  recs : ∀ x, stationRec t x = if t.sup.line = .halted then haltedRec (restartRec u x) else restartRec u x
  faults : ∀ k, (faultEntry t k).action = (faultEntry u k).action ∧ (faultEntry t k).mask = (faultEntry u k).mask ∧
    (k ≠ .guardOpen → k ≠ .trayFull → faultEntry t k = faultEntry u k)
  guard : (faultEntry t .guardOpen).state = if guardCondition t then .active else .inactive
  tray : (faultEntry t .trayFull).state = if inputHigh t .trayFull then .active else .inactive
  quiet : guardCondition t = false → inputHigh t .trayFull = false → t.sup.line = .stopped ∧ t.sup.firstFault = u.sup.firstFault

theorem reset_of_warmed {cause : ResetCause} {e : Enables} {s u : State} {l : Link} (h : Warmed cause s u) (hl : Idle e l) :
    Reset cause e s u (present (settled l u)) := by
  obtain ⟨ha, _, hx⟩ := restartBoth_spec h.clear
  obtain ⟨he, hr, hf, hline, hfirst⟩ := settled_atRest l h
  obtain ⟨ht, hk, hg, hy, hq⟩ := present_rest hr fun k => by rw [hf]; exact h.faults k
  have hc : guardCondition (present (settled l u)) = guardCondition (settled l u) := by
    unfold guardCondition
    rw [(ht.rest.inputs _).1, (ht.rest.inputs _).2]
  have hi := (ht.rest.inputs .trayFull).2
  have ho : (restartBoth u).options = u.options := (congrArg State.options ha).trans rfl
  have hd : ∀ x, stationRec (settled l u) x = restartRec u x := fun x => (hx x).1
  generalize hp : present (settled l u) = t at *
  refine ⟨he.alarmed ht.rest, ?_, ?_, ?_, ht.idle e hl, fun x => ?_, fun x => ?_, fun k => ?_, ?_, ?_, fun h1 h2 => ?_⟩
  · exact (congrArg State.options ht.rest).trans ho
  · exact (congrArg State.meas ht.rest).trans (restartBoth_meas h.clear)
  · exact (congrArg State.points ht.rest).trans ha.points
  · exact (congrArg (fun t : State => bagCounts t x) ht.rest).trans (hx x).2.2
  · rcases ht.line with ⟨kl, kr⟩ | ⟨_, kl, kr⟩
    · rw [kr, hd, kl, hline]
      rfl
    · rw [kr, hd, if_pos kl]
  · rw [← hf k]
    exact hk k
  · rw [hc]
    exact hg
  · rw [hi]
    exact hy
  · obtain ⟨kl, kf⟩ := hq (hc ▸ h1) (hi ▸ h2)
    exact ⟨kl.trans hline, kf.trans hfirst⟩

/-- The record of every station, fitted or not, keeps its class and flag and has no misties and no loaf. -/
theorem Reset.record {cause : ResetCause} {e : Enables} {s u t : State} (h : Reset cause e s u t) (hu : Warmed cause s u) (x : Station) :
    (stationRec t x).bagClass = (stationRec s x).bagClass ∧ (stationRec t x).inServiceFlag = (stationRec s x).inServiceFlag ∧
      (stationRec t x).misties = 0 ∧ (stationRec t x).tag = none := by
  have hr := hu.record x
  obtain ⟨h1, h2, h3, h4, _⟩ := restartRec_keeps (s := u) (x := x) (by rw [hr]; rfl) (by rw [hr]; nofun)
  rw [hr] at h1 h2 h3
  rw [h.recs x]
  split
  · obtain ⟨k1, k2, k3, k4⟩ := haltedRec_keeps (restartRec u x)
    exact ⟨k1.trans h1, k2.trans h2, k3.trans h3, k4.trans h4⟩
  · exact ⟨h1, h2, h3, h4⟩

/-! ## The two resets -/

/-- The blocks at a reset by the reset line. -/
abbrev lineBlocks (p : Straps) (s : State) : State :=
  { warmBlocks (warmCounts s) with
    options := Options.ofStraps s.member p
    meas := s.meas.lineReset
    sup := s.sup.lineReset s.member
    points := s.points.map Point.lineReset }

/-- The blocks at a RESET message. -/
abbrev messageBlocks (s : State) : State :=
  { warmBlocks (warmCounts s) with
    meas := s.meas.messageReset
    sup := s.sup.warm .message
    points := s.points.map Point.messageReset }

theorem lineReset_eq (p : Straps) (s : State) : lineReset p s = present (settled Link.powerOn (lineBlocks p s)) := by
  obtain ⟨v, hv⟩ := warmCounts_eq s
  unfold lineReset lineBlocks
  rw [hv]
  rfl

theorem messageReset_eq (s : State) : messageReset s = present (settled s.link.warm (messageBlocks s)) := by
  obtain ⟨v, hv⟩ := warmCounts_eq s
  unfold messageReset messageBlocks
  rw [hv]
  rfl

theorem lineBlocks_fault (p : Straps) (s : State) (k : FaultKind) : faultEntry (lineBlocks p s) k =
    { faultEntry s k with state := .inactive, action := defaultAction s.member k, mask := false } := by
  show (faultsLineReset s.member s.sup.faults)[faultIndex k] = _
  unfold faultsLineReset
  rw [Fin.getElem_fin, Vector.getElem_ofFn]
  simp only [allFaults_faultIndex]
  rfl

theorem messageBlocks_fault (s : State) (k : FaultKind) :
    faultEntry (messageBlocks s) k = { faultEntry s k with state := .inactive } := by
  show (s.sup.faults.map FaultEntry.warm)[faultIndex k] = _
  rw [Fin.getElem_fin, Vector.getElem_map]
  rfl

theorem lineBlocks_warmed (p : Straps) (s : State) : Warmed .resetLine s (lineBlocks p s) :=
  ⟨rfl, rfl, rfl, rfl, fun k => by rw [lineBlocks_fault]⟩

theorem messageBlocks_warmed (s : State) : Warmed .message s (messageBlocks s) := by
  obtain ⟨v, hv⟩ := warmCounts_eq s
  refine ⟨?_, rfl, rfl, rfl, fun k => by rw [messageBlocks_fault]⟩
  unfold messageBlocks
  rw [hv]

end Sys2Proof.LoafTrack
end


-- ==== The loaf track, proofs: what the warm resets keep and clear ====
section
/-! SUPPORT. The two warm resets against their statement (O60). -/

namespace Sys2Proof.LoafTrack

open Sys2Proof.Machine Sys2Proof.Safety Sys2Proof.Laws

/-! ## The inputs at a reset -/

theorem inputs_of_points {s t : State}
    (h : ∀ p : PointNo, t.points[p].mode = s.points[p].mode ∧ terminalLevel t.points[p] = terminalLevel s.points[p]) (f : Func) :
    isHeld t f = isHeld s f ∧ inputHigh t f = inputHigh s f := by
  have hh : holder t f = holder s f := by
    unfold holder pointFunction
    simp only [h]
  constructor
  · unfold isHeld
    rw [hh]
  · unfold inputHigh
    rw [hh]
    cases holder s f with
    | none => rfl
    | some p => exact (h p).2

theorem messageBlocks_inputs (s : State) (f : Func) :
    isHeld (messageBlocks s) f = isHeld s f ∧ inputHigh (messageBlocks s) f = inputHigh s f := by
  refine inputs_of_points (fun p => ?_) f
  have hp : (messageBlocks s).points[p] = Point.messageReset s.points[p] := by
    show (s.points.map Point.messageReset)[p] = _
    rw [Fin.getElem_fin, Vector.getElem_map]
    rfl
  rw [hp]
  exact ⟨rfl, rfl⟩

theorem lineBlocks_point (p : Straps) (s : State) (q : PointNo) : (lineBlocks p s).points[q] = Point.lineReset s.points[q] :=
  poweredOn_point p s q

theorem lineBlocks_input (p : Straps) (s : State) (q : PointNo) : (lineBlocks p s).points[q].mode = .input := by
  rw [lineBlocks_point]
  rfl

/-! ## The warnings at the reset line -/

theorem warnEntry_forget (l : Link) (s : State) (w : WarnKind) :
    warnEntry (forget l s) w = ⟨false, false, (warnEntry s w).mask⟩ := by
  show (s.sup.warnings.map _)[warnIndex w] = _
  rw [Fin.getElem_fin, Vector.getElem_map]
  rfl

theorem lineSettled_warn (p : Straps) (s : State) (l : Link) (w : WarnKind) :
    warnEntry (settled l (lineBlocks p s)) w = ⟨false, false, false⟩ := by
  obtain ⟨_, hm, _⟩ := restartBoth_spec (lineBlocks_warmed p s).clear
  have hu : (warnEntry (lineBlocks p s) w).mask = false := by
    show ((Vector.replicate 17 (⟨false, false, false⟩ : WarnEntry))[warnIndex w]).mask = _
    rw [Fin.getElem_fin, Vector.getElem_replicate]
  rw [warnEntry_forget, hm w, hu]

/-- With no point left to hold a function, the reset line presents the warnings alone. -/
theorem lineReset_quiet (p : Straps) (s : State) : Noticed (settled Link.powerOn (lineBlocks p s)) (lineReset p s) ∧
    ∀ w, warnEntry (lineReset p s) w = presentedEntry (settled Link.powerOn (lineBlocks p s)) (fun _ => false) w := by
  obtain ⟨ha, _⟩ := restartBoth_spec (lineBlocks_warmed p s).clear
  obtain ⟨_, _, hf, _⟩ := settled_atRest Link.powerOn (lineBlocks_warmed p s)
  rw [lineReset_eq]
  refine present_quiet (lineSettled_warn p s _) (fun q => ?_) fun k => ?_
  · show (restartBoth (lineBlocks p s)).points[q].mode = _
    rw [ha.points]
    exact lineBlocks_input p s q
  · rw [hf, lineBlocks_fault]
    nofun

/-! ## The stations at a halt -/

theorem haltedRec_restarted (s : State) (x : Station) (draws : Bool) : haltedRec (restartedRec s x draws) =
    if holdsAtHalt (restartedRec s x draws).state = true then { restartedRec s x draws with held := true, bagTimer := none }
    else restartedRec s x draws := by
  have ht : (restartedRec s x draws).scoopTimer = none ∧ (restartedRec s x draws).releaseTimer = none := by
    unfold restartedRec
    simp only
    repeat' split
    all_goals exact ⟨rfl, rfl⟩
  unfold haltedRec
  generalize restartedRec s x draws = r at *
  obtain ⟨h1, h2⟩ := ht
  simp only [h1, h2]

theorem reset_idle : Idle ⟨true, true, true, true, true, true⟩ Link.powerOn := ⟨rfl, rfl, rfl, rfl, rfl⟩

theorem warm_idle (l : Link) : Idle l.enables l.warm := ⟨rfl, rfl, rfl, rfl, rfl⟩

/-! ## The two resets -/

theorem lineReset_reset (p : Straps) (s : State) :
    Reset .resetLine ⟨true, true, true, true, true, true⟩ s (lineBlocks p s) (lineReset p s) :=
  lineReset_eq p s ▸ reset_of_warmed (lineBlocks_warmed p s) reset_idle

theorem messageReset_reset (s : State) : Reset .message s.link.enables s (messageBlocks s) (messageReset s) :=
  messageReset_eq s ▸ reset_of_warmed (messageBlocks_warmed s) (warm_idle s.link)

theorem lineReset_line (p : Straps) (s : State) :
    (lineReset p s).sup.line = .stopped ∧ (lineReset p s).sup.firstFault = s.sup.firstFault := by
  obtain ⟨_, _, _, hl, hf⟩ := settled_atRest Link.powerOn (lineBlocks_warmed p s)
  obtain ⟨hn, _⟩ := lineReset_quiet p s
  exact ⟨hn.line.trans hl, hn.firstFault.trans hf⟩

theorem lineReset_fault (p : Straps) (s : State) (k : FaultKind) : faultEntry (lineReset p s) k =
    { faultEntry s k with state := .inactive, action := defaultAction s.member k, mask := false } := by
  obtain ⟨_, _, hf, _⟩ := settled_atRest Link.powerOn (lineBlocks_warmed p s)
  rw [(Noticed.calm (lineReset_quiet p s).1).entry, hf, lineBlocks_fault]

/-- After the reset line no point holds a station's functions, so no station draws (R97). -/
theorem lineReset_station (p : Straps) {s : State} {x : Station} (hx : stationFitted s.member x = true) :
    stationRec (lineReset p s) x = restartedRec s x false ∧ bagCounts (lineReset p s) x = restartedCounts s x false := by
  have hu := lineBlocks_warmed p s
  have hr := lineReset_reset p s
  have hmem := hu.warmEnd.member
  have hd : (isHeld (lineBlocks p s) (.bagEye x) && isHeld (lineBlocks p s) (.blower x)) = false := by
    rw [isHeld_none (lineBlocks_input p s)]
    rfl
  constructor
  · rw [hr.recs, (lineReset_line p s).1]
    exact restartRec_warm (hu.record x) (hmem ▸ hx) hu.line hu.warmEnd.stations.2.2 hd nofun
  · exact (hr.counts x).trans (restartCounts_warm (hu.record x) hx hmem hu.line hd hu.shift)

/-- After the RESET message a station draws where its functions are held, unless the conditions presented hold it (R80, R94, R97). -/
theorem messageReset_station {s : State} {x : Station} {draws : Bool} (hx : stationFitted s.member x = true)
    (hd : (isHeld s (.bagEye x) && isHeld s (.blower x)) = draws) : let t := messageReset s; let r := restartedRec s x draws
    stationRec t x = (if t.sup.line = .halted ∧ holdsAtHalt r.state = true then { r with held := true, bagTimer := none } else r) ∧
      bagCounts t x = restartedCounts s x draws := by
  have hu := messageBlocks_warmed s
  have hr := messageReset_reset s
  have hmem := hu.warmEnd.member
  have hdu : (isHeld (messageBlocks s) (.bagEye x) && isHeld (messageBlocks s) (.blower x)) = draws := by
    rw [(messageBlocks_inputs s _).1, (messageBlocks_inputs s _).1, hd]
  constructor
  · rw [hr.recs, restartRec_warm (hu.record x) (hmem ▸ hx) hu.line hu.warmEnd.stations.2.2 hdu fun _ => (messageBlocks_inputs s _).2,
      haltedRec_restarted]
    by_cases hl : (messageReset s).sup.line = .halted
    · simp only [hl, if_true, true_and]
    · simp only [hl, if_false, false_and]
  · exact (hr.counts x).trans (restartCounts_warm (hu.record x) hx hmem hu.line hdu hu.shift)

theorem messageBlocks_options (s : State) : (messageBlocks s).options = s.options := by
  obtain ⟨v, hv⟩ := warmCounts_eq s
  unfold messageBlocks
  rw [hv]
  rfl

theorem guardCondition_quiet {s : State} (h : ¬(Held s .guardDoor ∧ inputHigh s .guardDoor = false)) : guardCondition s = false := by
  unfold guardCondition
  rw [Bool.and_eq_false_iff, Bool.not_eq_false']
  by_contra hc
  rw [not_or, Bool.not_eq_false, Bool.not_eq_true] at hc
  exact h hc

/-- Settles O60: the blocks of both resets are those of R23 to R185, the stations restart, and the conditions there are presented. -/
theorem warmResetsKeepAndClear : Obligations.WarmResetsKeepAndClear := by
  unfold Obligations.WarmResetsKeepAndClear
  intro bagsCounted both
  have hboth : ∀ {cause e s u t}, Reset cause e s u t → Warmed cause s u →
      (∃ v lim tr, u.meas = { s.meas.restarted v with limits := lim, trend := tr }) → both cause s t := by
    intro cause e s u t h hu ⟨v, lim, tr, hv⟩
    have hb := h.blocks
    have hm := h.meas.trans hv
    obtain ⟨hpolicy, hlast, htimes⟩ := hb.stations
    obtain ⟨hclock, hset, hschedule, hhistory⟩ := hb.shift
    refine ⟨hb.member, congrArg State.track hb, hb.recipes, congrArg State.head hb, h.record hu, hpolicy, hlast, htimes, hb.tyer,
      congrArg State.crumb hb, ?_, ?_, ?_, ?_, ?_, ?_, ?_, congrArg (fun t : State => t.sup.resetCause) hb,
      congrArg (fun t : State => t.sup.beltWatch) hb, hclock, hset, hschedule, hhistory,
      congrArg (fun t : State => loafCounts t.shift.openRecord) hb, congrArg (fun t : State => t.shift.openRecord.sweepsAborted) hb,
      h.link.buffer, h.link.silence, h.link.owed, h.link.answer⟩
    all_goals
      rw [hm]
      rfl
  refine ⟨fun p s => ?resetLine, fun txt s hs ho => ?message⟩
  case resetLine =>
    have hr := lineReset_reset p s
    obtain ⟨hn, hw⟩ := lineReset_quiet p s
    obtain ⟨hl, hf⟩ := lineReset_line p s
    refine ⟨lineReset p s, rfl, hboth hr (lineBlocks_warmed p s) ⟨_, _, _, rfl⟩, hr.options.trans ?options,
      fun x => lineReset_station p, ?_, ?_, ?_, ?_, hl, hf, lineReset_fault p s, fun w => ?warning, fun q => ?point, hr.link.enables⟩
    case options => cases hm : s.member <;> simp [Options.ofStraps, hm, stationFitted]
    case warning => rw [hw, warnCondition_noticed hn]
    case point =>
      rw [hr.points, lineBlocks_point]
      rfl
    all_goals
      rw [hr.meas]
      rfl
  case message =>
    have hr := messageReset_reset s
    refine ⟨messageReset s, congrArg Host.Outcome.next (lineLeaves_reset hs ho), hboth hr (messageBlocks_warmed s) ⟨_, _, _, rfl⟩,
      hr.options.trans (messageBlocks_options s), ?_, fun x hx => messageReset_station hx rfl, ?_, ?_, ?_, fun k => ?fault, hr.guard, hr.tray,
      fun hg hy => hr.quiet (guardCondition_quiet hg) hy, hr.points, hr.link.enables⟩
    case fault =>
      obtain ⟨ha, hm, hk⟩ := hr.faults k
      rw [messageBlocks_fault] at ha hm hk
      exact ⟨ha, hm, hk⟩
    all_goals
      rw [hr.meas]
      rfl

end Sys2Proof.LoafTrack
end

-- ==== The recipe table, proofs: the locked slots under lockdown, and the requests on the table ====
section
/-! The locked slots under an enforced lockdown (O9); WRITE RECIPE and ERASE (O23); RUN and the lock requests (O24). -/

namespace Sys2Proof.RecipeTable

open Sys2Proof.Machine Sys2Proof.Safety Sys2Proof.Laws Sys2Proof.LoafTrack

/-! ## Lockdown -/

theorem powersOn_false {c : Instr} (h : ∀ p, c ≠ .powerOn p) : powersOn c = false := by
  unfold powersOn
  split
  · exact absurd rfl (h _)
  · rfl

theorem locksEnforced_of {s : State} (hl : s.recipes.lockdown = true) (hb : s.recipes.bypass = false) : locksEnforced s = true := by
  unfold locksEnforced
  rw [hl, hb]
  rfl

theorem locksEnforced_not {s : State} (h : s.recipes.lockdown = false ∨ s.recipes.bypass = true) : locksEnforced s = false := by
  unfold locksEnforced
  rcases h with h | h
  · rw [h, Bool.false_and]
  · rw [h, Bool.not_true, Bool.and_false]

theorem slotLocked_valid {s : State} {i : Slot} {r : Recipe} (h : s.recipes.slots[i] = some r) : slotLocked s i = r.locked := by
  unfold slotLocked
  rw [recipeAt_eq, h]
  rfl

/-- Settles O9: every command but POWER_ON keeps the locks (R39). -/
theorem lockdownKeepsLockedSlots : Obligations.LockdownKeepsLockedSlots := by
  intro c rest s t hp hc hl hb ht
  rw [step_front c rest s hp] at ht
  obtain ⟨hslots, hlockdown⟩ := (exec_lawful c _ t ht).locks (powersOn_false hc)
  refine ⟨hlockdown hl, fun i r hr hlocked => ?_⟩
  have hkept : recipeAt t i = recipeAt s i := hslots (locksEnforced_of hl hb) i ((slotLocked_valid hr).trans hlocked)
  exact hkept.trans hr

/-! ## The checks of a request on a slot -/

/-- The terms on which a request changes a slot (R27, R28): it is not locked, or the caller is an ENGINEER outside an enforced lockdown. -/
abbrev SlotOpen (s : State) (i : Slot) : Prop :=
  slotLocked s i = false ∨ (tierOk s .engineer = true ∧ (s.recipes.lockdown = false ∨ s.recipes.bypass = true))

theorem slotInRange_val (i : Slot) : slotInRange i.val = true := decide_eq_true (Nat.le_of_lt_succ i.isLt)

theorem slotInRange_above {n : Nat} (h : 15 < n) : slotInRange n = false := decide_eq_false (Nat.not_le_of_lt h)

theorem needValid_pass {i : Slot} {k : Service} {s : State} (h : s.recipes.slots[i] ≠ none) : needValid i k s = k s :=
  require_pass (Option.isSome_iff_ne_none.mpr h)

theorem needValid_fail {i : Slot} {k : Service} {s : State} (h : s.recipes.slots[i] = none) : needValid i k s = refuse .noSuch s :=
  require_fail (show (recipeAt s i).isSome = false by rw [recipeAt_eq, h]; rfl)

theorem needUnlockedOr_pass {i : Slot} {k : Service} {s : State} (h : SlotOpen s i) : needUnlockedOr i k s = k s := by
  have htier : (!slotLocked s i || tierOk s .engineer) = true := by
    rcases h with h | ⟨h, _⟩ <;> simp [h]
  have hlocks : (!slotLocked s i || !locksEnforced s) = true := by
    rcases h with h | ⟨_, h⟩
    · simp [h]
    · simp [locksEnforced_not h]
  exact (require_pass htier).trans (require_pass hlocks)

theorem needUnlockedOr_locked {i : Slot} {k : Service} {s : State} (hl : slotLocked s i = true) (ht : tierOk s .engineer = true)
    (he : locksEnforced s = true) : needUnlockedOr i k s = refuse .locked s := by
  have htier : (!slotLocked s i || tierOk s .engineer) = true := by simp [ht]
  have hlocks : (!slotLocked s i || !locksEnforced s) = false := by simp [hl, he]
  exact (require_pass htier).trans (require_fail hlocks)

/-! ## WRITE RECIPE -/

/-- The ranges of R24, as a property; the first check of R25 follows from them. -/
theorem figuresInRange_iff (printer : Bool) (f : Figures) : figuresInRange printer f = true ↔
    ((60 ≤ f.thickness ∧ f.thickness ≤ 250) ∧ (30 ≤ f.heel ∧ f.heel ≤ 150) ∧ (4 ≤ f.maxSlices ∧ f.maxSlices ≤ 40) ∧
      (1000 ≤ f.minLength ∧ f.minLength ≤ 6000) ∧ (f.minLength ≤ f.maxLength ∧ f.maxLength ≤ 7000)) ∧
      (f.crumb ≤ 255 ∧ f.bagClass ≤ 3 ∧ (printer = true → f.shelfDays ≤ 30) ∧ f.clearBefore ≤ 1) := by
  unfold figuresInRange
  simp only [Bool.and_eq_true, within_iff, Bool.or_eq_true, Bool.not_eq_true', decide_eq_true_eq, Nat.zero_le, true_and,
    ← Bool.not_eq_true, ← imp_iff_not_or]
  constructor
  · rintro ⟨⟨⟨⟨⟨⟨⟨⟨⟨ht, hh⟩, hs⟩, hmin⟩, hmax⟩, hc⟩, hb⟩, hd⟩, hx⟩, _⟩
    exact ⟨⟨ht, hh, hs, hmin, hmax⟩, hc, hb, hd, hx⟩
  · rintro ⟨⟨ht, hh, hs, hmin, hmax⟩, hc, hb, hd, hx⟩
    exact ⟨⟨⟨⟨⟨⟨⟨⟨⟨ht, hh⟩, hs⟩, hmin⟩, hmax⟩, hc⟩, hb⟩, hd⟩, hx⟩, by omega⟩

/-- The last check of WRITE RECIPE, and what it writes (R27). -/
abbrev writeChecked (i : Slot) (name : Text) (f : Figures) : Service :=
  require (fun s => figuresInRange s.options.printer f && within 1 8 name.length) .range fun s =>
    (setSlot i (some ⟨name, figuresTaken s i f, slotLocked s i⟩) s,
      accepted "WRITE RECIPE" (decimal i.val :: name :: figureFields (figuresRead s (figuresTaken s i f))))

section
variable {i : Slot} {name : Text} {f : Figures} {s : State}

theorem svcWriteRecipe_setter (ht : tierOk s .setter = true) :
    svcWriteRecipe (some ⟨i.val, name, f⟩) s = needUnlockedOr i (writeChecked i name f) s := by
  unfold svcWriteRecipe withForm
  simp only [slotOf_val]
  exact (require_pass (slotInRange_val i)).trans (needTier_pass ht)

theorem svcWriteRecipe_stores (ht : tierOk s .setter = true) (ho : SlotOpen s i)
    (hr : figuresInRange s.options.printer f = true ∧ within 1 8 name.length = true) : svcWriteRecipe (some ⟨i.val, name, f⟩) s =
      (setSlot i (some ⟨name, figuresTaken s i f, slotLocked s i⟩) s,
        accepted "WRITE RECIPE" (decimal i.val :: name :: figureFields (figuresRead s (figuresTaken s i f)))) := by
  rw [svcWriteRecipe_setter ht, needUnlockedOr_pass ho]
  exact require_pass (Bool.and_eq_true_iff.mpr hr)

theorem svcWriteRecipe_range (ht : tierOk s .setter = true) (ho : SlotOpen s i)
    (hr : ¬(figuresInRange s.options.printer f = true ∧ within 1 8 name.length = true)) :
    svcWriteRecipe (some ⟨i.val, name, f⟩) s = (s, refusal .range) := by
  rw [svcWriteRecipe_setter ht, needUnlockedOr_pass ho]
  exact require_fail (eq_false_of_ne_true fun h => hr (Bool.and_eq_true_iff.mp h))

theorem svcWriteRecipe_locked (ht : tierOk s .setter = true) (hl : slotLocked s i = true) (he : tierOk s .engineer = true)
    (hk : locksEnforced s = true) : svcWriteRecipe (some ⟨i.val, name, f⟩) s = (s, refusal .locked) :=
  (svcWriteRecipe_setter ht).trans (needUnlockedOr_locked hl he hk)

/-- The figures shown are those given, with shelf days 0 while the printer is not fitted (R26). -/
theorem figuresRead_taken : figuresRead s (figuresTaken s i f) = { f with shelfDays := if s.options.printer then f.shelfDays else 0 } := by
  unfold figuresRead shelfDaysRead figuresTaken
  cases s.options.printer <;> rfl

/-- The figures stored are those given, with the shelf days held while the printer is not fitted (R26). -/
theorem figuresTaken_eq : figuresTaken s i f = { f with shelfDays :=
    if s.options.printer then f.shelfDays else ((s.recipes.slots[i]).map fun r => r.figures.shelfDays).getD 0 } := by
  unfold figuresTaken
  rw [recipeAt_eq]
  cases s.options.printer <;> rfl

/-! ## ERASE -/

/-- The last check of ERASE, and what it writes (R28). -/
abbrev eraseChecked (i : Slot) : Service :=
  require (fun s => decide (s.recipes.runRecipe ≠ some i)) .inUse fun s => (setSlot i none s, accepted "ERASE" [])

theorem svcErase_setter (ht : tierOk s .setter = true) :
    svcErase (some i.val) s = needValid i (needUnlockedOr i (eraseChecked i)) s := by
  unfold svcErase withForm
  simp only [slotOf_val]
  exact (require_pass (slotInRange_val i)).trans (needTier_pass ht)

theorem svcErase_empty (ht : tierOk s .setter = true) (h : s.recipes.slots[i] = none) : svcErase (some i.val) s = (s, refusal .noSuch) :=
  (svcErase_setter ht).trans (needValid_fail h)

theorem svcErase_locked (ht : tierOk s .setter = true) (hl : slotLocked s i = true) (he : tierOk s .engineer = true)
    (hk : locksEnforced s = true) : svcErase (some i.val) s = (s, refusal .locked) := by
  have hv : s.recipes.slots[i] ≠ none := fun e => by
    unfold slotLocked at hl
    rw [recipeAt_eq, e] at hl
    cases hl
  exact (svcErase_setter ht).trans ((needValid_pass hv).trans (needUnlockedOr_locked hl he hk))

theorem svcErase_open (ht : tierOk s .setter = true) (ho : SlotOpen s i) (hv : s.recipes.slots[i] ≠ none) :
    svcErase (some i.val) s = eraseChecked i s :=
  (svcErase_setter ht).trans ((needValid_pass hv).trans (needUnlockedOr_pass ho))

end

/-- Settles O23: each check of R27 and R28 in its order, and what is written past the last. -/
theorem recipeSlotsFollowRequests : Obligations.RecipeSlotsFollowRequests := by
  intro i name f s hf ht
  dsimp only
  have hrange : (((60 ≤ f.thickness ∧ f.thickness ≤ 250) ∧ (30 ≤ f.heel ∧ f.heel ≤ 150) ∧ (4 ≤ f.maxSlices ∧ f.maxSlices ≤ 40) ∧
      (1000 ≤ f.minLength ∧ f.minLength ≤ 6000) ∧ (f.minLength ≤ f.maxLength ∧ f.maxLength ≤ 7000)) ∧
      (f.crumb ≤ 255 ∧ f.bagClass ≤ 3 ∧ (s.options.printer = true → f.shelfDays ≤ 30) ∧ f.clearBefore ≤ 1) ∧
      (1 ≤ name.length ∧ name.length ≤ 8)) ↔ figuresInRange s.options.printer f = true ∧ within 1 8 name.length = true := by
    rw [figuresInRange_iff, within_iff]
    exact and_assoc.symm
  rw [hrange, ← figuresTaken_eq]
  refine ⟨fun ho hr => ?_, fun ho hr => taken hf (svcWriteRecipe_range ht ho hr), fun ho hv hu => ?_, fun ho hv hu => ?_,
    fun hv => taken hf (svcErase_empty ht hv), fun hl he hd hb => ?_⟩
  · have h := taken hf (svcWriteRecipe_stores ht ho hr)
    rw [figuresRead_taken] at h
    exact h
  · exact taken hf ((svcErase_open ht ho hv).trans (require_pass (decide_eq_true hu)))
  · exact taken hf ((svcErase_open ht ho hv).trans (require_fail (decide_eq_false (not_not_intro hu))))
  · have hk := locksEnforced_of hd hb
    exact ⟨taken hf (svcWriteRecipe_locked ht hl he hk), taken hf (svcErase_locked ht hl he hk)⟩

/-! ## RUN, LOCK and UNLOCK -/

/-- RUN past its range: the slot, the lockdown, then the run recipe (R30). -/
theorem svcRun_ranged (i : Slot) (s : State) : svcRun (some i.val) s =
    needValid i (require (fun s => !s.recipes.lockdown || slotLocked s i) .locked fun s =>
      (s.setRecipes { s.recipes with runRecipe := some i }, accepted "RUN" [])) s := by
  unfold svcRun withForm
  simp only [slotOf_val]
  exact (require_pass (slotInRange_val i)).trans (needTier_pass (operator_ok s))

/-- LOCK past its range and its tier (R35). -/
theorem svcLock_engineer (i : Slot) {s : State} (ht : tierOk s .engineer = true) : svcLock (some i.val) s =
    needValid i (fun s =>
      let t := setLock i true s
      (t.setRecipes { t.recipes with frozen := t.recipes.frozen || !t.recipes.bypass }, accepted "LOCK" [])) s := by
  unfold svcLock withForm
  simp only [slotOf_val]
  exact (require_pass (slotInRange_val i)).trans (needTier_pass ht)

/-- UNLOCK past its range and its tier (R36). -/
theorem svcUnlock_engineer (i : Slot) {s : State} (ht : tierOk s .engineer = true) : svcUnlock (some i.val) s =
    needValid i (require (fun s => !locksEnforced s) .locked fun s => (setLock i false s, accepted "UNLOCK" [])) s := by
  unfold svcUnlock withForm
  simp only [slotOf_val]
  exact (require_pass (slotInRange_val i)).trans (needTier_pass ht)

theorem svcBypassOff_engineer {s : State} (ht : tierOk s .engineer = true) : svcBypassOff (some ()) s =
    (s.setRecipes { s.recipes with bypass := false, frozen := s.recipes.frozen || !(lockedSlots s).isEmpty }, accepted "BYPASS OFF" []) := by
  unfold svcBypassOff withForm
  exact needTier_pass ht

theorem svcLockdown_engineer {s : State} (ht : tierOk s .engineer = true) :
    svcLockdown (some ()) s = (s.setRecipes { s.recipes with lockdown := true }, accepted "LOCKDOWN" []) := by
  unfold svcLockdown withForm
  exact needTier_pass ht

theorem setLock_valid {i : Slot} {r : Recipe} {s : State} (b : Bool) (h : s.recipes.slots[i] = some r) :
    setLock i b s = setSlot i (some { r with locked := b }) s := by
  unfold setLock
  rw [recipeAt_eq, h]
  rfl

/-- Some slot is locked, as READ ACCESS lists them (R42). -/
theorem lockedSlots_nonempty (s : State) :
    (!(lockedSlots s).isEmpty) = true ↔ ∃ (j : Slot) (q : Recipe), s.recipes.slots[j] = some q ∧ q.locked = true := by
  unfold lockedSlots
  rw [Bool.not_eq_true', ← Bool.not_eq_true, List.isEmpty_iff, List.filter_eq_nil_iff]
  simp only [List.mem_finRange, forall_const, not_forall, not_not]
  refine exists_congr fun j => ?_
  unfold slotLocked
  rw [recipeAt_eq, Option.any_eq_true]

theorem aboveRange_refused {n : Nat} (h : 15 < n) {s : State} (hf : Free s) :
    ∀ c ∈ [Instr.run (some n), .lock (some n), .unlock (some n)], exec c s = .next (answered (refusal .range) s) := by
  have hr (k : Service) : require (fun _ => slotInRange n) .range k s = (s, refusal .range) := require_fail (slotInRange_above h)
  simp only [List.forall_mem_cons, List.not_mem_nil, false_implies, implies_true, and_true]
  exact ⟨taken hf (hr _), taken hf (hr _), taken hf (hr _)⟩

/-- Settles O24: each check of R30 and R35 to R39 in its order, and what is set past the last. -/
theorem locksAndRunRecipe : Obligations.LocksAndRunRecipe := by
  intro s hf
  refine ⟨fun n hn => aboveRange_refused hn hf, fun i hi => ⟨?_, fun ht => ⟨?_, ?_⟩⟩, fun i r hi => ?_⟩
  · exact taken hf ((svcRun_ranged i s).trans (needValid_fail hi))
  · exact taken hf ((svcLock_engineer i ht).trans (needValid_fail hi))
  · exact taken hf ((svcUnlock_engineer i ht).trans (needValid_fail hi))
  dsimp only
  have hv : s.recipes.slots[i] ≠ none := by rw [hi]; exact Option.some_ne_none r
  have hl := slotLocked_valid hi
  refine ⟨fun h => ?_, fun hd hu => ?_, fun ht => ⟨?_, fun h => ?_, fun hd hb => ?_, fun hz => ?_, fun hz => ?_, ?_, ?_⟩⟩
  · have ok : (!s.recipes.lockdown || slotLocked s i) = true := by
      rcases h with h | h <;> simp [h, hl]
    exact taken hf ((svcRun_ranged i s).trans ((needValid_pass hv).trans (require_pass ok)))
  · have fails : (!s.recipes.lockdown || slotLocked s i) = false := by simp [hd, hu, hl]
    exact taken hf ((svcRun_ranged i s).trans ((needValid_pass hv).trans (require_fail fails)))
  · refine taken hf ((svcLock_engineer i ht).trans ((needValid_pass hv).trans ?_))
    rw [setLock_valid true hi]
    have hfrozen : (s.recipes.frozen || !s.recipes.bypass) = if s.recipes.bypass then s.recipes.frozen else true := by
      cases s.recipes.bypass <;> simp
    rw [← hfrozen]
    rfl
  · have ok : (!locksEnforced s) = true := by rw [locksEnforced_not h]; rfl
    have h := (svcUnlock_engineer i ht).trans ((needValid_pass hv).trans (require_pass ok))
    rw [setLock_valid false hi] at h
    exact taken hf h
  · have fails : (!locksEnforced s) = false := by rw [locksEnforced_of hd hb]; rfl
    exact taken hf ((svcUnlock_engineer i ht).trans ((needValid_pass hv).trans (require_fail fails)))
  · exact taken hf ((needTier_pass ht).trans (require_pass (show (!s.recipes.frozen) = true by rw [hz]; rfl)))
  · exact taken hf ((needTier_pass ht).trans (require_fail (show (!s.recipes.frozen) = false by rw [hz]; rfl)))
  · refine ⟨s.recipes.frozen || !(lockedSlots s).isEmpty, taken hf (svcBypassOff_engineer ht), ?_⟩
    rw [Bool.or_eq_true, lockedSlots_nonempty]
  · exact taken hf (svcLockdown_engineer ht)

end Sys2Proof.RecipeTable
end

-- ==== The recipe table, proofs: what a request is answered ====
section
/-! The two ways in which a request is answered, its form and its minimum tier, and the request that is not taken (O55). -/

namespace Sys2Proof.RecipeTable

open Sys2Proof.Machine Sys2Proof.Safety Sys2Proof.Laws Sys2Proof.LoafTrack

/-! ## The two ways of an answer -/

/-- A request is answered with a refusal that changes nothing, or with a reply whose first line begins with "=" (R180). -/
def ProperReply (s : State) (r : State × Owed) : Prop :=
  (∃ code, r = (s, refusal code)) ∨ ∃ (x : Text) (xs : List Text) (b : Bool), r.2 = ⟨(0x3D :: x) :: xs, b⟩

/-- A service whose answers are proper in every state. -/
abbrev Proper (svc : Service) : Prop := ∀ s, ProperReply s (svc s)

theorem refused_reply {s : State} {code : Code} : ProperReply s (s, refusal code) := .inl ⟨code, rfl⟩

theorem accepted_reply {s t : State} {words : String} {fs : List Text} : ProperReply s (t, accepted words fs) :=
  .inr ⟨_, _, _, rfl⟩

theorem multiLine_reply {s t : State} {words : String} {header : List Text} {follow : List (List Text)} :
    ProperReply s (t, multiLine words header follow) :=
  .inr ⟨_, _, _, rfl⟩

theorem Proper.refuse {code : Code} : Proper (refuse code) := fun _ => refused_reply

theorem Proper.require {ok : State → Bool} {code : Code} {k : Service} (h : Proper k) : Proper (require ok code k) := fun s => by
  cases ho : ok s with
  | true => exact require_pass ho ▸ h s
  | false => exact require_fail ho ▸ refused_reply

/-- A service that answers a request of a minimum tier: properly, and below the tier with a refusal (R33). -/
structure Answers (least : Tier) (svc : Service) : Prop where
  proper : Proper svc
  below : ∀ s, tierRank (tier s) < tierRank least → ∃ code, svc s = (s, refusal code)

theorem Answers.refuse {least : Tier} {code : Code} : Answers least (refuse code) := ⟨Proper.refuse, fun _ _ => ⟨code, rfl⟩⟩

theorem Answers.require {least : Tier} {ok : State → Bool} {code : Code} {k : Service} (h : Answers least k) :
    Answers least (require ok code k) := by
  refine ⟨h.proper.require, fun s hs => ?_⟩
  cases ho : ok s with
  | true => exact require_pass ho ▸ h.below s hs
  | false => exact ⟨code, require_fail ho⟩

theorem Answers.form {α : Type} {least : Tier} {f : Form α} {k : α → Service} (h : ∀ a, Answers least (k a)) :
    Answers least (withForm f k) := by
  cases f with
  | none => exact Answers.refuse
  | some a => exact h a

theorem Answers.tier {least : Tier} {k : Service} (h : Proper k) : Answers least (needTier least k) := by
  refine ⟨h.require, fun s hs => ⟨.tier, require_fail ?_⟩⟩
  exact decide_eq_false (Nat.not_le_of_lt hs)

/-- No caller is below OPERATOR (R33). -/
theorem Answers.operator {svc : Service} (h : Proper svc) : Answers .operator svc := ⟨h, fun _ hs => absurd hs (Nat.not_lt_zero _)⟩

/-! ## The requests whose service looks at more than its checks -/

theorem svcReject_answers (f : Form Nat) : Answers .operator (svcReject f) := by
  refine .form fun tag => .require <| .tier fun s => ?_
  dsimp only
  split
  · exact refused_reply
  · split
    · exact accepted_reply
    · exact accepted_reply
    · exact accepted_reply
    all_goals exact refused_reply

theorem svcReadRecipe_answers (f : Form Nat) : Answers .operator (svcReadRecipe f) := by
  refine .form fun n => .require <| .tier fun s => ?_
  split
  · exact refused_reply
  · exact accepted_reply

theorem svcTryPlan_answers (f : Form PlanTrial) : Answers .operator (svcTryPlan f) := by
  refine .form fun w => .require <| .require <| .tier fun s => ?_
  dsimp only
  split
  · exact refused_reply
  · unfold trialReply
    split
    · exact multiLine_reply
    · exact multiLine_reply

theorem svcSetDistribution_answers (f : Form (Option Policy)) : Answers .setter (svcSetDistribution f) := by
  refine .form fun w => .require ?_
  cases w with
  | none => exact .refuse
  | some p => exact .tier fun _ => accepted_reply

theorem svcSetTyer_answers (f : Form TyerWrite) : Answers .setter (svcSetTyer f) := by
  refine .form fun w => .require <| .tier fun s => ?_
  dsimp only
  split
  · exact accepted_reply
  · exact accepted_reply

theorem svcSetSampling_answers (f : Form SamplingWrite) : Answers .engineer (svcSetSampling f) := by
  refine .form fun w => .require <| .require <| .require ?_
  cases w.mode with
  | none => exact .refuse
  | some m => exact .tier fun _ => accepted_reply

theorem svcSetAction_answers (f : Form ActionWrite) : Answers .engineer (svcSetAction f) := by
  refine .form fun w => ?_
  cases w.fault with
  | none => exact .refuse
  | some k =>
    refine .require ?_
    cases w.action with
    | none => exact .refuse
    | some a => exact .require <| .tier fun _ => accepted_reply

theorem svcSetMask_answers (f : Form MaskWrite) : Answers .setter (svcSetMask f) := by
  refine .form fun w => ?_
  cases w.name with
  | none => exact .refuse
  | some n => exact .require <| .require <| .tier fun _ => accepted_reply

theorem svcReadHistory_answers (f : Form Nat) : Answers .operator (svcReadHistory f) := by
  refine .form fun i => .require <| .operator fun s => ?_
  split
  · exact refused_reply
  · exact Proper.require (fun _ => multiLine_reply) s

theorem svcSetPoint_answers (f : Form PointWrite) : Answers .engineer (svcSetPoint f) := by
  refine .form fun w => ?_
  cases pointConfig w with
  | none => exact .refuse
  | some c => exact .tier <| .require <| .require <| .require <| .require <| .require fun _ => accepted_reply

/-! ## Every request -/

/-- Every request is served, at its minimum tier, by a service that answers it in one of the two ways. -/
theorem request_served (c : Instr) (h : isRequest c = true) :
    ∃ svc, Answers (requestTier c) svc ∧ ∀ s, exec c s = .next (serve svc s) := by
  cases c with
  | setInfeed f => exact ⟨svcSetInfeed f, .form fun _ => .tier fun _ => accepted_reply, fun _ => rfl⟩
  | setGeometry f =>
    exact ⟨svcSetGeometry f, .form fun _ => .require <| .tier <| .require <| .require fun _ => accepted_reply, fun _ => rfl⟩
  | reject f => exact ⟨_, svcReject_answers f, fun _ => rfl⟩
  | purge f => exact ⟨svcPurge f, .form fun _ => .tier <| .require fun _ => accepted_reply, fun _ => rfl⟩
  | readTrack f => exact ⟨svcReadTrack f, .form fun _ => .tier fun _ => multiLine_reply, fun _ => rfl⟩
  | writeRecipe f =>
    exact ⟨svcWriteRecipe f, .form fun _ => .require <| .tier <| .require <| .require <| .require fun _ => accepted_reply, fun _ => rfl⟩
  | erase f =>
    exact ⟨svcErase f, .form fun _ => .require <| .tier <| .require <| .require <| .require <| .require fun _ => accepted_reply,
      fun _ => rfl⟩
  | readRecipe f => exact ⟨_, svcReadRecipe_answers f, fun _ => rfl⟩
  | run f => exact ⟨svcRun f, .form fun _ => .require <| .tier <| .require <| .require fun _ => accepted_reply, fun _ => rfl⟩
  | lock f => exact ⟨svcLock f, .form fun _ => .require <| .tier <| .require fun _ => accepted_reply, fun _ => rfl⟩
  | unlock f => exact ⟨svcUnlock f, .form fun _ => .require <| .tier <| .require <| .require fun _ => accepted_reply, fun _ => rfl⟩
  | bypassOn f => exact ⟨svcBypassOn f, .form fun _ => .tier <| .require fun _ => accepted_reply, fun _ => rfl⟩
  | bypassOff f => exact ⟨svcBypassOff f, .form fun _ => .tier fun _ => accepted_reply, fun _ => rfl⟩
  | lockdown f => exact ⟨svcLockdown f, .form fun _ => .tier fun _ => accepted_reply, fun _ => rfl⟩
  | readAccess f => exact ⟨svcReadAccess f, .form fun _ => .tier fun _ => accepted_reply, fun _ => rfl⟩
  | tryPlan f => exact ⟨_, svcTryPlan_answers f, fun _ => rfl⟩
  | readSlicer f => exact ⟨svcReadSlicer f, .form fun _ => .tier fun _ => accepted_reply, fun _ => rfl⟩
  | loadBags f => exact ⟨svcLoadBags f, .form fun _ => .require <| .tier fun _ => accepted_reply, fun _ => rfl⟩
  | setDistribution f => exact ⟨_, svcSetDistribution_answers f, fun _ => rfl⟩
  | setStation f => exact ⟨svcSetStation f, .form fun _ => .require <| .require <| .tier fun _ => accepted_reply, fun _ => rfl⟩
  | setBagging f => exact ⟨svcSetBagging f, .form fun _ => .tier fun _ => accepted_reply, fun _ => rfl⟩
  | readStations f => exact ⟨svcReadStations f, .form fun _ => .tier fun _ => multiLine_reply, fun _ => rfl⟩
  | loadClips f => exact ⟨svcLoadClips f, .form fun _ => .require <| .require <| .tier fun _ => accepted_reply, fun _ => rfl⟩
  | setTyer f => exact ⟨_, svcSetTyer_answers f, fun _ => rfl⟩
  | readTyers f => exact ⟨svcReadTyers f, .form fun _ => .tier fun _ => multiLine_reply, fun _ => rfl⟩
  | cleanNow f => exact ⟨svcCleanNow f, .form fun _ => .tier <| .require fun _ => accepted_reply, fun _ => rfl⟩
  | setCrumb f => exact ⟨svcSetCrumb f, .form fun _ => .tier fun _ => accepted_reply, fun _ => rfl⟩
  | readCrumb f => exact ⟨svcReadCrumb f, .form fun _ => .tier fun _ => accepted_reply, fun _ => rfl⟩
  | setLimits f =>
    exact ⟨svcSetLimits f, .form fun _ => .require <| .require <| .require <| .tier fun _ => accepted_reply, fun _ => rfl⟩
  | setSampling f => exact ⟨_, svcSetSampling_answers f, fun _ => rfl⟩
  | setTrend f => exact ⟨svcSetTrend f, .form fun _ => .require <| .require <| .tier fun _ => accepted_reply, fun _ => rfl⟩
  | readChannels f => exact ⟨svcReadChannels f, .form fun _ => .tier fun _ => multiLine_reply, fun _ => rfl⟩
  | start f =>
    exact ⟨svcStart f, .form fun _ => .tier <| .require <| .require <| .require <| .require <| .require <| .require fun _ =>
      accepted_reply, fun _ => rfl⟩
  | stopDrain f => exact ⟨svcStopDrain f, .form fun _ => .tier <| .require fun _ => accepted_reply, fun _ => rfl⟩
  | stopNow f => exact ⟨svcStopNow f, .form fun _ => .tier <| .require fun _ => accepted_reply, fun _ => rfl⟩
  | setAction f => exact ⟨_, svcSetAction_answers f, fun _ => rfl⟩
  | clearFaults f => exact ⟨svcClearFaults f, .form fun _ => .tier fun _ => accepted_reply, fun _ => rfl⟩
  | setMask f => exact ⟨_, svcSetMask_answers f, fun _ => rfl⟩
  | readStatus f => exact ⟨svcReadStatus f, .form fun _ => .tier fun _ => multiLine_reply, fun _ => rfl⟩
  | readFaults f => exact ⟨svcReadFaults f, .form fun _ => .tier fun _ => multiLine_reply, fun _ => rfl⟩
  | reset f => exact ⟨svcReset f, .form fun _ => .tier fun _ => .inr ⟨_, _, true, rfl⟩, fun _ => rfl⟩
  | setClock f => exact ⟨svcSetClock f, .form fun _ => .require <| .tier fun _ => accepted_reply, fun _ => rfl⟩
  | readClock f => exact ⟨svcReadClock f, .form fun _ => .tier fun _ => accepted_reply, fun _ => rfl⟩
  | setShifts f => exact ⟨svcSetShifts f, .form fun _ => .require <| .require <| .tier fun _ => accepted_reply, fun _ => rfl⟩
  | closeShift f => exact ⟨svcCloseShift f, .form fun _ => .tier fun _ => accepted_reply, fun _ => rfl⟩
  | readTotals f => exact ⟨svcReadTotals f, .form fun _ => .tier fun _ => multiLine_reply, fun _ => rfl⟩
  | readHistory f => exact ⟨_, svcReadHistory_answers f, fun _ => rfl⟩
  | setPoint f => exact ⟨_, svcSetPoint_answers f, fun _ => rfl⟩
  | takeEdges f => exact ⟨svcTakeEdges f, .form fun _ => .tier fun _ => accepted_reply, fun _ => rfl⟩
  | writeOut f => exact ⟨svcWriteOut f, .form fun _ => .require <| .tier <| .require fun _ => accepted_reply, fun _ => rfl⟩
  | readPoints f => exact ⟨svcReadPoints f, .form fun _ => .tier fun _ => multiLine_reply, fun _ => rfl⟩
  | setReports f => exact ⟨svcSetReports f, .form fun _ => .require <| .require <| .tier fun _ => accepted_reply, fun _ => rfl⟩
  | ident f => exact ⟨svcIdent f, .form fun _ => .tier fun _ => accepted_reply, fun _ => rfl⟩
  | _ => exact (Bool.false_ne_true h).elim

/-- A request in a form that its line of the command set does not admit is refused by every service (R179). -/
theorem bareForms_malformed (s : State) : ∀ c ∈ bareTrackForms ++ bareMachineForms ++ bareLineForms,
    exec c s = .next (serve (refuse .malformed) s) := by
  have h : (bareTrackForms ++ bareMachineForms ++ bareLineForms).map (exec · s) =
      (bareTrackForms ++ bareMachineForms ++ bareLineForms).map fun _ => .next (serve (refuse .malformed) s) := rfl
  exact List.map_inj_left.mp h

/-- A request that the link does not take gets the pending answer BUSY, unless one is already held (R180). -/
theorem serve_busy (svc : Service) {s : State} (h : ¬Free s) :
    serve svc s = { s with link := { s.link with pendingAnswer := s.link.pendingAnswer.or (some .busy) } } := by
  have hfree : linkFree s.link = false := by
    unfold linkFree
    rw [← Bool.not_eq_true, Bool.and_eq_true, Option.isNone_iff_eq_none, Option.isNone_iff_eq_none]
    exact h
  have hlater : answerLater .busy s.link = { s.link with pendingAnswer := s.link.pendingAnswer.or (some .busy) } := by
    unfold answerLater
    cases hp : s.link.pendingAnswer with
    | none => rfl
    | some code =>
      dsimp only [Option.some_or]
      rw [← hp]
  unfold serve
  rw [if_neg (by rw [hfree]; exact Bool.false_ne_true), hlater]
  rfl

/-- Settles O55: the two ways of an answer, the form and the tier of every request, and BUSY (R33, R179, R180). -/
theorem refusalsChangeNothing : Obligations.RefusalsChangeNothing := by
  refine ⟨fun c s hc hf => ?_, fun c hc s hf => (bareForms_malformed s c hc).trans (taken hf rfl), fun c s hc hf ht => ?_,
    fun c s hc hf => ?_⟩
  · obtain ⟨svc, hsvc, hexec⟩ := request_served c hc
    have ht : exec c s = .next (answered (svc s).2 (svc s).1) := (hexec s).trans (taken hf rfl)
    rcases hsvc.proper s with ⟨code, h⟩ | ⟨x, xs, b, h⟩
    · exact .inl ⟨code, by rw [ht, h]⟩
    · exact .inr ⟨x, xs, b, (svc s).1, by rw [ht, h]⟩
  · obtain ⟨svc, hsvc, hexec⟩ := request_served c hc
    obtain ⟨code, h⟩ := hsvc.below s ht
    exact ⟨code, (hexec s).trans (taken hf h)⟩
  · obtain ⟨svc, _, hexec⟩ := request_served c hc
    rw [hexec, serve_busy svc hf]

end Sys2Proof.RecipeTable
end

-- ==== The switch inputs, proofs: a condition fault at its event, and what follows it ====
section
/-! A condition fault that comes or goes with an input, its action on the line, and the suspension that TRAY_FULL begins (O50). -/

namespace Sys2Proof.SwitchInputs

open Sys2Proof.Machine Sys2Proof.Safety Sys2Proof.Laws Sys2Proof.LoafTrack

/-! ## The input -/

/-- An edge at a terminal changes the points and the count of free values alone. -/
theorem driveInput_driven (f : Func) (b : Bool) (s : State) : ∃ ps n, driveInput f b s = { s with points := ps, fresh := n } :=
  ⟨_, _, driveInput_eq f b s⟩

theorem isHeld_driveInput (f g : Func) (b : Bool) (s : State) : isHeld (driveInput f b s) g = isHeld s g := by
  unfold driveInput
  split
  · rfl
  · unfold isHeld
    rw [holder_setTerminal]

/-- A held function reads the level its terminal is driven to (R170). -/
theorem inputHigh_driven {f : Func} (b : Bool) {s : State} (h : Held s f) : inputHigh (driveInput f b s) f = b := by
  obtain ⟨p, hp⟩ := Option.isSome_iff_exists.mp h
  have hd : driveInput f b s = setTerminal p (if b then .high else .low) s := by
    unfold driveInput
    rw [hp]
  have hh : inputHigh (setTerminal p (if b then .high else .low) s) f =
      terminalLevel (setTerminal p (if b then .high else .low) s).points[p] := by
    unfold inputHigh
    rw [holder_setTerminal, hp]
  rw [hd, hh, setTerminal_points, if_pos rfl]
  cases b <;> rfl

theorem inputs_same {s t : State} (h : t.points = s.points) (f : Func) : isHeld t f = isHeld s f ∧ inputHigh t f = inputHigh s f :=
  inputs_of_points (fun p => by rw [h]; exact ⟨rfl, rfl⟩) f

theorem inputEdge_loose {f : Func} {b : Bool} {owner : State → State} {s : State} (h : ¬Held s f) : inputEdge f b owner s = s :=
  if_neg h

/-! ## The transition of a condition fault -/

/-- The entry of a fault has become `e`, with the report `r`, and its action has not been applied yet (R144). -/
structure Turned (k : FaultKind) (e : FaultEntry) (r : Report) (u v : State) : Prop where
  flagged : Flagged u v
  entry : faultEntry v k = e
  other : ∀ j, j ≠ k → faultEntry v j = faultEntry u j
  hears : Hears r 1 u v

theorem faultOccurs_turned (k : FaultKind) (u : State) :
    Turned k { faultEntry u k with
        state := .active, count := min ((faultEntry u k).count + 1) 255, lastStamp := some (eventStamp u), lastLoaf := none }
      (.fault k .active (min ((faultEntry u k).count + 1) 255)) u (faultOccurs k .active none u) :=
  ⟨faultOccurs_flagged k .active none u, faultOccurs_entry k .active none u, fun j h => faultOccurs_other k j .active none u (Ne.symm h),
    faultOccurs_hears k .active none u⟩

theorem faultMoves_turned (k : FaultKind) (u : State) : Turned k { faultEntry u k with state := .latched }
    (.fault k .latched (faultEntry u k).count) u (faultMoves k .latched u) :=
  ⟨faultMoves_flagged k .latched u, faultMoves_entry k .latched u, fun j h => faultMoves_other k j .latched u (Ne.symm h),
    Hears.of_same (report_hears (.fault k .latched (faultEntry u k).count) (setFault k { faultEntry u k with state := .latched } u)) rfl⟩

/-- The first-fault record at the occurrence of a condition fault (R149). -/
theorem faultOccurs_first {k : FaultKind} {u : State} (h : ∀ j, (faultEntry u j).state = .inactive) :
    (faultOccurs k .active none u).sup.firstFault = some ⟨k, eventStamp u, none, u.sup.line⟩ := by
  show (report _ (setFault k _ (recordFirst k none u))).sup.firstFault = _
  rw [(report_noticed _ _).firstFault]
  show (recordFirst k none u).sup.firstFault = _
  unfold recordFirst
  rw [if_pos ((noFaultStands_iff u).mpr h)]
  rfl

section
variable {k : FaultKind} {e : FaultEntry} {r : Report} {u v : State}

/-- The action of the entry is applied, and the belt settled. -/
theorem Turned.acts (h : Turned k e r u v) : faultActs k v = settleBelt (applyToLine e.action v) := by
  rw [← h.entry]
  rfl

theorem Turned.beltRuns (h : Turned k e r u v) (hk : k ≠ .beltStall) (hb : BeltRuns u) : BeltRuns v := by
  unfold BeltRuns
  rw [h.other _ (Ne.symm hk)]
  exact hb

/-- Where BELT_STALL is not ACTIVE the action is all that is applied. -/
theorem Turned.acts_runs (h : Turned k e r u v) (hk : k ≠ .beltStall) (hb : BeltRuns u) : faultActs k v = applyToLine e.action v := by
  rw [h.acts]
  refine settleBelt_idle _ ?_
  rw [(applyToLine_calm _ _).entry]
  exact h.beltRuns hk hb

theorem Turned.acts_beltRuns (h : Turned k e r u v) (hk : k ≠ .beltStall) (hb : BeltRuns u) : BeltRuns (faultActs k v) := by
  unfold BeltRuns
  rw [h.acts_runs hk hb, (applyToLine_calm _ _).entry]
  exact h.beltRuns hk hb

theorem Turned.enters (h : Turned k e r u v) (ha : e.action = .halt) (hl : u.sup.line ≠ .halted) :
    faultActs k v = settleBelt (enterHalted v) := by
  have hv : v.sup.line ≠ .halted := fun c => hl (h.flagged.line.symm.trans c)
  rw [h.acts, ha, show applyToLine .halt v = enterHalted v from if_neg hv]

/-- The action HALT takes a line that is not HALTED into the halt (R146). -/
theorem Turned.halts_from (h : Turned k e r u v) (ha : e.action = .halt) (hl : u.sup.line ≠ .halted) : HaltedFrom u (faultActs k v) := by
  rw [h.enters ha hl]
  have hw := settleBelt_flagged_halted (enterHalted_spec v).2.1
  have hu := h.flagged
  exact haltedFrom_before
    (haltedFrom_after (enterHalted_from v) hw.line hw.track hw.head hw.stations hw.tyers hw.crumb hw.shift)
    hu.head (headLoaf_same hu.head (congrArg Track.loaves hu.track)) hu.stations hu.tyers hu.crumb (by rw [hu.shift]) (by rw [hu.shift])

theorem Turned.halts (h : Turned k e r u v) (ha : e.action = .halt) : (faultActs k v).sup.line = .halted := by
  rw [h.acts, ha]
  exact settleBelt_halted _ (applyToLine_halt v)

end

/-! ## The reports of a halt -/

/-- An aborted sweep is reported with its reason and the load (R120). -/
theorem abortSweep_hears {s : State} (h : s.crumb.sweep ≠ none) :
    Hears (.sweep (s.crumb.pending.getD .command) .aborted s.crumb.trayLoad) 1 s (abortSweep s) := by
  unfold abortSweep
  cases hs : s.crumb.sweep with
  | none => exact absurd hs h
  | some w => exact Hears.of_same (report_hears _ _) rfl

theorem haltTold_reacts (s : State) : Reacts 1 s (haltTold s) := by
  rw [← haltTold_eq]
  exact (setLine_reacts .halted s).trans (countHalt_reacts _)

/-- Up to the abort of a sweep a halt leaves the crumb block as it is, but for the air knife. -/
theorem stationsHalt_crumb (s : State) :
    ∃ air, (stationHalts .b (stationHalts .a (headHalts (haltTold s)))).crumb = { s.crumb with airKnife := air } := by
  obtain ⟨air, hhead⟩ := (headHalts_halts (haltTold s)).crumb
  obtain ⟨_, _, _, _, hstations, _⟩ := stationsHalt_spec (headHalts (haltTold s))
  exact ⟨air, hstations.trans hhead⟩

theorem enterHalted_hears_sweep {s : State} (h : s.crumb.sweep ≠ none) :
    Hears (.sweep (s.crumb.pending.getD .command) .aborted s.crumb.trayLoad) 2 s (enterHalted s) := by
  obtain ⟨air, hcrumb⟩ := stationsHalt_crumb s
  have before := (haltTold_reacts s).trans <| (headHalts_reacts _).trans <| (stationHalts_reacts .a _).trans (stationHalts_reacts .b _)
  have habort := abortSweep_hears (s := stationHalts .b (stationHalts .a (headHalts (haltTold s)))) (by rw [hcrumb]; exact h)
  rw [hcrumb] at habort
  unfold enterHalted
  rw [haltTold_eq]
  exact (before.tells.hears habort).trans (assertHold_reacts _).tells

/-! ## What follows the action -/

/-- What may follow a condition fault's action at its event: the fault table but for BELT_STALL's entry and the first-fault record stand, a
HALTED line stays, and where BELT_STALL is not ACTIVE every line does, with its hold; a few reports may join the queue. -/
structure Follows (w z : State) : Prop where
  entry : ∀ k, k ≠ .beltStall → faultEntry z k = faultEntry w k
  first : z.sup.firstFault = w.sup.firstFault
  halted : w.sup.line = .halted → z.sup.line = .halted
  line : BeltRuns w → z.sup.line = w.sup.line
  hold : BeltRuns w → w.sup.line ≠ .running → w.track.infeedHold = true → z.track.infeedHold = true
  tells : Tells 3 w z

theorem Follows.refl (w : State) : Follows w w := ⟨fun _ _ => rfl, rfl, id, fun _ => rfl, fun _ _ h => h, Tells.refl w 3⟩

/-- What follows depends on supervision, the link and the hold alone. -/
theorem Follows.of_same {w v z : State} (h : Follows v z) (hs : v.sup = w.sup) (hl : v.link = w.link)
    (hh : v.track.infeedHold = w.track.infeedHold) : Follows w z := by
  obtain ⟨entry, first, halted, line, hold, tells⟩ := h
  have hb : BeltRuns w → BeltRuns v := beltRuns_of_sup hs
  rw [hs] at first halted line hold
  rw [hh] at hold
  exact ⟨fun k hk => (entry k hk).trans (faultEntry_of_sup hs k), first, halted, line ∘ hb, hold ∘ hb, tells.of_same hl⟩

theorem Follows.same {w v : State} (hs : v.sup = w.sup) (hl : v.link = w.link) (hh : v.track.infeedHold = w.track.infeedHold) :
    Follows w v := (Follows.refl v).of_same hs hl hh

theorem assertHold_entry (s : State) (k : FaultKind) : faultEntry (assertHold s) k = faultEntry s k := rfl

theorem reviewHold_follows (s : State) : Follows s (reviewHold s) where
  entry k hk := by
    unfold reviewHold
    split
    · exact (settleBelt_entry _ k hk).trans (assertHold_entry s k)
    · rfl
    · rfl
  first := (reviewHold_raised s).first
  halted h := by
    unfold reviewHold
    split
    · exact settleBelt_halted _ h
    · exact h
    · exact h
  line hb := by rw [reviewHold_eq s hb]; rfl
  hold _ hl _ := by rw [reviewHold_hold, holdOwed_still s hl]
  tells := by
    unfold reviewHold
    split
    · exact (Reacts.trans (assertHold_reacts s) (settleBelt_reacts _)).tells
    · exact Tells.of_link rfl 3
    · exact Tells.refl s 3

/-- The entry into PASSING moves the head, the air knife and measurement alone (R71). -/
theorem enterPassing_leaves (r : Loaf) (s : State) : (enterPassing r s).sup = s.sup ∧ (enterPassing r s).link = s.link ∧
    (enterPassing r s).track = s.track ∧ ∃ air, (enterPassing r s).crumb = { s.crumb with airKnife := air } := by
  unfold enterPassing
  obtain ⟨_, _, _, _, air, _, h⟩ := knifeTo_off (s.setHead { s.head with
    state := .passing, nextCut := none, target := ejectTargetOf s r, pausedFrom := none })
  rw [h]
  exact ⟨rfl, rfl, rfl, air, rfl⟩

/-- An admission, up to the review of the hold, leaves supervision, the link, the hold, the sweep and the pending alone. -/
theorem takeLoaf_reviewed (r : Loaf) (s : State) : ∃ v, takeLoaf r s = reviewHold v ∧ v.sup = s.sup ∧ v.link = s.link ∧
    v.track.infeedHold = s.track.infeedHold ∧ v.crumb.sweep = s.crumb.sweep ∧ v.crumb.pending = s.crumb.pending := by
  unfold takeLoaf
  refine ⟨_, rfl, ?_⟩
  split
  · obtain ⟨hs, hl, ht, air, hc⟩ := enterPassing_leaves r _
    rw [hs, hl, ht, hc]
    exact ⟨rfl, rfl, rfl, rfl, rfl⟩
  · exact ⟨rfl, rfl, rfl, rfl, rfl⟩

theorem takeLoaf_follows (r : Loaf) (s : State) : Follows s (takeLoaf r s) := by
  obtain ⟨v, he, hs, hl, hh, _, _⟩ := takeLoaf_reviewed r s
  rw [he]
  exact (reviewHold_follows v).of_same hs hl hh

theorem askSweep_crumb (reason : SweepReason) (s : State) : ∃ c, askSweep reason s = s.setCrumb c := by
  unfold askSweep
  split
  · exact ⟨s.crumb, rfl⟩
  · obtain ⟨c, h⟩ := trySweep_crumb (s.setCrumb { s.crumb with pending := some reason })
    exact ⟨c, h⟩

theorem testAdmission_follows (s : State) : Follows s (testAdmission s) := by
  unfold testAdmission
  split
  · split
    · exact Follows.refl s
    · split
      · exact Follows.refl s
      · split
        · exact takeLoaf_follows _ s
        · exact takeLoaf_follows _ s
        · split
          · obtain ⟨c, h⟩ := askSweep_crumb .changeover s
            rw [h]
            exact Follows.same rfl rfl rfl
          · exact Follows.refl s
  · exact Follows.refl s

/-- A line that stands admits nothing (R62). -/
theorem testAdmission_stands {s : State} (h : moving s = false) : testAdmission s = s := by
  unfold testAdmission admissionOpen
  rw [if_neg (by rw [h]; exact Bool.false_ne_true)]

/-! ## The beginning of a suspension -/

/-- With no sweep running a CHANGEOVER pending is cleared, and the admission test is made (R116). -/
theorem suspensionBegins_eq {s : State} (h : s.crumb.sweep = none) : suspensionBegins s = testAdmission (s.setCrumb { s.crumb with
    pending := if s.crumb.pending = some .changeover then none else s.crumb.pending }) := by
  unfold suspensionBegins
  rw [h, if_neg (show ¬(none : Option Sweep).isSome = true from Bool.false_ne_true)]
  split <;> rfl

theorem suspensionBegins_follows (s : State) : Follows s (suspensionBegins s) := by
  cases hs : s.crumb.sweep with
  | none =>
    rw [suspensionBegins_eq hs]
    exact (testAdmission_follows _).of_same rfl rfl rfl
  | some w =>
    rw [show suspensionBegins s = s from if_pos (by rw [hs]; rfl)]
    exact Follows.refl s

theorem sweepsSuspended_of_faults {s t : State} (h : t.sup.faults = s.sup.faults) : sweepsSuspended t = sweepsSuspended s := by
  unfold sweepsSuspended faultStands faultEntry
  rw [h]

/-- Under a suspension crumb control holds no record back while no sweep runs (R114, R116). -/
theorem crumbAnswer_suspended {s : State} (r : Loaf) (hs : s.crumb.sweep = none) (hu : sweepsSuspended s = true) :
    crumbAnswer s r = if changeoverTest s r then .takeNoClean else .take := by
  unfold crumbAnswer
  simp [hs, hu]

/-- Under a suspension the admission test begins no sweep and leaves the pending as it is. -/
theorem testAdmission_crumb {s : State} (hs : s.crumb.sweep = none) (hu : sweepsSuspended s = true) (hb : BeltRuns s) :
    (testAdmission s).crumb.sweep = none ∧ (testAdmission s).crumb.pending = s.crumb.pending := by
  have htake : ∀ r : Loaf, (takeLoaf r s).crumb.sweep = none ∧ (takeLoaf r s).crumb.pending = s.crumb.pending := fun r => by
    obtain ⟨v, he, hsup, _, _, hsweep, hpending⟩ := takeLoaf_reviewed r s
    rw [he, reviewHold_eq v (beltRuns_of_sup hsup hb)]
    exact ⟨hsweep.trans hs, hpending⟩
  unfold testAdmission
  split
  · split
    · exact ⟨hs, rfl⟩
    · rename_i r _
      split
      · exact ⟨hs, rfl⟩
      · rw [crumbAnswer_suspended r hs hu]
        cases changeoverTest s r
        · exact htake r
        · exact htake (r.withMark .noClean)
  · exact ⟨hs, rfl⟩

end Sys2Proof.SwitchInputs
end

-- ==== The switch inputs, proofs: the guard door, the tray switch and the keys ====
section
/-! The guard door's and the tray switch's reviews, crumb control at the beginning of a suspension, and the key inputs (O50). -/

namespace Sys2Proof.SwitchInputs

open Sys2Proof.Machine Sys2Proof.Safety Sys2Proof.Laws Sys2Proof.LoafTrack

/-! ## The two reviews -/

/-- What a review of a condition fault makes of the state `d` after the input's edge: the condition `b` is taken, and what follows it. -/
structure Reviewed (k : FaultKind) (b : Bool) (d z : State) : Prop where
  belt : k ≠ .beltStall
  steady : Steady d z
  follows : Follows (setCondition k b d) z
  leaves : b = false → z = setCondition k false d
  still : (setCondition k b d).sup.line = .halted →
    k = .guardOpen ∨ d.crumb.sweep ≠ none ∨ (setCondition k b d).crumb.pending ≠ some .changeover → z = setCondition k b d

theorem reviewGuard_reviewed {b : Bool} {d : State} (h : guardCondition d = b) : Reviewed .guardOpen b d (reviewGuard d) := by
  have he : reviewGuard d = setCondition .guardOpen b d := by
    unfold reviewGuard
    rw [h]
  refine ⟨nofun, reviewGuard_steady d, ?_, ?_, fun _ _ => he⟩
  · rw [he]
    exact Follows.refl _
  · rintro rfl
    exact he

theorem suspended_of_tray {s : State} (h : (faultEntry s .trayFull).state ≠ .inactive) : sweepsSuspended s = true :=
  (suspended_iff s).mpr (.inl h)

/-- A HALTED line admits nothing, and with no CHANGEOVER pending a suspension then changes nothing. -/
theorem suspensionBegins_halted {s : State} (hl : s.sup.line = .halted) (hp : s.crumb.pending ≠ some .changeover) :
    suspensionBegins s = s := by
  unfold suspensionBegins
  rw [if_neg hp]
  split
  · rfl
  · exact testAdmission_stands (standing_of (.inr hl))

theorem reviewTray_reviewed {b : Bool} {d : State} (h : inputHigh d .trayFull = b) : Reviewed .trayFull b d (reviewTray d) := by
  have he : reviewTray d = if !sweepsSuspended d && sweepsSuspended (setCondition .trayFull b d) && d.crumb.sweep.isNone then
      suspensionBegins (setCondition .trayFull b d) else setCondition .trayFull b d := by
    unfold reviewTray
    rw [h]
  refine ⟨nofun, reviewTray_steady d, ?_, ?_, fun hl hp => ?_⟩
  · rw [he]
    split
    · exact suspensionBegins_follows _
    · exact Follows.refl _
  · rintro rfl
    rw [he]
    refine if_neg fun hc => ?_
    simp only [Bool.and_eq_true, Bool.not_eq_true'] at hc
    obtain ⟨⟨hd, hw⟩, _⟩ := hc
    have hn : (faultEntry d .trayFull).state ≠ .active := fun ha => by
      rw [suspended_of_tray (by rw [ha]; nofun)] at hd
      cases hd
    rw [setCondition_absent hn, hd] at hw
    cases hw
  · rw [he]
    split
    · rename_i hc
      simp only [Bool.and_eq_true, Option.isNone_iff_eq_none] at hc
      rcases hp with hp | hp | hp
      · cases hp
      · exact absurd hc.2 hp
      · exact suspensionBegins_halted hl hp
    · rfl

/-! ## The clauses of a transition -/

section
variable {k : FaultKind} {b : Bool} {e : FaultEntry} {r : Report} {d v z : State}

/-- The condition that comes, or goes, is the transition of the entry with its action. -/
theorem setCondition_turns (h : b = true ↔ (faultEntry d k).state ≠ .active) : ∃ e r v, Turned k e r d v ∧
    e.action = (faultEntry d k).action ∧ setCondition k b d = faultActs k v := by
  cases b with
  | true => exact ⟨_, _, _, faultOccurs_turned k d, rfl, setCondition_comes (h.mp rfl)⟩
  | false =>
    have ha : (faultEntry d k).state = .active := Decidable.of_not_not fun hn => Bool.false_ne_true (h.mpr hn)
    exact ⟨_, _, _, faultMoves_turned k d, rfl, setCondition_leaves ha⟩

theorem Reviewed.entry (h : Reviewed k b d z) (ht : Turned k e r d v) (hc : setCondition k b d = faultActs k v) :
    faultEntry (finish z) k = e := by
  rw [(finish_calm z).entry, h.follows.entry k h.belt, hc, faultActs_entry k k v h.belt, ht.entry]

theorem Reviewed.first (h : Reviewed k b d z) (hc : setCondition k b d = faultActs k v) :
    (finish z).sup.firstFault = v.sup.firstFault := by
  rw [(finish_calm z).first, h.follows.first, hc, (faultActs_raised k v).first]

theorem Reviewed.halts (h : Reviewed k b d z) (ht : Turned k e r d v) (hc : setCondition k b d = faultActs k v)
    (ha : e.action = .halt) : (finish z).sup.line = .halted := by
  rw [(finish_flagged z).line]
  refine h.follows.halted ?_
  rw [hc]
  exact ht.halts ha

/-- The halt at the end of an event at which nothing follows the action. -/
theorem halts_finished (ht : Turned k e r d v) (ha : e.action = .halt) (hl : d.sup.line ≠ .halted) (hz : z = faultActs k v) :
    HaltedFrom d (finish z) := by
  have hf := finish_flagged z
  rw [hz] at hf ⊢
  exact haltedFrom_after (ht.halts_from ha hl) hf.line hf.track hf.head hf.stations hf.tyers hf.crumb hf.shift

theorem Reviewed.halts_from (h : Reviewed k b d z) (ht : Turned k e r d v) (hc : setCondition k b d = faultActs k v)
    (ha : e.action = .halt) (hl : d.sup.line ≠ .halted)
    (hp : k = .guardOpen ∨ d.crumb.sweep ≠ none ∨ d.crumb.pending ≠ some .changeover) : HaltedFrom d (finish z) := by
  have hw := ht.halts_from ha hl
  refine halts_finished ht ha hl ?_
  rw [← hw.crumb.1] at hp
  rw [← hc] at hw hp ⊢
  exact h.still hw.line hp

/-- What is reported up to the settling of the belt waits in the queue of a busy transmitter at the event's end. -/
theorem Reviewed.told {q : Report} {n : Nat} (h : Reviewed k b d z) (hc : setCondition k b d = faultActs k v)
    (hq : Hears q n d (faultActs k v)) (hn : n ≤ 12) (hs : Listening d) : q ∈ (finish z).link.queue := by
  have hf := h.follows.tells
  rw [hc] at hf
  exact (hq.trans hf).finished (by omega) hs

theorem Reviewed.told_turn (h : Reviewed k b d z) (ht : Turned k e r d v) (hc : setCondition k b d = faultActs k v) (hs : Listening d) :
    r ∈ (finish z).link.queue :=
  h.told hc (ht.hears.trans (faultActs_reacts k v).tells) (by omega) hs

/-- What is reported at the entry into HALTED waits in the queue. -/
theorem Reviewed.told_halt {q : Report} (h : Reviewed k b d z) (ht : Turned k e r d v) (hc : setCondition k b d = faultActs k v)
    (ha : e.action = .halt) (hl : d.sup.line ≠ .halted) (hq : Hears q 2 v (enterHalted v)) (hs : Listening d) :
    q ∈ (finish z).link.queue := by
  refine h.told (n := 1 + 2 + 3) hc ?_ (by omega) hs
  rw [ht.enters ha hl]
  exact (ht.hears.toTells.hears hq).trans (settleBelt_reacts _).tells

theorem Reviewed.acted (h : Reviewed k b d z) (ht : Turned k e r d v) (hc : setCondition k b d = faultActs k v) (hb : BeltRuns d) :
    ActedOnLine e.action d (finish z) := by
  have hw := ht.acts_runs h.belt hb
  have hf := h.follows
  have hbw := ht.acts_beltRuns h.belt hb
  rw [hc] at hf
  have hline : (finish z).sup.line = (applyToLine e.action v).sup.line := by
    rw [(finish_flagged z).line, hf.line hbw, hw]
  have hv := ht.flagged
  refine ⟨fun ha => ?_, fun ha hr => ?_, fun ha => ?_, fun hs hne => ?_⟩
  · rw [hline, ha, applyToLine_halt]
  · have hd : faultActs k v = enterDraining v := by rw [hw, ha, applyToLine_drains (hv.line.trans hr)]
    obtain ⟨hlv, hhv⟩ := enterDraining_line v
    have hstill : (enterDraining v).sup.line ≠ .running := by
      rw [hlv]
      split <;> nofun
    rw [hline, ← hw, hd, hlv, hv.track]
    refine ⟨rfl, (finish_flagged z).track ▸ hf.hold hbw ?_ ?_⟩
    · rw [hd]
      exact hstill
    · rw [hd]
      exact hhv
  · rw [hline, applyToLine_stays (by rw [hv.line]; exact ha), hv.line]
  · rw [hline] at hne ⊢
    rw [← hv.line] at hne
    refine h.told (n := 1 + 2) hc ?_ (by omega) hs
    rw [hw]
    exact ht.hears.toTells.hears (applyToLine_hears hne)

end

/-! ## From the state before the edge -/

section
variable {ps : Vector Point 24} {n : Nat} {s t : State}

theorem haltedFrom_driven (h : HaltedFrom { s with points := ps, fresh := n } t) : HaltedFrom s t :=
  haltedFrom_before h rfl (fun r hr => ⟨r, hr, rfl, rfl⟩) rfl rfl rfl rfl rfl

theorem actedOnLine_driven {a : Action} (h : ActedOnLine a { s with points := ps, fresh := n } t) : ActedOnLine a s t :=
  ⟨h.halts, h.drains, h.stays, fun hs => h.told ⟨hs.busy, hs.empty, hs.every⟩⟩

end

/-! ## The two switches -/

/-- A row of the switches: nothing where no point holds the function, and else the review of its condition at the end of the event. -/
def SwitchRow (high : Bool) (s : State) (row : FaultKind × Instr × Func × Bool) : Prop :=
  (¬Held s row.2.2.1 → exec row.2.1 s = .next s) ∧
    (Held s row.2.2.1 → ∃ z, exec row.2.1 s = .next (finish z) ∧ Reviewed row.1 row.2.2.2 (driveInput row.2.2.1 high s) z)

theorem guardRow (high : Bool) (s : State) : SwitchRow high s (.guardOpen, .guardDoorChange high, .guardDoor, !high) := by
  refine ⟨fun h => congrArg Host.Outcome.next (inputEdge_loose h), fun h => ⟨_, congrArg Host.Outcome.next (inputEdge_held h),
    reviewGuard_reviewed ?_⟩⟩
  unfold guardCondition
  rw [isHeld_driveInput, inputHigh_driven high h, show isHeld s .guardDoor = true from h, Bool.true_and]

theorem trayRow (high : Bool) (s : State) : SwitchRow high s (.trayFull, .trayFullChange high, .trayFull, high) :=
  ⟨fun h => congrArg Host.Outcome.next (inputEdge_loose h), fun h => ⟨_, congrArg Host.Outcome.next (inputEdge_held h),
    reviewTray_reviewed (inputHigh_driven high h)⟩⟩

/-! ## Crumb control at the beginning of a suspension -/

/-- No sweep starts while one runs, or under a suspension (R117). -/
theorem trySweep_idle {s : State} (h : s.crumb.sweep ≠ none ∨ sweepsSuspended s = true) : trySweep s = s := by
  refine if_neg fun hm => ?_
  unfold sweepMayStart at hm
  simp only [Bool.and_eq_true, Bool.not_eq_true', Option.isNone_iff_eq_none] at hm
  obtain ⟨⟨⟨⟨⟨⟨_, hs⟩, hu⟩, _⟩, _⟩, _⟩, _⟩ := hm
  rcases h with h | h
  · exact h hs
  · rw [h] at hu
    cases hu

theorem headStops_crumb (s : State) : ∃ air, (headStops s).crumb = { s.crumb with airKnife := air } := by
  obtain ⟨_, _, _, _, air, _, h⟩ := knifeTo_off s
  have hk : (knifeTo false s).crumb = { s.crumb with airKnife := air } := by rw [h]
  refine ⟨air, ?_⟩
  unfold headStops
  simp only
  split <;> exact hk

theorem stationStops_crumb (x : Station) (s : State) : (stationStops x s).crumb = s.crumb := by
  unfold stationStops
  simp only
  split <;> rfl

/-- The end of DRAINING aborts no sweep (R120). -/
theorem enterStopped_crumb (s : State) : ∃ air, (enterStopped false s).crumb = { s.crumb with airKnife := air } := by
  obtain ⟨air, h⟩ := headStops_crumb (setLine .stopped s)
  refine ⟨air, ?_⟩
  show (stationStops .b (stationStops .a (headStops (setLine .stopped s)))).crumb = _
  rw [stationStops_crumb, stationStops_crumb, h, show (setLine .stopped s).crumb = s.crumb from (report_noticed _ _).crumb]

theorem enterDraining_idle {s : State} (h : s.crumb.sweep ≠ none ∨ sweepsSuspended s = true) :
    enterDraining s = trackEmpty (assertHold (setLine .draining s)) := by
  have hc : (assertHold (setLine .draining s)).crumb = s.crumb := (report_noticed _ _).crumb
  have hu : sweepsSuspended (assertHold (setLine .draining s)) = sweepsSuspended s :=
    sweepsSuspended_of_faults ((setLine_calm .draining s).trans (assertHold_calm _)).faults
  unfold enterDraining
  rw [trySweep_idle (by rw [hc, hu]; exact h)]

/-- What an action leaves of the sweep and the pending, where no sweep may start: HALT aborts the sweep, and the pending stands (R120). -/
theorem applyToLine_crumb {a : Action} {s : State} (h : s.crumb.sweep ≠ none ∨ sweepsSuspended s = true) :
    (applyToLine a s).crumb.pending = s.crumb.pending ∧
      (applyToLine a s).crumb.sweep = if s.sup.line ≠ .halted ∧ a = .halt then none else s.crumb.sweep := by
  cases a with
  | nothing =>
    rw [if_neg (fun e => nomatch e.2)]
    exact ⟨rfl, rfl⟩
  | halt =>
    by_cases hl : s.sup.line = .halted
    · rw [applyToLine_halted _ _ hl, if_neg (fun e => e.1 hl)]
      exact ⟨rfl, rfl⟩
    · rw [show applyToLine .halt s = enterHalted s from if_neg hl, if_pos ⟨hl, rfl⟩]
      exact ⟨(enterHalted_from s).crumb.1, (enterHalted_from s).sweep⟩
  | hold =>
    rw [if_neg (fun e => nomatch e.2)]
    by_cases hr : s.sup.line = .running
    · have hc : (assertHold (setLine .draining s)).crumb = s.crumb := (report_noticed _ _).crumb
      rw [applyToLine_drains hr, enterDraining_idle h]
      unfold trackEmpty
      split
      · obtain ⟨air, hair⟩ := enterStopped_crumb (assertHold (setLine .draining s))
        rw [hair, hc]
        exact ⟨rfl, rfl⟩
      · rw [hc]
        exact ⟨rfl, rfl⟩
    · rw [applyToLine_stays (.inr ⟨rfl, hr⟩)]
      exact ⟨rfl, rfl⟩

/-- An action but HALT leaves a line that moves over a record moving, and the head, crumb control, the records and the points as they are. -/
theorem applyToLine_moves {a : Action} {s : State} (ha : a ≠ .halt) (hu : sweepsSuspended s = true)
    (hl : s.sup.line = .running ∨ s.sup.line = .draining) (hn : s.track.loaves ≠ []) : let w := applyToLine a s
    (w.sup.line = .running ∨ w.sup.line = .draining) ∧ w.head = s.head ∧ w.crumb = s.crumb ∧ w.track.loaves = s.track.loaves ∧
      w.points = s.points := by
  by_cases hr : a = .hold ∧ s.sup.line = .running
  · obtain ⟨rfl, hr⟩ := hr
    obtain ⟨hhead, htrack, _⟩ := setLine_spec .draining s
    have hrest := report_noticed (.line .draining) (s.setSup { s.sup with line := .draining })
    have hloaves : (assertHold (setLine .draining s)).track.loaves = s.track.loaves := by
      show (setLine .draining s).track.loaves = _
      rw [htrack]
    have hw : applyToLine .hold s = assertHold (setLine .draining s) := by
      rw [applyToLine_drains hr, enterDraining_idle (.inr hu), trackEmpty_stays (.inr (by rw [hloaves]; exact hn))]
    rw [hw]
    exact ⟨.inr (setLine_line .draining s), hhead, hrest.crumb, hloaves, hrest.points⟩
  · have hw : applyToLine a s = s := applyToLine_stays (by
      cases a with
      | nothing => exact .inl rfl
      | hold => exact .inr ⟨rfl, fun e => hr ⟨rfl, e⟩⟩
      | halt => exact absurd rfl ha)
    rw [hw]
    exact ⟨hl, rfl, rfl, rfl, rfl⟩

/-! ## TRAY_FULL becomes ACTIVE -/

section
variable {d : State}

theorem trayComes_eq (hn : (faultEntry d .trayFull).state ≠ .active) (hb : BeltRuns d) : setCondition .trayFull true d =
    applyToLine (faultEntry d .trayFull).action (faultOccurs .trayFull .active none d) :=
  (setCondition_comes hn).trans ((faultOccurs_turned .trayFull d).acts_runs nofun hb)

theorem occurred_suspends (d : State) : sweepsSuspended (faultOccurs .trayFull .active none d) = true :=
  suspended_of_tray (by rw [faultOccurs_entry]; nofun)

theorem trayComes_suspends (hn : (faultEntry d .trayFull).state ≠ .active) (hb : BeltRuns d) :
    sweepsSuspended (setCondition .trayFull true d) = true := by
  rw [trayComes_eq hn hb, sweepsSuspended_of_faults (applyToLine_calm _ _).faults]
  exact occurred_suspends d

theorem trayComes_beltRuns (hn : (faultEntry d .trayFull).state ≠ .active) (hb : BeltRuns d) : BeltRuns (setCondition .trayFull true d) := by
  rw [setCondition_comes hn]
  exact (faultOccurs_turned .trayFull d).acts_beltRuns nofun hb

/-- What TRAY_FULL's action leaves of the sweep and the pending (R116, R120). -/
theorem trayComes_crumb (hn : (faultEntry d .trayFull).state ≠ .active) (hb : BeltRuns d) :
    (setCondition .trayFull true d).crumb.pending = d.crumb.pending ∧ (setCondition .trayFull true d).crumb.sweep =
      if d.sup.line ≠ .halted ∧ (faultEntry d .trayFull).action = .halt then none else d.crumb.sweep := by
  have hv := faultOccurs_flagged .trayFull .active none d
  have h := applyToLine_crumb (a := (faultEntry d .trayFull).action) (.inr (occurred_suspends d))
  rw [hv.crumb, hv.line] at h
  rw [trayComes_eq hn hb]
  exact h

theorem reviewTray_sweeping (hi : inputHigh d .trayFull = true) (hs : d.crumb.sweep ≠ none) :
    reviewTray d = setCondition .trayFull true d := by
  unfold reviewTray
  rw [hi]
  refine if_neg fun h => hs ?_
  rw [Bool.and_eq_true, Option.isNone_iff_eq_none] at h
  exact h.2

theorem reviewTray_begins (hi : inputHigh d .trayFull = true) (hn : (faultEntry d .trayFull).state ≠ .active) (hb : BeltRuns d)
    (hs : d.crumb.sweep = none) (hu : sweepsSuspended d = false) : reviewTray d = suspensionBegins (setCondition .trayFull true d) := by
  unfold reviewTray
  rw [hi]
  exact if_pos (by rw [hu, trayComes_suspends hn hb, hs]; rfl)

/-- A running sweep keeps the pending through the beginning of a suspension, and runs on unless the halt aborts it. -/
theorem trayFull_sweeping (hi : inputHigh d .trayFull = true) (hn : (faultEntry d .trayFull).state ≠ .active) (hb : BeltRuns d)
    (hs : d.crumb.sweep ≠ none) : (finish (reviewTray d)).crumb.pending = d.crumb.pending ∧ (finish (reviewTray d)).crumb.sweep =
      if d.sup.line ≠ .halted ∧ (faultEntry d .trayFull).action = .halt then none else d.crumb.sweep := by
  rw [(finish_noticed _).crumb, reviewTray_sweeping hi hs]
  exact trayComes_crumb hn hb

/-- With no sweep running the suspension clears a CHANGEOVER pending, and no sweep starts (R116, R117). -/
theorem trayFull_clears (hi : inputHigh d .trayFull = true) (hn : (faultEntry d .trayFull).state ≠ .active) (hb : BeltRuns d)
    (hs : d.crumb.sweep = none) (hu : sweepsSuspended d = false) : (finish (reviewTray d)).crumb.sweep = none ∧
      (finish (reviewTray d)).crumb.pending = if d.crumb.pending = some .changeover then none else d.crumb.pending := by
  obtain ⟨hpending, hsweep⟩ := trayComes_crumb hn hb
  rw [hs, ite_self] at hsweep
  rw [(finish_noticed _).crumb, reviewTray_begins hi hn hb hs hu, suspensionBegins_eq hsweep, hpending]
  exact testAdmission_crumb hsweep (trayComes_suspends hn hb) (trayComes_beltRuns hn hb)

/-- A record that waits for a changeover is taken as NO_CLEAN while sweeps are suspended (R114). -/
theorem testAdmission_noClean {r : Loaf} (ho : oldestIn d .infeed = some r) (hp : Presented r d) (hc : ChangeoverDue r d)
    (hs : d.crumb.sweep = none) (hu : sweepsSuspended d = true) (hb : BeltRuns d) :
    AdmittedAs (some .noClean) r d (finish (testAdmission d)) :=
  (testAdmission_tested r d ho hb).noClean hp hs hc ((suspended_iff d).mp hu)

/-- The record that waits for a changeover is asked again where the suspension begins, and passes through as NO_CLEAN (R114, R116). -/
theorem trayFull_passes {r : Loaf} (hi : inputHigh d .trayFull = true) (hn : (faultEntry d .trayFull).state ≠ .active) (hb : BeltRuns d)
    (hs : d.crumb.sweep = none) (hu : sweepsSuspended d = false) (ha : (faultEntry d .trayFull).action ≠ .halt)
    (ho : oldestIn d .infeed = some r) (hp : Presented r d) (hc : ChangeoverDue r d) :
    ∃ u, AdmittedAs (some .noClean) r u (finish (reviewTray d)) := by
  have hv := faultOccurs_flagged .trayFull .active none d
  have hloaves : (faultOccurs .trayFull .active none d).track.loaves = d.track.loaves := congrArg Track.loaves hv.track
  have hpoints : (faultOccurs .trayFull .active none d).points = d.points := by rw [hv]
  obtain ⟨hline, hhead, hcrumb, hw, hq⟩ := applyToLine_moves ha (occurred_suspends d) (by rw [hv.line]; exact hp.moves)
    (by rw [hloaves]; exact List.ne_nil_of_mem (List.mem_of_find?_eq_some ho))
  rw [← trayComes_eq hn hb] at hline hhead hcrumb hw hq
  rw [hv.head] at hhead
  rw [hv.crumb] at hcrumb
  rw [hloaves] at hw
  rw [hpoints] at hq
  rw [reviewTray_begins hi hn hb hs hu, suspensionBegins_eq (by rw [hcrumb]; exact hs), hcrumb]
  have hb' := trayComes_beltRuns hn hb
  have hu' := trayComes_suspends hn hb
  generalize setCondition .trayFull true d = w at *
  refine ⟨_, testAdmission_noClean ?_ ⟨hline, ?_, ?_, ?_, hp.measured⟩ hc hs hu' hb'⟩
  · exact (congrArg (List.find? _) hw).trans ho
  · exact (congrArg Head.state hhead).trans hp.empty
  · show w.head.pusher.natAbs ≤ 2
    rw [hhead]
    exact hp.home
  · exact (inputs_same (show (w.setCrumb _).points = d.points from hq) .stopEye).2.trans hp.covered

end

/-! ## The keys -/

/-- A change of a held key input changes the terminal and KEY_INVALID alone (R32, R34). -/
theorem keyInput_taken (key : Key) (high : Bool) {s : State} (h : Held s (.key key)) :
    ∃ t, exec (.keyInputChange key high) s = .next t ∧ Noticed (driveInput (.key key) high s) t ∧ inputHigh t (.key key) = high ∧
      (warnEntry t .keyInvalid).present = decide (Held t (.key .a) ∧ Held t (.key .b) ∧ inputHigh t (.key .a) = true ∧
        inputHigh t (.key .b) = true) := by
  have hn : Noticed (driveInput (.key key) high s) (finish (evaluate .keyInvalid (driveInput (.key key) high s))) :=
    (evaluate_noticed _ _).trans (finish_noticed _)
  refine ⟨_, congrArg Host.Outcome.next (inputEdge_held h), hn, ?_, ?_⟩
  · rw [(inputs_same hn.points _).2, inputHigh_driven high h]
  · have hp : (warnEntry (finish (evaluate .keyInvalid (driveInput (.key key) high s))) .keyInvalid).present =
        keyInvalidCondition (driveInput (.key key) high s) := by
      rw [finish_warnEntry (by decide)]
      unfold evaluate
      rw [warn_entry]
      rfl
    rw [hp]
    unfold Held keyInvalidCondition keysAssigned
    simp only [inputs_same hn.points, Bool.decide_and, Bool.decide_eq_true, Bool.and_assoc]

/-- The tier by the table of R32. -/
theorem tier_eq (s : State) : tier s = if ¬(Held s (.key .a) ∧ Held s (.key .b)) then .engineer
    else if inputHigh s (.key .a) = true ∧ inputHigh s (.key .b) = false then .setter
    else if inputHigh s (.key .a) = false ∧ inputHigh s (.key .b) = true then .engineer else .operator := by
  have hk : keysAssigned s = true ↔ Held s (.key .a) ∧ Held s (.key .b) := Bool.and_eq_true_iff
  unfold tier
  by_cases h : Held s (.key .a) ∧ Held s (.key .b)
  · rw [if_pos (hk.mpr h), if_neg (not_not_intro h)]
    cases inputHigh s (.key .a) <;> cases inputHigh s (.key .b) <;> rfl
  · rw [if_neg (mt hk.mp h), if_pos h]

/-! ## The statement -/

/-- Settles O50: the two switches row by row, crumb control where a suspension begins, the keys and the tier. -/
theorem switchInputsTaken : Obligations.SwitchInputsTaken := by
  intro high s
  refine ⟨fun row hrow => ?_, fun hh hf hn hb => ?_, fun key => ⟨fun h => ?_, fun h => keyInput_taken key high h⟩, tier_eq s⟩
  · have hswitch : SwitchRow high s row := by
      rcases List.mem_cons.mp hrow with rfl | hrow
      · exact guardRow high s
      · rw [List.mem_singleton.mp hrow]
        exact trayRow high s
    obtain ⟨k, c, f, present⟩ := row
    dsimp only
    refine ⟨hswitch.1, fun hf => ?_⟩
    obtain ⟨z, hexec, hz⟩ := hswitch.2 hf
    dsimp only at hexec hz
    have hgone : present = false → (faultEntry s k).state ≠ .active → Noticed (driveInput f high s) (finish z) := fun hp hn => by
      rw [hz.leaves hp, setCondition_absent (by rw [faultEntry_of_sup (driveInput_sup f high s)]; exact hn)]
      exact finish_noticed _
    have haside : Aside s (finish z) := Laws.Aside.trans (driveInput_steady f high s) (hz.steady.trans (finish_steady z)).aside
    obtain ⟨ps, n, hd⟩ := driveInput_driven f high s
    rw [hd] at hz
    refine ⟨finish z, hexec, haside, fun hp hn => ?_, fun hp ha => ?_, fun hb hturn => ?_, hgone⟩
    · subst hp
      have ht := faultOccurs_turned k { s with points := ps, fresh := n }
      have hc : setCondition k true { s with points := ps, fresh := n } = _ := setCondition_comes hn
      have hentry := hz.entry ht hc
      rw [hentry]
      refine ⟨rfl, rfl, rfl, rfl, fun ha => ⟨hz.halts ht hc ha, fun hl hp => haltedFrom_driven (hz.halts_from ht hc ha hl hp),
        fun hl hs => ⟨?_, fun hw reason hr => ?_⟩⟩, fun hs => ?_, fun hall => ?_⟩
      · exact hz.told_halt ht hc ha hl (enterHalted_hears _) ⟨hs.busy, hs.empty, hs.every⟩
      · have hv := ht.flagged
        have hq := enterHalted_hears_sweep (s := faultOccurs k .active none { s with points := ps, fresh := n }) (by rw [hv.crumb]; exact hw)
        rw [hv.crumb, show s.crumb.pending = some reason from hr] at hq
        exact hz.told_halt ht hc ha hl hq ⟨hs.busy, hs.empty, hs.every⟩
      · exact hz.told_turn ht hc ⟨hs.busy, hs.empty, hs.every⟩
      · exact (hz.first hc).trans (faultOccurs_first (u := { s with points := ps, fresh := n }) hall)
    · subst hp
      have ht := faultMoves_turned k { s with points := ps, fresh := n }
      have hc : setCondition k false { s with points := ps, fresh := n } = _ := setCondition_leaves ha
      have hentry := hz.entry ht hc
      rw [hentry]
      exact ⟨rfl, rfl, fun hs => hz.told_turn ht hc ⟨hs.busy, hs.empty, hs.every⟩, fun hact hl =>
        haltedFrom_driven (halts_finished ht hact hl ((hz.leaves rfl).trans hc))⟩
    · obtain ⟨e, r, v, ht, hact, hc⟩ := setCondition_turns (d := { s with points := ps, fresh := n }) hturn
      have h := hz.acted ht hc hb
      rw [hact] at h
      exact actedOnLine_driven h
  · refine ⟨finish (reviewTray (driveInput .trayFull high s)), congrArg Host.Outcome.next (inputEdge_held hf), ?_⟩
    have hi := inputHigh_driven high hf
    have hstop := inputHigh_driveInput (f := .trayFull) (g := .stopEye) nofun high s
    obtain ⟨ps, n, hd⟩ := driveInput_driven .trayFull high s
    rw [hd, hh] at hi
    rw [hd] at hstop ⊢
    dsimp only
    refine ⟨fun hs => trayFull_sweeping hi hn hb hs, fun hs hu => trayFull_clears hi hn hb hs hu,
      fun hs hu hhalts hl he hpush hcov r ho hm hmark sn hsn hclear last hlast hne => ?_⟩
    have hact : (faultEntry s .trayFull).action ≠ .halt := fun ha => hhalts ⟨by rcases hl with h | h <;> rw [h] <;> nofun, ha⟩
    obtain ⟨u, hadm⟩ := trayFull_passes (d := { s with points := ps, fresh := n }) hi hn hb hs hu hact ho
      ⟨hl, he, hpush, hstop.trans hcov, hm⟩ ⟨hmark, sn, hsn, hclear, last, hlast, hne⟩
    obtain ⟨hstate, hknife, _, _⟩ := hadm.passed nofun
    obtain ⟨q, hq, htag, hzone, hqm, _⟩ := hadm.record
    exact ⟨hstate, hadm.tag, hknife, q, hq, htag, hzone, hqm⟩
  · exact congrArg Host.Outcome.next (inputEdge_loose h)

end Sys2Proof.SwitchInputs
end

-- ==== The slice planner, proofs: the arithmetic of a plan ====
section
/-! The length in units (R46), and the plan of a loaf inside the band of a recipe in range (R47 to R51). -/

namespace Sys2Proof.SlicePlanner

open Sys2Proof.Machine Sys2Proof.RecipeTable

/-! ## The length in units -/

theorem unitsOf_pos {l k : Nat} (hl : 1 ≤ l) (hk : 200 ≤ k) (hk' : k ≤ 2000) : 1 ≤ unitsOf l k := by
  unfold unitsOf
  rw [Nat.le_div_iff_mul_le (by omega)]
  omega

theorem unitsOf_le {l k : Nat} (hl : l ≤ 65535) (hk : 200 ≤ k) : unitsOf l k ≤ 327675 := by
  refine Nat.le_of_lt_succ ?_
  unfold unitsOf
  rw [Nat.div_lt_iff_lt_mul (by omega)]
  omega

/-! ## The pusher targets -/

theorem pusherTarget_mono {a b kp kq : Nat} (hpos : a ≤ b) (hk : kp ≤ kq) : pusherTarget a kp ≤ pusherTarget b kq :=
  Nat.div_le_div_right (Nat.add_le_add_right (Nat.mul_le_mul hpos hk) 500)

/-- At the least pitch two units are a count, so positions `2 * d` apart have targets at least `d` apart (R50, R51). -/
theorem pusherTarget_gap {a b d kp : Nat} (hpos : a + 2 * d ≤ b) (hk : 500 ≤ kp) : pusherTarget a kp + d ≤ pusherTarget b kp := by
  have hprod : a * kp + d * 1000 ≤ b * kp :=
    calc a * kp + d * 1000 = a * kp + 2 * d * 500 := by omega
      _ ≤ a * kp + 2 * d * kp := Nat.add_le_add_left (Nat.mul_le_mul_left _ hk) _
      _ = (a + 2 * d) * kp := (Nat.add_mul _ _ _).symm
      _ ≤ b * kp := Nat.mul_le_mul_right _ hpos
  unfold pusherTarget
  omega

/-- The eject target is the target of the position 20 mm past the loaf's end (R51). -/
theorem ejectPosition_eq (lmm kp : Nat) : ejectPosition lmm kp = pusherTarget (lmm + 200) kp := rfl

/-! ## The body and the heels -/

/-- What the planner's arithmetic turns on: the ranges of the recipe's figures (R24) and of a length inside its band. -/
structure Plannable (f : Figures) (lmm : Nat) : Prop where
  thickness_ge : 60 ≤ f.thickness
  thickness_le : f.thickness ≤ 250
  heel_ge : 30 ≤ f.heel
  heel_le : f.heel ≤ 150
  slices_ge : 4 ≤ f.maxSlices
  slices_le : f.maxSlices ≤ 40
  length_ge : 1000 ≤ lmm
  length_le : lmm ≤ 7000

theorem plannable_of_inRange {printer : Bool} {f : Figures} {lmm : Nat} (h : figuresInRange printer f = true) (hmin : f.minLength ≤ lmm)
    (hmax : lmm ≤ f.maxLength) : Plannable f lmm := by
  obtain ⟨⟨⟨ht, ht'⟩, ⟨hh, hh'⟩, ⟨hs, hs'⟩, ⟨hl, _⟩, ⟨_, hl'⟩⟩, _⟩ := (figuresInRange_iff printer f).mp h
  exact ⟨ht, ht', hh, hh', hs, hs', hl.trans hmin, hmax.trans hl'⟩

/-- Without the reduction the count is the quotient (R47). -/
theorem bodyCount_whole {f : Figures} {lmm : Nat} (h : (lmm - 2 * f.heel) / f.thickness + 2 ≤ f.maxSlices) :
    bodyCount f lmm = (lmm - 2 * f.heel) / f.thickness :=
  if_neg (Nat.not_lt.mpr h)

/-- With the reduction the count is that of the greatest number of pieces (R47). -/
theorem bodyCount_reduced {f : Figures} {lmm : Nat} (h : f.maxSlices < (lmm - 2 * f.heel) / f.thickness + 2) :
    bodyCount f lmm = f.maxSlices - 2 :=
  if_pos h

theorem bodyCount_le_quotient (f : Figures) (lmm : Nat) : bodyCount f lmm ≤ (lmm - 2 * f.heel) / f.thickness := by
  rcases Nat.lt_or_ge f.maxSlices ((lmm - 2 * f.heel) / f.thickness + 2) with h | h
  · exact (bodyCount_reduced h).trans_le (Nat.sub_le_of_le_add h.le)
  · exact (bodyCount_whole h).le

/-- The slices fit in the body, so that R48's remainder is a true difference. -/
theorem slices_le_body (f : Figures) (lmm : Nat) : bodyCount f lmm * f.thickness ≤ lmm - 2 * f.heel :=
  (Nat.mul_le_mul_right _ (bodyCount_le_quotient f lmm)).trans (Nat.div_mul_le_self _ _)

/-- An odd unit of the remainder goes to the trail heel (R48). -/
theorem trailHeel_eq_or (f : Figures) (lmm : Nat) :
    trailHeelOf f lmm = leadHeelOf f lmm ∨ trailHeelOf f lmm = leadHeelOf f lmm + 1 := by
  unfold trailHeelOf leadHeelOf
  omega

theorem heel_le_leadHeel (f : Figures) (lmm : Nat) : f.heel ≤ leadHeelOf f lmm := Nat.le_add_right _ _

theorem cutPosition_first (f : Figures) (lmm : Nat) : cutPosition f lmm 1 = leadHeelOf f lmm := by
  unfold cutPosition
  rw [Nat.sub_self, Nat.zero_mul, Nat.add_zero]

theorem cutPosition_succ (f : Figures) (lmm : Nat) {i : Nat} (hi : 1 ≤ i) :
    cutPosition f lmm (i + 1) = cutPosition f lmm i + f.thickness := by
  obtain ⟨j, rfl⟩ := Nat.exists_eq_add_of_le' hi
  show leadHeelOf f lmm + (j + 1) * f.thickness = leadHeelOf f lmm + j * f.thickness + f.thickness
  rw [Nat.succ_mul, Nat.add_assoc]

/-- The target in the plan of each cut (R50). -/
theorem planOf_target (f : Figures) (lmm kp : Nat) {i : Nat} (hi : 1 ≤ i) (hn : i ≤ bodyCount f lmm + 1) :
    (planOf f lmm kp).targets[i - 1]? = some (pusherTarget (cutPosition f lmm i) kp) := by
  obtain ⟨j, rfl⟩ := Nat.exists_eq_add_of_le' hi
  show ((List.range (bodyCount f lmm + 1)).map fun i => pusherTarget (cutPosition f lmm (i + 1)) kp)[j]? = _
  rw [List.getElem?_map, List.getElem?_range hn]
  rfl

section
variable {f : Figures} {lmm : Nat}

theorem Plannable.body_ge (h : Plannable f lmm) : 700 ≤ lmm - 2 * f.heel := by
  have := h.length_ge
  have := h.heel_le
  omega

theorem Plannable.thickness_le_body (h : Plannable f lmm) : f.thickness ≤ lmm - 2 * f.heel :=
  (h.thickness_le.trans (by decide)).trans h.body_ge

theorem Plannable.two_le_quotient (h : Plannable f lmm) : 2 ≤ (lmm - 2 * f.heel) / f.thickness := by
  have ht := h.thickness_ge
  have ht' := h.thickness_le
  have hb := h.body_ge
  rw [Nat.le_div_iff_mul_le (by omega)]
  omega

theorem Plannable.two_le_bodyCount (h : Plannable f lmm) : 2 ≤ bodyCount f lmm := by
  rcases Nat.lt_or_ge f.maxSlices ((lmm - 2 * f.heel) / f.thickness + 2) with hr | hr
  · rw [bodyCount_reduced hr]
    exact Nat.le_sub_of_add_le h.slices_ge
  · rw [bodyCount_whole hr]
    exact h.two_le_quotient

theorem Plannable.pieces_le (h : Plannable f lmm) : bodyCount f lmm + 2 ≤ f.maxSlices := by
  rcases Nat.lt_or_ge f.maxSlices ((lmm - 2 * f.heel) / f.thickness + 2) with hr | hr
  · rw [bodyCount_reduced hr, Nat.sub_add_cancel (by have := h.slices_ge; omega)]
  · rwa [bodyCount_whole hr]

theorem Plannable.bodyCount_le (h : Plannable f lmm) : bodyCount f lmm ≤ 38 := by
  have := h.pieces_le
  have := h.slices_le
  omega

/-- The two heels and the slices make up the loaf (R48). -/
theorem Plannable.parts_sum (h : Plannable f lmm) :
    leadHeelOf f lmm + bodyCount f lmm * f.thickness + trailHeelOf f lmm = lmm := by
  have hb := h.body_ge
  have hs := slices_le_body f lmm
  unfold leadHeelOf trailHeelOf bodyRest
  omega

theorem Plannable.trailHeel_ge (h : Plannable f lmm) : 30 ≤ trailHeelOf f lmm := by
  have := h.heel_ge
  have := heel_le_leadHeel f lmm
  have := trailHeel_eq_or f lmm
  omega

/-- The longest heel is that of the longest loaf with the fewest and thinnest slices (R48). -/
theorem Plannable.trailHeel_le (h : Plannable f lmm) : trailHeelOf f lmm ≤ 3440 := by
  have hslices : 2 * 60 ≤ bodyCount f lmm * f.thickness := Nat.mul_le_mul h.two_le_bodyCount h.thickness_ge
  have := h.parts_sum
  have := h.length_le
  have := trailHeel_eq_or f lmm
  omega

/-- Without the reduction the remainder is less than a slice, and so is what a heel takes of it (R48). -/
theorem Plannable.heels_lt (h : Plannable f lmm) (hw : (lmm - 2 * f.heel) / f.thickness + 2 ≤ f.maxSlices) :
    leadHeelOf f lmm < f.heel + f.thickness ∧ trailHeelOf f lmm < f.heel + f.thickness := by
  have ht := h.thickness_ge
  have hrest : bodyRest f lmm < f.thickness := by
    unfold bodyRest
    rw [bodyCount_whole hw, ← Nat.mod_eq_sub_div_mul]
    exact Nat.mod_lt _ (by omega)
  unfold leadHeelOf trailHeelOf
  omega

/-! ## The cuts and the eject -/

theorem Plannable.cutPosition_last (h : Plannable f lmm) :
    cutPosition f lmm (bodyCount f lmm + 1) = lmm - trailHeelOf f lmm :=
  Nat.eq_sub_of_add_eq h.parts_sum

theorem Plannable.cutPosition_first_ge (h : Plannable f lmm) : 30 ≤ cutPosition f lmm 1 := by
  rw [cutPosition_first]
  exact h.heel_ge.trans (heel_le_leadHeel f lmm)

theorem Plannable.cutPosition_last_le (h : Plannable f lmm) : cutPosition f lmm (bodyCount f lmm + 1) ≤ 6970 := by
  rw [h.cutPosition_last]
  have := h.trailHeel_ge
  have := h.length_le
  omega

/-- No two targets round to the same count (R50). -/
theorem Plannable.target_lt_next (h : Plannable f lmm) {i kp : Nat} (hi : 1 ≤ i) (hk : 500 ≤ kp) :
    pusherTarget (cutPosition f lmm i) kp < pusherTarget (cutPosition f lmm (i + 1)) kp := by
  have hstep : cutPosition f lmm i + 2 * 30 ≤ cutPosition f lmm (i + 1) :=
    cutPosition_succ f lmm hi ▸ Nat.add_le_add_left h.thickness_ge _
  have hgap := pusherTarget_gap hstep hk
  omega

/-- The least first target is that of the least heel at the least pitch (R50). -/
theorem Plannable.firstTarget_ge (h : Plannable f lmm) {kp : Nat} (hk : 500 ≤ kp) : 15 ≤ pusherTarget (cutPosition f lmm 1) kp :=
  calc 15 = pusherTarget 30 500 := by decide
    _ ≤ _ := pusherTarget_mono h.cutPosition_first_ge hk

theorem Plannable.lastTarget_le (h : Plannable f lmm) {kp : Nat} (hk : kp ≤ 4000) :
    pusherTarget (cutPosition f lmm (bodyCount f lmm + 1)) kp ≤ 27880 :=
  calc _ ≤ pusherTarget 6970 4000 := pusherTarget_mono h.cutPosition_last_le hk
    _ = 27880 := by decide

/-- The eject lies the trail heel and 200 units past the last cut, at least 115 counts (R51). -/
theorem Plannable.lastTarget_before_eject (h : Plannable f lmm) {kp : Nat} (hk : 500 ≤ kp) :
    pusherTarget (cutPosition f lmm (bodyCount f lmm + 1)) kp + 115 ≤ ejectPosition lmm kp := by
  refine pusherTarget_gap ?_ hk
  rw [h.cutPosition_last]
  have := h.trailHeel_ge
  have := h.length_ge
  omega

theorem Plannable.eject_le (h : Plannable f lmm) {kp : Nat} (hk : kp ≤ 4000) : ejectPosition lmm kp ≤ 28800 :=
  calc _ ≤ pusherTarget 7200 4000 := pusherTarget_mono (Nat.add_le_add_right h.length_le 200) hk
    _ = 28800 := by decide

end

/-- Settles O25: the conversion of R46, and each bound of R47 to R51 from the ranges of the recipe and the band. -/
theorem planArithmetic : Obligations.PlanArithmetic := by
  refine ⟨⟨fun _ _ => rfl, fun l k hl hl' hk hk' => ⟨unitsOf_pos hl hk hk', unitsOf_le hl' hk⟩, by decide, by decide, by decide⟩,
    fun f lmm kp hf hmin hmax hk hk' => ?_⟩
  have h := plannable_of_inRange hf hmin hmax
  refine ⟨h.body_ge, h.thickness_le_body, rfl, h.two_le_bodyCount, h.bodyCount_le, h.pieces_le, rfl, ?trail, h.parts_sum,
    heel_le_leadHeel f lmm, trailHeel_eq_or f lmm, h.trailHeel_le, h.heels_lt, rfl, ?count, h.cutPosition_last, h.cutPosition_first_ge,
    h.cutPosition_last_le, fun i hi hn => planOf_target f lmm kp hi hn, fun i hi _ => h.target_lt_next hi hk, h.firstTarget_ge hk,
    h.lastTarget_le hk', rfl, h.lastTarget_before_eject hk, h.eject_le hk'⟩
  case trail => exact (Nat.add_sub_assoc (Nat.div_le_self _ 2) f.heel).symm
  case count => exact (List.length_map _).trans List.length_range

end Sys2Proof.SlicePlanner
end

-- ==== The slice planner, proofs: TRY PLAN ====
section
/-! What TRY PLAN answers (R55): its refusals in their order, the mark of the band test, or the plan. -/

namespace Sys2Proof.SlicePlanner

open Sys2Proof.Machine Sys2Proof.Safety Sys2Proof.Laws Sys2Proof.LoafTrack Sys2Proof.RecipeTable

/-! ## The reply -/

section
variable {f : Figures} {lmm : Nat}

theorem bandMark_short (h : lmm < f.minLength) : bandMark f lmm = some .short := if_pos h

theorem bandMark_double (hmin : f.minLength ≤ lmm) (hmax : f.maxLength < lmm) : bandMark f lmm = some .double :=
  (if_neg (Nat.not_lt.mpr hmin)).trans (if_pos hmax)

theorem bandMark_inside (hmin : f.minLength ≤ lmm) (hmax : lmm ≤ f.maxLength) : bandMark f lmm = none :=
  (if_neg (Nat.not_lt.mpr hmin)).trans (if_neg (Nat.not_lt.mpr hmax))

/-- A length outside the band is answered with its mark and no plan (R55). -/
theorem trialReply_mark {m : Mark} (h : bandMark f lmm = some m) (kp : Nat) : trialReply f lmm kp =
    multiLine "TRY PLAN" [decimal lmm, codes (markText m), absentText, absentText, absentText, absentText] [] := by
  unfold trialReply
  rw [h]

/-- A length inside the band is answered with the plan, a line for each cut and one for the eject target (R55). -/
theorem trialReply_plan (h : bandMark f lmm = none) (kp : Nat) : trialReply f lmm kp =
    multiLine "TRY PLAN" [decimal lmm, absentText, decimal (bodyCount f lmm), decimal (leadHeelOf f lmm), decimal (trailHeelOf f lmm),
        decimal (bodyCount f lmm + 1)]
      (((List.range (bodyCount f lmm + 1)).map fun j =>
          [decimal (j + 1), decimal (cutPosition f lmm (j + 1)), decimal (pusherTarget (cutPosition f lmm (j + 1)) kp)]) ++
        [[codes "EJECT", decimal (ejectPosition lmm kp)]]) := by
  unfold trialReply
  rw [h]
  rfl

end

/-! ## The request -/

section
variable {w : PlanTrial} {s : State}

/-- The checks of R55 up to the slot's contents: both ranges, and the tier, which no caller is below. -/
theorem trialChecks_pass {k : Service} (hs : w.slot ≤ 15) (hl : 1 ≤ w.length) (hl' : w.length ≤ 65535) :
    (require (fun _ => slotInRange w.slot) .range <| require (fun _ => within 1 65535 w.length) .range <| needTier .operator k) s = k s :=
  calc _ = _ := require_pass (decide_eq_true hs)
    _ = _ := require_pass (within_iff.mpr ⟨hl, hl'⟩)
    _ = k s := needTier_pass (operator_ok s)

theorem svcTryPlan_empty (hs : w.slot ≤ 15) (hl : 1 ≤ w.length) (hl' : w.length ≤ 65535) (he : s.recipes.slots[slotOf w.slot] = none) :
    svcTryPlan (some w) s = (s, refusal .noSuch) := by
  refine (trialChecks_pass hs hl hl').trans ?_
  rw [recipeAt_eq, he]
  rfl

theorem svcTryPlan_valid {r : Recipe} (hs : w.slot ≤ 15) (hl : 1 ≤ w.length) (hl' : w.length ≤ 65535)
    (hr : s.recipes.slots[slotOf w.slot] = some r) : svcTryPlan (some w) s =
      (s, trialReply r.figures (if w.inCounts then unitsOf w.length s.track.geometry.k else w.length) s.track.geometry.kp) := by
  refine (trialChecks_pass hs hl hl').trans ?_
  rw [recipeAt_eq, hr]

/-- The slot's range is checked before the length's, and both answer RANGE (R55). -/
theorem svcTryPlan_range (h : 15 < w.slot ∨ w.length = 0 ∨ 65535 < w.length) : svcTryPlan (some w) s = (s, refusal .range) := by
  unfold svcTryPlan withForm
  dsimp only
  rcases Nat.lt_or_ge 15 w.slot with hs | hs
  · exact require_fail (slotInRange_above hs)
  · have hl : within 1 65535 w.length = false := by
      rw [← Bool.not_eq_true, within_iff]
      omega
    rw [require_pass (decide_eq_true hs)]
    exact require_fail hl

end

/-- Settles O26: the refusals of R55, and the reply for a length below, above and inside the band. -/
theorem tryPlanAnswersPlan : Obligations.TryPlanAnswersPlan := by
  refine fun w s hf => ⟨fun hs hl hl' => ⟨fun he => taken hf (svcTryPlan_empty hs hl hl' he), fun r hr => ?_⟩,
    fun h => taken hf (svcTryPlan_range h)⟩
  have hvalid := svcTryPlan_valid hs hl hl' hr
  refine ⟨fun hmin => ?short, fun hmin hmax => ?double, fun hmin hmax => ?inside⟩
  case short => exact taken hf (hvalid.trans (congrArg (s, ·) (trialReply_mark (bandMark_short hmin) _)))
  case double => exact taken hf (hvalid.trans (congrArg (s, ·) (trialReply_mark (bandMark_double hmin hmax) _)))
  case inside => exact taken hf (hvalid.trans (congrArg (s, ·) (trialReply_plan (bandMark_inside hmin hmax) _)))

end Sys2Proof.SlicePlanner
end

-- ==== The slicing head, proofs: the blade under a change of the line, PARK and the stall timer ====
section
/-! The law of KNIFE_RUN (O3), what a change of the line state leaves of the blade, PARK and the stall timer (O32). -/

namespace Sys2Proof.SlicingHead

open Sys2Proof.Machine Sys2Proof.Safety Sys2Proof.Laws Sys2Proof.LoafTrack

/-- Settles O3: the law of KNIFE_RUN is carried over by every command (R59). -/
theorem knifeRunFollowsLine : Obligations.KnifeRunFollowsLine := by
  intro s t hk h
  obtain ⟨power, rest, hl⟩ := step_lawful s t h
  exact hl.obeys.knife hk

/-! ## The blade under a change of the line state -/

/-- The blade stands, its clutch released: no phase, no durations, no stall timer, nothing of a phase due, the idle timer running (R59 to R61,
R131). -/
structure Rested (h : Head) (m : Meas) : Prop where
  knife : h.knife = false
  phase : h.phase = .idle
  previous : h.previous = none
  stall : h.stallTimer = none
  idle : m.idleTimer = true
  scan : m.scan = []
  centre : m.centreTimer = none
  due : m.centreDue = false
  edge : m.edgeTimer = none
  run : m.edgeRun = false

/-- What a change of the line state, or a fault's action, leaves of the blade, of measurement, of the tray and of the marked records: while
KNIFE_RUN stays asserted the blade and measurement go on, and a blade that turned and is released comes to rest. -/
structure Brakes (s t : State) : Prop where
  pusher : t.head.pusher = s.head.pusher
  stamp : t.head.stamp = s.head.stamp
  miscuts : t.head.miscuts = s.head.miscuts
  input : t.head.phaseInput = s.head.phaseInput
  runs : t.head.knife = true → s.head.knife = true ∧ t.head.phase = s.head.phase ∧ t.head.previous = s.head.previous ∧
    t.head.stallTimer = s.head.stallTimer ∧ t.meas = s.meas
  stops : s.head.knife = true → s.head.phase ≠ .idle → t.head.knife = false → Rested t.head t.meas
  rests : Rested s.head s.meas → Rested t.head t.meas
  stall : s.head.stallTimer = none → t.head.stallTimer = none
  cut : s.head.cutTime = none → t.head.cutTime = none
  air : s.crumb.airKnife = false → t.crumb.airKnife = false
  tray : t.crumb.trayLoad = s.crumb.trayLoad
  marked : ∀ q ∈ s.track.loaves, q.mark ≠ none → q ∈ t.track.loaves

theorem Brakes.trans {s t u : State} (h : Brakes s t) (k : Brakes t u) : Brakes s u where
  pusher := k.pusher.trans h.pusher
  stamp := k.stamp.trans h.stamp
  miscuts := k.miscuts.trans h.miscuts
  input := k.input.trans h.input
  runs hu := by
    obtain ⟨ht, kphase, kprevious, kstall, kmeas⟩ := k.runs hu
    obtain ⟨hs, hphase, hprevious, hstall, hmeas⟩ := h.runs ht
    exact ⟨hs, kphase.trans hphase, kprevious.trans hprevious, kstall.trans hstall, kmeas.trans hmeas⟩
  stops hs hp hu := by
    cases ht : t.head.knife with
    | false => exact k.rests (h.stops hs hp ht)
    | true =>
      obtain ⟨_, hphase, _⟩ := h.runs ht
      exact k.stops ht (fun e => hp (hphase.symm.trans e)) hu
  rests := k.rests ∘ h.rests
  stall := k.stall ∘ h.stall
  cut := k.cut ∘ h.cut
  air := k.air ∘ h.air
  tray := k.tray.trans h.tray
  marked q hq hm := k.marked q (h.marked q hq hm) hm

/-- An operation that leaves the head, measurement, the crumb block but for its sweep, and the records alone. -/
theorem Brakes.of_same {s t : State} (hh : t.head = s.head) (hm : t.meas = s.meas) (ha : t.crumb.airKnife = s.crumb.airKnife)
    (hy : t.crumb.trayLoad = s.crumb.trayLoad) (hl : t.track.loaves = s.track.loaves) : Brakes s t where
  pusher := by rw [hh]
  stamp := by rw [hh]
  miscuts := by rw [hh]
  input := by rw [hh]
  runs k := by
    rw [hh] at k ⊢
    exact ⟨k, rfl, rfl, rfl, hm⟩
  stops hs _ ht := by
    rw [hh, hs] at ht
    cases ht
  rests := by rw [hh, hm]; exact id
  stall := by rw [hh]; exact id
  cut := by rw [hh]; exact id
  air := by rw [ha]; exact id
  tray := hy
  marked q hq _ := by rw [hl]; exact hq

/-- With the clutch released an operation may also drop the requests of a stage cut short (R103, R120). -/
theorem Brakes.of_still {s t : State} (hk : s.head.knife = false) (hh : t.head = s.head)
    (hm : Rested s.head s.meas → Rested s.head t.meas) (hc : t.crumb.airKnife = s.crumb.airKnife)
    (hy : t.crumb.trayLoad = s.crumb.trayLoad) (hl : t.track.loaves = s.track.loaves) : Brakes s t where
  pusher := by rw [hh]
  stamp := by rw [hh]
  miscuts := by rw [hh]
  input := by rw [hh]
  runs k := by
    rw [hh, hk] at k
    cases k
  stops hs _ _ := by
    rw [hk] at hs
    cases hs
  rests := by rw [hh]; exact hm
  stall := by rw [hh]; exact id
  cut := by rw [hh]; exact id
  air := by rw [hc]; exact id
  tray := hy
  marked q hq _ := by rw [hl]; exact hq

theorem Brakes.refl (s : State) : Brakes s s := Brakes.of_same rfl rfl rfl rfl rfl

theorem Brakes.of_flagged {s t : State} (h : Flagged s t) : Brakes s t :=
  Brakes.of_same h.head (by rw [h]) (by rw [h.crumb]) (by rw [h.crumb]) (by rw [h.track])

/-- The release of KNIFE_RUN brings a turning blade to rest (R59 to R61, R112, R131). -/
theorem knifeTo_brakes (s : State) : Brakes s (knifeTo false s) := by
  unfold knifeTo
  split
  · exact Brakes.refl s
  rename_i hk
  have hs : s.head.knife = true := by simpa using hk
  have hr : ¬Rested s.head s.meas := fun h => hk h.knife
  rw [if_neg Bool.false_ne_true]
  dsimp only
  split
  · rename_i hp
    exact ⟨rfl, rfl, rfl, rfl, fun h => (by cases h), fun _ h => absurd hp h, fun h => absurd h hr, fun _ => rfl, fun _ => rfl,
      fun _ => rfl, rfl, fun _ h _ => h⟩
  · exact ⟨rfl, rfl, rfl, rfl, fun h => (by cases h), fun _ _ _ => ⟨rfl, rfl, rfl, rfl, rfl, rfl, rfl, rfl, rfl, rfl⟩,
      fun h => absurd h hr, fun _ => rfl, fun _ => rfl, fun _ => rfl, rfl, fun _ h _ => h⟩

/-- The context alone changes, its pusher, its count of miscuts and its blade staying. -/
theorem Brakes.of_context {s t : State} (st : HeadState) (tag : Option Nat) (next : Option Nat) (target : Int) (from' : Option HeadState)
    (hh : t.head = { s.head with state := st, tag := tag, nextCut := next, target := target, pausedFrom := from' })
    (hm : t.meas = s.meas) (hc : t.crumb = s.crumb) (hl : ∀ q ∈ s.track.loaves, q.mark ≠ none → q ∈ t.track.loaves) : Brakes s t where
  pusher := by rw [hh]
  stamp := by rw [hh]
  miscuts := by rw [hh]
  input := by rw [hh]
  runs k := by
    rw [hh] at k ⊢
    exact ⟨k, rfl, rfl, rfl, hm⟩
  stops hs _ ht := by
    rw [hh] at ht
    exact absurd (hs.symm.trans ht) (by decide)
  rests := by
    rw [hh, hm]
    exact fun h => ⟨h.knife, h.phase, h.previous, h.stall, h.idle, h.scan, h.centre, h.due, h.edge, h.run⟩
  stall := by rw [hh]; exact id
  cut := by rw [hh]; exact id
  air := by rw [hc]; exact id
  tray := by rw [hc]
  marked := hl

/-- A record that carries a mark keeps it (R2). -/
theorem withMark_marked {m : Mark} {q : Loaf} (h : q.mark ≠ none) : q.withMark m = q := by
  unfold Loaf.withMark
  cases hq : q.mark with
  | none => exact absurd hq h
  | some k => rw [Option.some_or, ← hq]

/-- A change that keeps a record, where it meets it, leaves it in the list. -/
theorem mem_modifyFirst_fixed {p : Loaf → Bool} {f : Loaf → Loaf} {q : Loaf} (hf : f q = q) :
    ∀ {ls : List Loaf}, q ∈ ls → q ∈ modifyFirst p f ls
  | a :: ls, h => by
    unfold modifyFirst
    rcases List.mem_cons.mp h with rfl | h
    · split
      · rw [hf]
        exact List.mem_cons_self
      · exact List.mem_cons_self
    · split
      · exact List.mem_cons_of_mem _ h
      · exact List.mem_cons_of_mem _ (mem_modifyFirst_fixed hf h)

/-- A mark written later leaves the marked records (R2). -/
theorem mem_marked {m : Mark} {tag : Nat} {s : State} {q : Loaf} (h : q ∈ s.track.loaves) (hm : q.mark ≠ none) :
    q ∈ (modifyLoaf tag (Loaf.withMark m) s).track.loaves :=
  mem_modifyFirst_fixed (withMark_marked hm) h

theorem interruptLoaf_brakes (s : State) : Brakes s (interruptLoaf s) := by
  refine Brakes.of_context .interrupted s.head.tag s.head.nextCut s.head.target none ?_ ?_ ?_ fun q hq hm => ?_
  all_goals
    unfold interruptLoaf
    split
  · rfl
  · rfl
  · rfl
  · rfl
  · rfl
  · rfl
  · exact hq
  · exact mem_marked hq hm

/-- The context without a loaf, its blade and its pusher standing. -/
theorem emptied_brakes (s : State) : Brakes s (s.setHead s.head.emptied) :=
  Brakes.of_context .empty none none 0 none rfl rfl rfl fun _ h _ => h

theorem headHalts_brakes (s : State) : Brakes s (headHalts s) := by
  refine (knifeTo_brakes s).trans ?_
  unfold headHalts
  dsimp only
  split
  case h_7 => exact emptied_brakes _
  case h_8 => exact Brakes.refl _
  case h_9 => exact Brakes.refl _
  all_goals exact interruptLoaf_brakes _

theorem headStops_brakes (s : State) : Brakes s (headStops s) := by
  refine (knifeTo_brakes s).trans ?_
  unfold headStops
  dsimp only
  split
  case h_6 => exact emptied_brakes _
  case h_7 => exact Brakes.refl _
  case h_8 => exact Brakes.refl _
  case h_9 => exact Brakes.refl _
  all_goals exact Brakes.of_context .paused _ _ _ _ rfl rfl rfl fun _ h _ => h

section
variable {s : State} (hk : s.head.knife = false)
include hk

theorem cutStage_brakes (x : Station) : Brakes s (cutStage x s) :=
  Brakes.of_still hk rfl (fun h => ⟨h.knife, h.phase, h.previous, h.stall, h.idle, h.scan, h.centre, h.due, h.edge, h.run⟩) rfl rfl rfl

theorem stationHalts_brakes (x : Station) : Brakes s (stationHalts x s) := by
  unfold stationHalts
  dsimp only
  split
  case h_4 =>
    refine Brakes.trans ?_ (cutStage_brakes ?_ x)
    · exact Brakes.of_same rfl rfl rfl rfl rfl
    · exact hk
  all_goals exact Brakes.of_same rfl rfl rfl rfl rfl

theorem stationStops_brakes (x : Station) : Brakes s (stationStops x s) := by
  unfold stationStops
  dsimp only
  split
  case h_2 =>
    refine Brakes.trans ?_ (cutStage_brakes ?_ x)
    · exact Brakes.of_same rfl rfl rfl rfl rfl
    · exact hk
  all_goals exact Brakes.of_same rfl rfl rfl rfl rfl

theorem abortSweep_brakes : Brakes s (abortSweep s) := by
  unfold abortSweep
  split
  · exact Brakes.refl s
  · refine Brakes.trans ?_ (Brakes.of_flagged (report_flagged _ _))
    exact Brakes.of_still hk rfl (fun h => ⟨h.knife, h.phase, h.previous, h.stall, h.idle, h.scan, h.centre, h.due, h.edge, h.run⟩)
      rfl rfl rfl

end

theorem setLine_brakes (l : LineState) (s : State) : Brakes s (setLine l s) := by
  unfold setLine
  refine Brakes.trans ?_ (Brakes.of_flagged (report_flagged _ _))
  exact Brakes.of_same rfl rfl rfl rfl rfl

theorem assertHold_brakes (s : State) : Brakes s (assertHold s) := Brakes.of_same rfl rfl rfl rfl rfl

theorem trySweep_brakes (s : State) : Brakes s (trySweep s) := by
  unfold trySweep
  split
  · exact Brakes.of_same rfl rfl rfl rfl rfl
  · exact Brakes.refl s

theorem enterHalted_brakes (s : State) : Brakes s (enterHalted s) := by
  have htold : Brakes s (countShift (fun r => { r with halts := raiseCount r.halts 1 }) (setLine .halted s)) :=
    (setLine_brakes .halted s).trans (Brakes.of_same rfl rfl rfl rfl rfl)
  have hk := (headHalts_released (countShift (fun r => { r with halts := raiseCount r.halts 1 }) (setLine .halted s))).knife
  refine htold.trans ((headHalts_brakes _).trans ?_)
  have ha := stationHalts_level .a (headHalts (countShift (fun r => { r with halts := raiseCount r.halts 1 }) (setLine .halted s)))
  have hb := stationHalts_level .b (stationHalts .a (headHalts (countShift (fun r => { r with halts := raiseCount r.halts 1 })
    (setLine .halted s))))
  have hka := ha.knife.trans hk
  exact (stationHalts_brakes hk .a).trans <| (stationHalts_brakes hka .b).trans <|
    (abortSweep_brakes (hb.knife.trans hka)).trans (assertHold_brakes _)

theorem enterStopped_brakes (now : Bool) (s : State) : Brakes s (enterStopped now s) := by
  have hk := (headStops_released (setLine .stopped s)).knife
  have hka := (stationStops_level .a (headStops (setLine .stopped s))).knife.trans hk
  have hkb := (stationStops_level .b (stationStops .a (headStops (setLine .stopped s)))).knife.trans hka
  unfold enterStopped
  refine (setLine_brakes .stopped s).trans <| (headStops_brakes _).trans <| (stationStops_brakes hk .a).trans <|
    (stationStops_brakes hka .b).trans ?_
  dsimp only
  split
  · exact (abortSweep_brakes hkb).trans (assertHold_brakes _)
  · exact assertHold_brakes _

theorem trackEmpty_brakes (s : State) : Brakes s (trackEmpty s) := by
  unfold trackEmpty
  split
  · exact enterStopped_brakes false s
  · exact Brakes.refl s

theorem enterDraining_brakes (s : State) : Brakes s (enterDraining s) :=
  (setLine_brakes .draining s).trans <| (assertHold_brakes _).trans <| (trySweep_brakes _).trans (trackEmpty_brakes _)

theorem applyToLine_brakes (a : Action) (s : State) : Brakes s (applyToLine a s) := by
  cases a
  case halt =>
    unfold applyToLine
    dsimp only
    split
    · exact Brakes.refl s
    · exact enterHalted_brakes s
  case hold =>
    unfold applyToLine
    dsimp only
    split
    · exact enterDraining_brakes s
    · exact Brakes.refl s
  case nothing => exact Brakes.refl s

theorem settleBelt_brakes (s : State) : Brakes s (settleBelt s) := by
  unfold settleBelt
  split
  · exact (Brakes.of_flagged (faultMoves_flagged _ _ s)).trans (applyToLine_brakes _ _)
  · exact Brakes.refl s

theorem raiseFault_brakes (k : FaultKind) (loaf : Option Nat) (s : State) : Brakes s (raiseFault k loaf s) := by
  rw [raiseFault_eq]
  exact (Brakes.of_flagged (faultOccurs_flagged _ _ _ s)).trans <| (applyToLine_brakes _ _).trans (settleBelt_brakes _)

theorem finish_brakes (s : State) : Brakes s (finish s) := Brakes.of_flagged (finish_flagged s)

/-! ## The stall timer -/

/-- The state with the stall timer stopped. -/
abbrev unstalled (s : State) : State := s.setHead { s.head with stallTimer := none }

theorem stallExpires_eq {s : State} (h : s.head.stallTimer ≠ none) :
    stallExpires s = finish (raiseFault .bladeStall s.head.tag (unstalled s)) := by
  unfold stallExpires
  cases hs : s.head.stallTimer with
  | none => exact absurd hs h
  | some _ => rfl

theorem stallExpires_idle {s : State} (h : s.head.stallTimer = none) : stallExpires s = s := by
  unfold stallExpires
  rw [h]

/-- The entry into HALTED looks at no timer of the blade. -/
theorem haltedFrom_unstalled {s t : State} (h : HaltedFrom (unstalled s) t) : HaltedFrom s t :=
  ⟨h.line, h.hold, h.halts, h.knife, h.interrupted, h.marked, h.homed, h.stands, h.pusher, h.stations, h.tyers, h.sweep, h.crumb,
    h.aborted⟩

/-- Settles O32: PARK is a level alone, and the stall timer that runs out raises BLADE_STALL with its action (R58, R61). -/
theorem parkAndStallTimer : Obligations.ParkAndStallTimer := by
  intro high s
  refine ⟨rfl, fun h => ?_, fun h => ?_⟩
  · exact congrArg Host.Outcome.next (stallExpires_idle h)
  have hexec : exec .stallTimerExpiry s = .next (finish (raiseFault .bladeStall s.head.tag (unstalled s))) :=
    congrArg Host.Outcome.next (stallExpires_eq h)
  have hentry := ((finish_calm (raiseFault .bladeStall s.head.tag (unstalled s))).entry .bladeStall).trans
    (raiseFault_entry .bladeStall s.head.tag (unstalled s) (by decide))
  have hsteady : Steady s (unstalled s) := setHead_steady _ s rfl rfl
  refine ⟨_, hexec, (hsteady.trans ((raiseFault_steady _ _ _).trans (finish_steady _))).aside, ?_, ?_, ?_, ?_, fun hs => ?_,
    fun ha hl => ⟨?_, fun hs => ?_⟩⟩
  · exact ((raiseFault_brakes _ _ _).trans (finish_brakes _)).stall rfl
  · rw [hentry]
  · rw [hentry]
  · rw [hentry]
    rfl
  · exact (raiseFault_hears .bladeStall s.head.tag (unstalled s)).finished (by omega) (listening_of_link (s := s) rfl hs)
  · exact haltedFrom_unstalled (raiseFault_from ha hl)
  · exact (raiseFault_hears_halt (loaf := s.head.tag) (s := unstalled s) ha hl).finished (by omega) (listening_of_link (s := s) rfl hs)

end Sys2Proof.SlicingHead
end

-- ==== The slicing head, proofs: a waiting record under a doubled track ====
section
/-! A track on which a record stands twice, where SET DISTRIBUTION leaves the loaf in the slicer (O39). -/

namespace Sys2Proof.SlicingHead

open Sys2Proof.Machine Sys2Proof.Safety Sys2Proof.Laws Sys2Proof.LoafTrack

/-- A marked record that waits in TRANSFER. -/
def waitingLoaf : Loaf := { plainLoaf 1 .transfer with mark := some .operator }

/-- The record in the slicer that TRANSFER keeps there. -/
def keptLoaf : Loaf := plainLoaf 2 .slicer

/-- A track on which the record that waits stands twice (R1 gives no such track), with a pusher at the target of the loaf in the slicer. -/
def doubled : State :=
  { State.reset with
    track := { Track.powerOn with loaves := [waitingLoaf, waitingLoaf, keptLoaf] }
    head := { Head.powerOn false false with state := .ejecting, tag := some 2 } }

/-- The state after SET DISTRIBUTION on `doubled`. -/
def doubledAfter : State := serve (svcSetDistribution (some (some .fillA))) doubled

theorem exec_doubled : exec (.setDistribution (some (some .fillA))) doubled = .next doubledAfter := rfl

theorem doubled_tier : tierOk doubled .setter = true := by decide +kernel

theorem doubled_routed : ((routed waitingLoaf { doubled with stations := { doubled.stations with policy := .fillA } }).track.loaves.map
    Loaf.zone) = [.reject, .transfer, .slicer] := by decide +kernel

theorem doubledAfter_head : doubledAfter.head.state = .ejecting := by decide +kernel

/-- The one record that TRANSFER holds, twice. -/
theorem doubled_transfer : ∀ q ∈ doubled.track.loaves, q.zone = .transfer → q = waitingLoaf := by decide +kernel

/-- Refutes O39: in `doubled` the gate decision takes the first of the two copies of the record out of TRANSFER, and the second, which meets
the premise that TRANSFER holds that record alone, keeps the loaf in the slicer (R70). -/
theorem not_waitingLoafIsRoutedAgain : ¬ Obligations.WaitingLoafIsRoutedAgain := fun h => by
  obtain ⟨_, hlast⟩ := h waitingLoaf doubled rfl rfl
  obtain ⟨t, hexec, _, hgoes⟩ := hlast (.inl rfl) (by decide) rfl ⟨rfl, rfl⟩ doubled_tier keptLoaf rfl rfl doubled_transfer .fillA (by decide)
  have hhead : doubledAfter.head = t.head := by
    have he := exec_doubled.symm.trans hexec
    injection he with he
    rw [he]
    rfl
  have hmoved : (routed waitingLoaf { doubled with stations := { doubled.stations with policy := .fillA } }).track ≠ doubled.track :=
    fun e => absurd (doubled_routed.symm.trans (congrArg (fun v : Track => v.loaves.map Loaf.zone) e)) (by decide)
  obtain ⟨hhoming, _⟩ := hgoes hmoved
  rw [← hhead, doubledAfter_head] at hhoming
  cases hhoming

end Sys2Proof.SlicingHead
end

-- ==== The slicing head, proofs: the phases of the blade ====
section
/-! The begins of the blade's phases: measurement's timing (R128 to R130), the blade at a CUT begin and at a RETURN begin (R60, R61, R112), and
the context at a RETURN begin (O30). -/

namespace Sys2Proof.SlicingHead

open Sys2Proof.Machine Sys2Proof.Safety Sys2Proof.Laws Sys2Proof.LoafTrack

/-! ## The timing of a phase -/

theorem arbitrate_busy {s : State} (h : s.meas.converter ≠ none) : arbitrate s = s := by
  unfold arbitrate
  cases hc : s.meas.converter with
  | none => exact absurd hc h
  | some _ => rfl

theorem arbitrate_phase {s : State} (hc : s.meas.converter = none) (hr : s.meas.requests = [])
    (hd : (s.meas.centreDue || s.meas.edgeRun) = true) : arbitrate s = startPhaseConversion s := by
  unfold arbitrate
  rw [hc, hr]
  exact if_pos hd

/-- The blade turns in the phase that a conversion is to be stamped with. -/
def TurnsIn (ph : SamplePhase) (p : BladePhase) : Prop := (ph = .cut ∧ p = .cut) ∨ (ph = .ret ∧ p = .ret)

/-- The set of channels of a phase (R127). -/
abbrev phaseSet (m : Meas) (ph : SamplePhase) : List Channel := if ph = .cut then m.sampling.cutSet else m.sampling.retSet

theorem pointedChannel_empty (p : Option Channel) : pointedChannel [] p = none := rfl

theorem pointedChannel_pointed {set : List Channel} {c : Channel} (h : set ≠ []) : pointedChannel set (some c) = some c :=
  if_neg fun e => h (List.isEmpty_iff.mp e)

theorem startPhaseConversion_empty {s : State} {ph : SamplePhase} (hp : TurnsIn ph s.head.phase) (hs : phaseSet s.meas ph = []) :
    (startPhaseConversion s).meas = { s.meas with centreDue := false } := by
  unfold startPhaseConversion
  rcases hp with ⟨rfl, hp⟩ | ⟨rfl, hp⟩
  · have hset : s.meas.sampling.cutSet = [] := hs
    simp only [hp, hset, pointedChannel_empty, State.setMeas_meas]
  · have hset : s.meas.sampling.retSet = [] := hs
    simp only [hp, hset, pointedChannel_empty, State.setMeas_meas]

/-- A phase conversion takes the channel that the pointer of its set names, and moves the pointer on (R127). -/
theorem startPhaseConversion_pointed {s : State} {ph : SamplePhase} {c : Channel} (hp : TurnsIn ph s.head.phase)
    (hs : phaseSet s.meas ph ≠ []) (hc : (if ph = .cut then s.meas.cutPointer else s.meas.retPointer) = some c) :
    (startPhaseConversion s).meas = { s.meas with
      centreDue := false, converter := some ⟨c, s.head.stamp, ph, none⟩
      cutPointer := if ph = .cut then channelAfter (phaseSet s.meas ph) c else s.meas.cutPointer
      retPointer := if ph = .cut then s.meas.retPointer else channelAfter (phaseSet s.meas ph) c } := by
  unfold startPhaseConversion
  rcases hp with ⟨rfl, hp⟩ | ⟨rfl, hp⟩
  · have hpoint : s.meas.cutPointer = some c := hc
    have hset : s.meas.sampling.cutSet ≠ [] := hs
    simp only [hp, hpoint, pointedChannel_pointed hset]
    rfl
  · have hpoint : s.meas.retPointer = some c := hc
    have hset : s.meas.sampling.retSet ≠ [] := hs
    simp only [hp, hpoint, pointedChannel_pointed hset]
    rfl

/-- What falls due at the begin of a phase: a CENTRE conversion, or an EDGE run (R128, R129). -/
abbrev fallsDue (m : Meas) (half : Option Nat) : Meas := if half = none then { m with edgeRun := true } else { m with centreDue := true }

/-- A delay of 0 falls due at the begin, and a free converter without requests takes the set's next channel (log entry 44). -/
theorem arbitrate_due {s : State} {m : Meas} {half : Option Nat} {ph : SamplePhase} (hp : TurnsIn ph s.head.phase) :
    let n := (arbitrate (s.setMeas (fallsDue m half))).meas
    (m.converter ≠ none → n = fallsDue m half) ∧
    (m.converter = none → m.requests = [] → phaseSet m ph = [] → n = { fallsDue m half with centreDue := false }) ∧
    (m.converter = none → m.requests = [] → phaseSet m ph ≠ [] →
      ∀ c ∈ (if ph = .cut then m.cutPointer else m.retPointer), n = { fallsDue m half with
        centreDue := false, converter := some ⟨c, s.head.stamp, ph, none⟩
        cutPointer := if ph = .cut then channelAfter (phaseSet m ph) c else m.cutPointer
        retPointer := if ph = .cut then m.retPointer else channelAfter (phaseSet m ph) c }) := by
  intro n
  have hconv : (fallsDue m half).converter = m.converter := by unfold fallsDue; split <;> rfl
  have hreq : (fallsDue m half).requests = m.requests := by unfold fallsDue; split <;> rfl
  have hset : phaseSet (fallsDue m half) ph = phaseSet m ph := by unfold fallsDue; split <;> rfl
  have hcut : (fallsDue m half).cutPointer = m.cutPointer := by unfold fallsDue; split <;> rfl
  have hret : (fallsDue m half).retPointer = m.retPointer := by unfold fallsDue; split <;> rfl
  have hdue : ((fallsDue m half).centreDue || (fallsDue m half).edgeRun) = true := by
    unfold fallsDue
    split
    · exact Bool.or_true _
    · exact Bool.true_or _
  refine ⟨fun h => ?busy, fun h hr hs => ?empty, fun h hr hs c hc => ?pointed⟩
  case busy => exact congrArg State.meas (arbitrate_busy (s := s.setMeas (fallsDue m half)) (hconv.trans_ne h))
  all_goals have hphase : n = (startPhaseConversion (s.setMeas (fallsDue m half))).meas :=
    congrArg State.meas (arbitrate_phase (s := s.setMeas (fallsDue m half)) (hconv.trans h) (hreq.trans hr) hdue)
  case empty => exact hphase.trans (startPhaseConversion_empty (s := s.setMeas (fallsDue m half)) hp (hset.trans hs))
  case pointed =>
    have hpoint : (if ph = .cut then (fallsDue m half).cutPointer else (fallsDue m half).retPointer) = some c := by
      rw [hcut, hret]
      exact hc
    have := startPhaseConversion_pointed (s := s.setMeas (fallsDue m half)) hp (hset.trans_ne hs) hpoint
    rw [hphase, this]
    simp only [State.setMeas_meas, State.setMeas_head, hset, hcut, hret]

/-- The begin of a phase fixes its timing (R128 to R130). -/
theorem phaseBegins_timed {s : State} {ph : SamplePhase} (hp : TurnsIn ph s.head.phase) :
    phaseTimed s.meas.endPhase (centreDelay s) ph s.head.stamp (phaseBegins s).meas := by
  have hdue : ∀ half, (half = some 0 ∨ (half = none ∧ s.meas.endPhase.sampling.edgeDelay = 0)) → centreDelay s = half →
      (phaseBegins s).meas = (arbitrate (s.setMeas (fallsDue s.meas.endPhase half))).meas := by
    rintro half (rfl | ⟨rfl, h0⟩) hc
    · unfold phaseBegins
      rw [hc]
      rfl
    · unfold phaseBegins
      rw [hc]
      exact congrArg State.meas (if_pos h0)
  refine ⟨fun d hd h0 => ?_, fun hn h0 => ?_, fun h0 => ?_⟩
  · unfold phaseBegins
    rw [show centreDelay s = some d from hd]
    cases d with
    | zero => exact absurd rfl h0
    | succ d => rfl
  · unfold phaseBegins
    rw [hn]
    exact congrArg State.meas (if_neg h0)
  · rw [hdue _ h0 rfl]
    exact arbitrate_due hp

/-- The CENTRE delay of a phase by the mode (R128, R130). -/
theorem centreDelay_eq (s : State) : centreDelay s = s.head.previous.bind fun v =>
    if s.meas.sampling.mode = .centre ∨ (s.meas.sampling.mode = .hybrid ∧ v.1 + v.2 < s.meas.sampling.hybridPeriod * 1000)
    then some (match s.head.phase with
      | .ret => v.2 / 2
      | _ => v.1 / 2) else none := by
  unfold centreDelay
  cases s.head.previous with
  | none => rfl
  | some v => cases hm : s.meas.sampling.mode <;> simp <;> rfl

end Sys2Proof.SlicingHead
end

-- ==== The slicing head, proofs: the RETURN begin ====
section
/-! The gate decision's and the eject's reach, the blade at a RETURN begin (R60, R112), and the context there (O30). -/

namespace Sys2Proof.SlicingHead

open Sys2Proof.Machine Sys2Proof.Safety Sys2Proof.Laws Sys2Proof.LoafTrack

/-! ## The reach of the gate decision and of the eject -/

/-- The track and the stations alone have changed. -/
def Gated (s t : State) : Prop := t = { s with track := t.track, stations := t.stations }

theorem assignLoaf_gated (x : Station) (tag : Nat) (s : State) : Gated s (assignLoaf x tag s) := rfl

theorem gateDecision_gated (s : State) : Gated s (gateDecision s) := by
  unfold gateDecision
  split
  · exact rfl
  split
  · exact rfl
  split
  · exact rfl
  split
  · exact rfl
  split
  · exact rfl
  · exact assignLoaf_gated _ _ s

/-- The track, the stations and the context's own fields alone have changed: the blade and the pusher go on. -/
def Shifted (s t : State) : Prop := t = { s with
  track := t.track
  stations := t.stations
  head := { s.head with state := t.head.state, tag := t.head.tag, nextCut := t.head.nextCut, target := t.head.target } }

theorem Shifted.refl (s : State) : Shifted s s := rfl

theorem Shifted.trans {s t u : State} (h : Shifted s t) (k : Shifted t u) : Shifted s u := by
  unfold Shifted at *
  rw [k, h]

theorem Gated.shifted {s t : State} (h : Gated s t) : Shifted s t := by
  unfold Gated at h
  unfold Shifted
  rw [h]

/-- The pusher stands at the target of a loaf that it drives out, and TRANSFER is empty. -/
theorem ejectReached_iff (s : State) : ejectReached s = true ↔ (s.head.state = .ejecting ∨ s.head.state = .passing) ∧
    (s.head.pusher - s.head.target).natAbs ≤ 2 ∧ ∀ q ∈ s.track.loaves, q.zone ≠ .transfer := by
  unfold ejectReached inPosition
  rw [none_in_zone]
  simp only [Bool.and_eq_true, Bool.or_eq_true, decide_eq_true_eq, and_assoc]
  rfl

theorem endStroke_waits {s : State} (h : 2 < (s.head.pusher - s.head.target).natAbs ∨ ¬∀ q ∈ s.track.loaves, q.zone ≠ .transfer) :
    endStroke s = s := by
  refine if_neg fun e => ?_
  obtain ⟨_, hpos, hclear⟩ := (ejectReached_iff s).mp e
  rcases h with h | h
  · omega
  · exact h hclear

/-- The state in which the loaf has left the slicer, before the blade is engaged again and the gate decision is taken (R12, R70). -/
abbrev leftSlicer (tag : Nat) (s : State) : State :=
  let t := moveLoaf .slicer tag (fun r => { r with zone := .transfer, ejectCount := some s.track.beltCount }) s
  t.setHead { t.head with state := .homing, tag := none, nextCut := none, target := 0 }

theorem ejectLoaf_tagged {tag : Nat} {s : State} (h : s.head.tag = some tag) : ejectLoaf s =
    gateDecision (if s.head.state = .passing && moving s then knifeTo true (leftSlicer tag s) else leftSlicer tag s) := by
  unfold ejectLoaf
  rw [h]

/-- Outside PASSING the end of a stroke leaves the blade as it is. -/
theorem endStroke_shifted {s : State} (h : s.head.state ≠ .passing) : Shifted s (endStroke s) := by
  unfold endStroke
  split
  swap
  · exact Shifted.refl s
  cases ht : s.head.tag with
  | none =>
    unfold ejectLoaf
    rw [ht]
    exact Shifted.refl s
  | some tag =>
    rw [ejectLoaf_tagged ht, if_neg (by simp [h])]
    exact Shifted.trans (show Shifted s (leftSlicer tag s) from rfl) (gateDecision_gated _).shifted

/-! ## The blade at a RETURN begin -/

/-- Crumb control after an air-knife pulse (R112). -/
abbrev pulsedCrumb (c : Crumb) : Crumb :=
  { c with
    airKnife := true, bladeLoad := c.bladeLoad - c.settings.step
    bursting := decide (c.settings.bladeThreshold / 2 ≤ c.bladeLoad - c.settings.step) }

/-- While bursting the test against both thresholds is the test against the lower one. -/
theorem testBursting_on {c : Crumb} (h : c.bursting = true) :
    testBursting c = { c with bursting := decide (c.settings.bladeThreshold / 2 ≤ c.bladeLoad) } := by
  unfold testBursting
  split
  · rename_i hl
    rw [decide_eq_true (by omega)]
  · split
    · rename_i hl
      rw [decide_eq_false (by omega)]
    · rename_i hl
      rw [decide_eq_true (by omega), ← h]

/-- The state after the pulse that a RETURN begin gives a bursting blade, with none for one that does not burst. -/
abbrev pulsed (s : State) : State :=
  { s with
    crumb := if s.crumb.bursting = true then pulsedCrumb s.crumb else s.crumb
    shift := { s.shift with openRecord := { s.shift.openRecord with
      bursts := if s.crumb.bursting = true then min (s.shift.openRecord.bursts + 1) 4294967295 else s.shift.openRecord.bursts } } }

theorem airKnifePulse_eq (s : State) : airKnifePulse s = pulsed s := by
  unfold airKnifePulse pulsed
  by_cases h : s.crumb.bursting = true
  · have hbursts := testBursting_on (c := { s.crumb with airKnife := true, bladeLoad := s.crumb.bladeLoad - s.crumb.settings.step }) h
    rw [if_pos h, if_pos h, if_pos h, hbursts]
    rfl
  · rw [if_neg h, if_neg h, if_neg h]

/-- The head at a RETURN begin of a blade that turns (R60). -/
abbrev returnHead (elapsed : Nat) (h : Head) : Head :=
  { h with phaseInput := false, phase := .ret, cutTime := if h.phase = .cut then some elapsed else h.cutTime }

/-- The blade at a RETURN begin. -/
abbrev returnBlade (elapsed : Nat) (s : State) : State := bladeReturns elapsed (s.setHead { s.head with phaseInput := false })

theorem returnBlade_idle {elapsed : Nat} {s : State} (h : s.head.phase = .idle) :
    returnBlade elapsed s = s.setHead { s.head with phaseInput := false } := by
  unfold returnBlade bladeReturns
  simp only [State.setHead_head, h]

theorem returnBlade_turns {elapsed : Nat} {s : State} (h : s.head.phase ≠ .idle) :
    returnBlade elapsed s = phaseBegins (pulsed (s.setHead (returnHead elapsed s.head))) := by
  unfold returnBlade bladeReturns returnHead
  cases hp : s.head.phase with
  | idle => exact absurd hp h
  | cut =>
    simp only [State.setHead_head, hp, airKnifePulse_eq]
    rfl
  | ret =>
    simp only [State.setHead_head, hp, airKnifePulse_eq]
    rfl

/-- The blade at a RETURN begin, up to measurement (R60, R112). -/
abbrev returned (elapsed : Nat) (s : State) : State :=
  if s.head.phase = .idle then s.setHead { s.head with phaseInput := false } else pulsed (s.setHead (returnHead elapsed s.head))

theorem returnBlade_eq (elapsed : Nat) (s : State) : ∃ m, returnBlade elapsed s = (returned elapsed s).setMeas m := by
  by_cases h : s.head.phase = .idle
  · exact ⟨s.meas, by rw [returnBlade_idle h, returned, if_pos h]; rfl⟩
  · rw [returnBlade_turns h, returned, if_neg h]
    exact phaseBegins_meas _

/-! ## The context at a RETURN begin -/

theorem exec_returnBegin {elapsed : Nat} {s : State} (h : s.head.knife = true) :
    exec (.returnBegin elapsed) s = .next (finish (contextAtReturn (returnBlade elapsed s))) := by
  have hk : (s.setHead { s.head with phaseInput := false }).head.knife = true := h
  exact congrArg Host.Outcome.next (if_pos hk)

theorem exec_returnBegin_steady {elapsed : Nat} {s : State} (h : s.head.knife = true) :
    Steady s (finish (contextAtReturn (returnBlade elapsed s))) := by
  have hk : (s.setHead { s.head with phaseInput := false }).head.knife = true := h
  have := returnBegins_steady elapsed s
  unfold returnBegins at this
  rwa [show (if (s.setHead { s.head with phaseInput := false }).head.knife = true then _ else _) = _ from if_pos hk] at this

/-- In ENTERING and CUTTING the context of a planned loaf goes on (R64, R66). -/
theorem contextAtReturn_advances {s : State} {r : Loaf} {p : Plan} {i : Nat} (hs : s.head.state = .entering ∨ s.head.state = .cutting)
    (hr : headLoaf s = some r) (hp : r.plan = some p) (hi : s.head.nextCut = some i) : contextAtReturn s = advanceTo p i s := by
  have hplan : (headLoaf s).bind Loaf.plan = some p := by
    rw [hr]
    exact hp
  unfold contextAtReturn
  rw [hplan, hi]
  rcases hs with hs | hs <;> rw [hs]

theorem advanceTo_target {p : Plan} {i target : Nat} (s : State) (h : p.targets[i - 1]? = some target) :
    advanceTo p i s = s.setHead { s.head with state := .advancing, target := target } := by
  unfold advanceTo
  rw [h]

/-- With the plan's cuts done and the pusher short of the eject target the loaf is driven out (R66). -/
theorem advanceTo_done {p : Plan} {i : Nat} {s : State} (h : p.targets[i - 1]? = none)
    (hpos : 2 < (s.head.pusher - (p.ejectTarget : Int)).natAbs) :
    advanceTo p i s = s.setHead { s.head with state := .ejecting, target := p.ejectTarget } := by
  unfold advanceTo
  rw [h]
  exact endStroke_waits (.inl hpos)

/-- Settles O30: the context goes on to the next cut's target, or to the eject target (R64, R66). -/
theorem returnAdvancesContext : Obligations.ReturnAdvancesContext := by
  intro elapsed i r p s hk hs hr hp hi
  obtain ⟨m, hblade⟩ := returnBlade_eq elapsed s
  have hcases : (returned elapsed s).track = s.track ∧ (returned elapsed s).head.state = s.head.state ∧
      (returned elapsed s).head.tag = s.head.tag ∧ (returned elapsed s).head.nextCut = s.head.nextCut ∧
      (returned elapsed s).head.pusher = s.head.pusher ∧ (returned elapsed s).head.knife = s.head.knife := by
    unfold returned
    split <;> exact ⟨rfl, rfl, rfl, rfl, rfl, rfl⟩
  obtain ⟨htrack, hstate, htag, hnext, hpusher, hknife⟩ := hcases
  have hloaf : headLoaf (returnBlade elapsed s) = some r := by
    rw [hblade, ← hr]
    unfold headLoaf findLoaf
    simp only [State.setMeas_head, State.setMeas_track, htrack, htag]
  have hcontext : contextAtReturn (returnBlade elapsed s) = advanceTo p i (returnBlade elapsed s) := by
    refine contextAtReturn_advances ?_ hloaf hp ?_
    · rw [hblade]
      exact hstate ▸ hs
    · rw [hblade]
      exact hnext.trans hi
  refine ⟨_, exec_returnBegin hk, (exec_returnBegin_steady hk).aside, fun target ht => ?_, fun ht hpos => ?_⟩
  · rw [hcontext, advanceTo_target _ ht, hblade]
    have hn := finish_noticed (((returned elapsed s).setMeas m).setHead
      { ((returned elapsed s).setMeas m).head with state := .advancing, target := (target : Int) })
    rw [hn.track, hn.head]
    exact ⟨htrack, rfl, rfl, hnext.trans hi, htag, hknife.trans hk⟩
  · have hwaits : 2 < ((returned elapsed s).head.pusher - (p.ejectTarget : Int)).natAbs := by
      rw [hpusher]
      exact hpos
    rw [hcontext, hblade, advanceTo_done (s := (returned elapsed s).setMeas m) ht hwaits]
    have hn := finish_noticed (((returned elapsed s).setMeas m).setHead
      { ((returned elapsed s).setMeas m).head with state := .ejecting, target := (p.ejectTarget : Int) })
    rw [hn.track, hn.head]
    exact ⟨htrack, rfl, rfl, hknife.trans hk⟩

end Sys2Proof.SlicingHead
end

-- ==== The slicing head, proofs: the CUT begin, and a cut counted ====
section
/-! The blade at a CUT begin (R60, R61), and the cut that it counts (O27). -/

namespace Sys2Proof.SlicingHead

open Sys2Proof.Machine Sys2Proof.Safety Sys2Proof.Laws Sys2Proof.LoafTrack

/-! ## The blade at a CUT begin -/

/-- The head at a CUT begin (R60, R61). -/
abbrev cutHead (elapsed : Nat) (h : Head) : Head :=
  { h with
    phaseInput := true, phase := .cut, stamp := h.stamp + 1, cutTime := none, previous := previousAfterCut h elapsed
    stallTimer := some (stallAfter (previousAfterCut h elapsed)) }

/-- The blade at a CUT begin, before measurement fixes the phase's timing (R60, R61, R112, R131). -/
abbrev cutStarted (elapsed : Nat) (s : State) : State :=
  { s with
    head := cutHead elapsed s.head
    crumb := { s.crumb with airKnife := false }
    meas := if s.head.phase = .idle then s.meas.bladeTurns else s.meas }

/-- The blade at a CUT begin. -/
abbrev cutBlade (elapsed : Nat) (s : State) : State := bladeCuts elapsed (s.setHead { s.head with phaseInput := true })

theorem cutBlade_begins (elapsed : Nat) (s : State) : cutBlade elapsed s = phaseBegins (cutStarted elapsed s) := by
  unfold cutStarted
  by_cases h : s.head.phase = .idle
  · rw [if_pos h]
    exact congrArg phaseBegins (if_pos h)
  · rw [if_neg h]
    exact congrArg phaseBegins (if_neg h)

theorem cutBlade_eq (elapsed : Nat) (s : State) : ∃ m, cutBlade elapsed s =
    { s with head := cutHead elapsed s.head, crumb := { s.crumb with airKnife := false }, meas := m } := by
  obtain ⟨m, hm⟩ := phaseBegins_meas (cutStarted elapsed s)
  exact ⟨m, (cutBlade_begins elapsed s).trans hm⟩

theorem exec_cutBegin {elapsed : Nat} {s : State} (h : s.head.knife = true) :
    exec (.cutBegin elapsed) s = .next (finish (contextAtCut (cutBlade elapsed s))) := by
  have hk : (s.setHead { s.head with phaseInput := true }).head.knife = true := h
  exact congrArg Host.Outcome.next (if_pos hk)

theorem exec_cutBegin_steady {elapsed : Nat} {s : State} (h : s.head.knife = true) :
    Steady s (finish (contextAtCut (cutBlade elapsed s))) := by
  have hk : (s.setHead { s.head with phaseInput := true }).head.knife = true := h
  have := cutBegins_steady elapsed s
  unfold cutBegins at this
  rwa [show (if (s.setHead { s.head with phaseInput := true }).head.knife = true then _ else _) = _ from if_pos hk] at this

/-! ## The context at a CUT begin -/

theorem contextAtCut_advancing {s : State} {r : Loaf} {i : Nat} (hs : s.head.state = .advancing) (hr : headLoaf s = some r)
    (hi : s.head.nextCut = some i) : contextAtCut s = if inPosition s.head then countCut r i s else missCut r s := by
  unfold contextAtCut
  rw [hs, hr, hi]

/-- A context that waits for no CUT begin, or has no loaf to cut, stays (R64). -/
theorem contextAtCut_waits {s : State} (h : s.head.state ≠ .advancing ∨ headLoaf s = none ∨ s.head.nextCut = none) : contextAtCut s = s := by
  unfold contextAtCut
  split
  · rename_i hs hr hi
    rcases h with h | h | h
    · exact absurd hs h
    · rw [hr] at h
      cases h
    · rw [hi] at h
      cases h
  · rfl

theorem inPosition_iff (h : Head) : inPosition h = true ↔ (h.pusher - h.target).natAbs ≤ 2 := by
  unfold inPosition
  exact decide_eq_true_iff

/-- The loaf of the context at a CUT begin is that before it. -/
theorem headLoaf_cutBlade (elapsed : Nat) (s : State) : headLoaf (cutBlade elapsed s) = headLoaf s := by
  obtain ⟨m, hm⟩ := cutBlade_eq elapsed s
  rw [hm]
  rfl

/-! ## A cut counted -/

/-- Crumb control after the crumb of a cut (R111 to R113). -/
abbrev takenCrumb (c : Nat) (v : Crumb) : Crumb :=
  { v with
    bladeLoad := loadAfter v.bladeLoad c
    trayLoad := loadAfter v.trayLoad c
    bursting := (testBursting { v with bladeLoad := loadAfter v.bladeLoad c, trayLoad := loadAfter v.trayLoad c }).bursting
    pending := if v.trayLoad < v.settings.trayThreshold ∧ v.settings.trayThreshold ≤ loadAfter v.trayLoad c then
      some (v.pending.getD .threshold) else v.pending }

/-- The test of bursting changes nothing else of crumb control. -/
theorem testBursting_eq (c : Crumb) : testBursting c = { c with bursting := (testBursting c).bursting } := by
  unfold testBursting
  repeat' split
  all_goals rfl

theorem testBursting_reached {c : Crumb} (h : c.settings.bladeThreshold ≤ c.bladeLoad) : (testBursting c).bursting = true := by
  unfold testBursting
  rw [if_pos h]

theorem testBursting_between {c : Crumb} (h : c.bladeLoad < c.settings.bladeThreshold)
    (hh : c.settings.bladeThreshold / 2 ≤ c.bladeLoad) : (testBursting c).bursting = c.bursting := by
  unfold testBursting
  rw [if_neg (Nat.not_le.mpr h), if_neg (Nat.not_lt.mpr hh)]

theorem trySweep_occupied {s : State} (h : s.head.state ≠ .empty) : trySweep s = s := by
  refine if_neg ?_
  unfold sweepMayStart
  simp [h]

/-- While the context holds a loaf a pending sweep waits (R117). -/
theorem askSweep_occupied {reason : SweepReason} {s : State} (h : s.head.state ≠ .empty) :
    askSweep reason s = s.setCrumb { s.crumb with pending := some (s.crumb.pending.getD reason) } := by
  unfold askSweep
  cases hp : s.crumb.pending with
  | none => exact trySweep_occupied h
  | some old =>
    show s = s.setCrumb { s.crumb with pending := some old }
    rw [← hp]
    rfl

theorem crumbTakesCut_eq {c : Nat} {s : State} (h : s.head.state ≠ .empty) :
    crumbTakesCut c s = evaluate .crumbHigh (s.setCrumb (takenCrumb c s.crumb)) := by
  unfold crumbTakesCut
  dsimp only
  rw [testBursting_eq, askSweep_occupied (by exact h)]
  by_cases hc : s.crumb.trayLoad < s.crumb.settings.trayThreshold ∧ s.crumb.settings.trayThreshold ≤ loadAfter s.crumb.trayLoad c
  · rw [if_pos (by simpa using hc)]
    simp only [takenCrumb, if_pos hc]
    rfl
  · rw [if_neg (by simpa using hc)]
    simp only [takenCrumb, if_neg hc]

/-- The state with a cut counted in the record, the context and crumb control, before CRUMB_HIGH is evaluated (R65). -/
abbrev cutTaken (r : Loaf) (i : Nat) (s : State) : State :=
  { s with
    track := (modifyLoaf r.tag (fun l => { l with cutsDone := some i }) s).track
    head := { s.head with state := .cutting, nextCut := some (i + 1) }
    crumb := takenCrumb ((r.snapshot.map fun sn => sn.figures.crumb).getD 0) s.crumb }

/-- A slice counted on the line of the loaf's recipe (R160). -/
abbrev countSlice (r : Loaf) (s : State) : State :=
  countShift (fun v => { v with lines := countLine r.key (fun l => { l with slices := raiseCount l.slices 1 }) v.lines }) s

/-- The cut is the last of the loaf's plan. -/
abbrev lastCut (r : Loaf) (i : Nat) : Bool := r.plan.any fun p => decide (p.cutCount = i)

theorem countCut_eq (r : Loaf) (i : Nat) (s : State) : countCut r i s =
    let u := countSlice r (evaluate .crumbHigh (cutTaken r i s))
    if lastCut r i then warn .miscut false (u.setHead { u.head with miscuts := 0 }) else u := by
  have hcrumb := crumbTakesCut_eq (c := (r.snapshot.map fun sn => sn.figures.crumb).getD 0)
    (s := (modifyLoaf r.tag (fun l => { l with cutsDone := some i }) s).setHead
      { s.head with state := .cutting, nextCut := some (i + 1) }) (by exact nofun)
  unfold countCut
  dsimp only
  rw [show (modifyLoaf r.tag (fun l => { l with cutsDone := some i }) s).head = s.head from rfl, hcrumb]
  rfl

theorem Noticed.setHead {s t : State} (h : Noticed s t) (v : Head) : Noticed (s.setHead v) (t.setHead v) :=
  ⟨congrArg (fun x : State => x.setHead v) h.rest, h.buffer, h.enables, h.answer⟩

theorem Noticed.countShift {s t : State} (h : Noticed s t) (f : ShiftRecord → ShiftRecord) :
    Noticed (countShift f s) (Machine.countShift f t) :=
  ⟨(congrArg (Machine.countShift f) h.rest), h.buffer, h.enables, h.answer⟩

/-- A cut counted, up to its notices (R65, R69). -/
theorem countCut_noticed (r : Loaf) (i : Nat) (s : State) :
    let u := countSlice r (cutTaken r i s)
    Noticed (u.setHead { u.head with miscuts := if lastCut r i then 0 else u.head.miscuts }) (countCut r i s) := by
  intro u
  have hu : Noticed u (countSlice r (evaluate .crumbHigh (cutTaken r i s))) := Noticed.countShift (evaluate_noticed _ _) _
  rw [countCut_eq]
  dsimp only
  split
  · rw [hu.head]
    exact (Noticed.setHead hu _).trans (warn_noticed _ _ _)
  · exact hu

/-- The warnings after a cut counted: CRUMB_HIGH follows the tray, and the last cut of the plan ends MISCUT (R69, R111). -/
theorem countCut_warnings (r : Loaf) (i : Nat) (s : State) :
    (warnEntry (countCut r i s) .crumbHigh).present = crumbHighCondition (cutTaken r i s).crumb ∧
      (lastCut r i = true → (warnEntry (countCut r i s) .miscut).present = false) := by
  have hhigh : (warnEntry (evaluate .crumbHigh (cutTaken r i s)) .crumbHigh).present = crumbHighCondition (cutTaken r i s).crumb := by
    unfold evaluate
    rw [warn_entry]
    rfl
  rw [countCut_eq]
  dsimp only
  split
  · exact ⟨by rw [warn_other (by decide)]; exact hhigh, fun _ => by rw [warn_entry]⟩
  · exact ⟨hhigh, fun h => absurd h ‹_›⟩

/-- CRUMB_HIGH that comes with a cut is reported (R152). -/
theorem countCut_hears {r : Loaf} {i : Nat} {s : State} (h : (warnEntry s .crumbHigh).present = false)
    (hc : crumbHighCondition (cutTaken r i s).crumb = true) : Hears (.warning .crumbHigh true) 2 s (countCut r i s) := by
  have heval : Hears (.warning .crumbHigh true) 1 (cutTaken r i s) (evaluate .crumbHigh (cutTaken r i s)) := by
    unfold evaluate
    rw [show warnCondition (cutTaken r i s) .crumbHigh = true from hc]
    refine warn_hears fun e => ?_
    exact absurd (h.symm.trans e) (by decide)
  rw [countCut_eq]
  dsimp only
  refine Hears.trans (n := 1) (heval.of_same (s := s) rfl) ?_
  split
  · exact (warn_tells _ _ _).of_same rfl
  · exact Tells.of_link rfl 1

/-- Settles O27: the cut counted in the record, the context, crumb control and the totals (R65, R69, R111 to R113). -/
theorem cutIsCounted : Obligations.CutIsCounted := by
  intro elapsed i r s hk hs hr hi hpos c blade tray last
  obtain ⟨m, hblade⟩ := cutBlade_eq elapsed s
  have hcontext : contextAtCut (cutBlade elapsed s) = countCut r i (cutBlade elapsed s) := by
    have hin : inPosition (cutBlade elapsed s).head = true := by
      rw [hblade]
      exact (inPosition_iff _).mpr hpos
    rw [contextAtCut_advancing (by rw [hblade]; exact hs) ((headLoaf_cutBlade elapsed s).trans hr) (by rw [hblade]; exact hi), if_pos hin]
  have hn := (countCut_noticed r i (cutBlade elapsed s)).trans (finish_noticed _)
  obtain ⟨hhigh, hmiscut⟩ := countCut_warnings r i (cutBlade elapsed s)
  have hcrumb : (cutTaken r i (cutBlade elapsed s)).crumb = takenCrumb c { s.crumb with airKnife := false } := by
    rw [hblade]
  have hpresent : (warnEntry (finish (countCut r i (cutBlade elapsed s))) .crumbHigh).present =
      decide (min (2 * s.crumb.settings.trayThreshold) 65535 ≤ tray) := by
    rw [finish_warnEntry (by decide), hhigh, hcrumb]
    rfl
  refine ⟨_, exec_cutBegin hk, ?_⟩
  rw [hcontext]
  refine ⟨?_, ?_, fun hl => ?_, ?_, fun hb => ?_, fun hb hh => ?_, hpresent, fun hls h0 h1 => ?_, ?_, ?_, ?_, ?_, ?_, ?_, ?_⟩
  · rw [hn.track, hblade]
    rfl
  · rw [hn.head, hblade]
    rfl
  · rw [finish_warnEntry (by decide)]
    exact hmiscut hl
  · rw [hn.crumb, hblade]
    rfl
  · rw [hn.crumb, hblade]
    exact testBursting_reached hb
  · rw [hn.crumb, hblade]
    exact testBursting_between hb hh
  · have hc : crumbHighCondition (cutTaken r i (cutBlade elapsed s)).crumb = true := by
      rw [← hhigh, ← finish_warnEntry (by decide)]
      exact h1
    have hw : (warnEntry (cutBlade elapsed s) .crumbHigh).present = false := by
      rw [hblade]
      exact h0
    exact ((countCut_hears hw hc).of_same (s := s) (by rw [hblade])).finished (by omega) hls
  · rw [hn.shift, hblade]
    rfl
  · rw [hn.stations, hblade]
    rfl
  · rw [hn.tyers, hblade]
    rfl
  · rw [hn.recipes, hblade]
    rfl
  · rw [hn.points, hblade]
    rfl
  · rw [hn.line, hblade]
    rfl
  · rw [hn.faults, hblade]
    rfl

end Sys2Proof.SlicingHead
end

-- ==== The slicing head, proofs: a miscut, and the blade in every context ====
section
/-! A CUT begin out of position (O28), and the blade and measurement at both begins whatever the context does with them (O29). -/

namespace Sys2Proof.SlicingHead

open Sys2Proof.Machine Sys2Proof.Safety Sys2Proof.Laws Sys2Proof.LoafTrack Sys2Proof.SwitchInputs

/-! ## The miscut -/

/-- The count of miscuts in a row stands apart from the blade. -/
theorem Brakes.setMiscuts {s t : State} (h : Brakes s t) (n : Nat) :
    Brakes (s.setHead { s.head with miscuts := n }) (t.setHead { t.head with miscuts := n }) where
  pusher := h.pusher
  stamp := h.stamp
  miscuts := rfl
  input := h.input
  runs := h.runs
  stops a b c := by
    obtain ⟨h1, h2, h3, h4, h5, h6, h7, h8, h9, h10⟩ := h.stops a b c
    exact ⟨h1, h2, h3, h4, h5, h6, h7, h8, h9, h10⟩
  rests k := by
    obtain ⟨h1, h2, h3, h4, h5, h6, h7, h8, h9, h10⟩ :=
      h.rests ⟨k.knife, k.phase, k.previous, k.stall, k.idle, k.scan, k.centre, k.due, k.edge, k.run⟩
    exact ⟨h1, h2, h3, h4, h5, h6, h7, h8, h9, h10⟩
  stall := h.stall
  cut := h.cut
  air := h.air
  tray := h.tray
  marked := h.marked

theorem enterPassing_brakes (r : Loaf) (s : State) : Brakes s (enterPassing r s) := by
  unfold enterPassing
  refine Brakes.trans ?_ (knifeTo_brakes _)
  exact Brakes.of_context .passing s.head.tag none _ none rfl rfl rfl fun _ h _ => h

/-- What the abandonment of a loaf from ADVANCING leaves (R67). -/
structure Abandons (r : Loaf) (s t : State) : Prop where
  brakes : Brakes s t
  sup : t.sup = s.sup
  link : t.link = s.link
  track : t.track = s.track
  shift : t.shift = s.shift
  tag : t.head.tag = s.head.tag
  target : t.head.target = ejectTargetOf s r
  sliced : 1 ≤ r.cutsDone.getD 0 → t.head.state = .ejecting ∧ t.head.knife = s.head.knife
  uncut : r.cutsDone.getD 0 = 0 → t.head.state = .passing ∧ t.head.knife = false

theorem abandonLoaf_abandons (r : Loaf) {s : State} (h : s.head.state = .advancing) : Abandons r s (abandonLoaf r s) := by
  by_cases hc : 1 ≤ r.cutsDone.getD 0
  · rw [abandonLoaf_ejects (.inr ⟨.inr h, hc⟩)]
    exact ⟨Brakes.of_context .ejecting s.head.tag s.head.nextCut _ s.head.pausedFrom rfl rfl rfl fun _ h _ => h, rfl, rfl, rfl, rfl, rfl,
      rfl, fun _ => ⟨rfl, rfl⟩, fun h0 => absurd hc (by omega)⟩
  · rw [abandonLoaf_passes (.inr h) hc]
    obtain ⟨htrack, hstate, htarget, htag, hknife⟩ := enterPassing_spec r s
    obtain ⟨hsup, hlink, _, _⟩ := enterPassing_leaves r s
    have hshift : (enterPassing r s).shift = s.shift := by
      unfold enterPassing
      obtain ⟨_, _, _, _, _, _, he⟩ := knifeTo_off (s.setHead { s.head with
        state := .passing, nextCut := none, target := ejectTargetOf s r, pausedFrom := none })
      rw [he]
      rfl
    exact ⟨enterPassing_brakes r s, hsup, hlink, htrack, hshift, htag, htarget, fun h1 => absurd h1 hc, fun _ => ⟨hstate, hknife⟩⟩

/-- The record marked as a miscut, and its loaf abandoned (R67, R68). -/
abbrev abandonedCut (r : Loaf) (s : State) : State := abandonLoaf r (modifyLoaf r.tag (Loaf.withMark .miscut) s)

/-- The miscut counted, with its warning (R69). -/
abbrev miscutTold (r : Loaf) (s : State) : State :=
  warn .miscut true ((abandonedCut r s).setHead { (abandonedCut r s).head with miscuts := (abandonedCut r s).head.miscuts + 1 })

/-- The third miscut in a row clears the count (R69). -/
abbrev miscutsCleared (r : Loaf) (s : State) : State := (miscutTold r s).setHead { (miscutTold r s).head with miscuts := 0 }

theorem miscutsCleared_noticed (r : Loaf) (s : State) :
    Noticed ((abandonedCut r s).setHead { (abandonedCut r s).head with miscuts := 0 }) (miscutsCleared r s) := by
  have hw := warn_noticed .miscut true ((abandonedCut r s).setHead
    { (abandonedCut r s).head with miscuts := (abandonedCut r s).head.miscuts + 1 })
  unfold miscutsCleared
  rw [hw.head]
  exact Noticed.setHead hw _

section
variable {r : Loaf} {s : State} (hs : s.head.state = .advancing)
include hs

theorem abandonedCut_abandons : Abandons r (modifyLoaf r.tag (Loaf.withMark .miscut) s) (abandonedCut r s) :=
  abandonLoaf_abandons r (s := modifyLoaf r.tag (Loaf.withMark .miscut) s) hs

theorem miscutTold_miscuts : (miscutTold r s).head.miscuts = s.head.miscuts + 1 := by
  rw [(warn_noticed _ _ _).head]
  exact congrArg (· + 1) (abandonedCut_abandons hs).brakes.miscuts

theorem missCut_early (h : s.head.miscuts < 2) : missCut r s = miscutTold r s :=
  if_neg (show ¬3 ≤ (miscutTold r s).head.miscuts by rw [miscutTold_miscuts hs]; omega)

theorem missCut_third (h : 2 ≤ s.head.miscuts) : missCut r s = raiseFault .pusherFault (some r.tag) (miscutsCleared r s) :=
  if_pos (show 3 ≤ (miscutTold r s).head.miscuts by rw [miscutTold_miscuts hs]; omega)

/-- The blade, measurement and the marked records through a miscut, the count of miscuts apart (R68, R69). -/
theorem missCut_brakes : Brakes ((modifyLoaf r.tag (Loaf.withMark .miscut) s).setHead
    { s.head with miscuts := if s.head.miscuts < 2 then s.head.miscuts + 1 else 0 }) (missCut r s) := by
  have hb := (abandonedCut_abandons (r := r) hs).brakes
  by_cases h : s.head.miscuts < 2
  · rw [missCut_early hs h, if_pos h]
    have he : (abandonedCut r s).head.miscuts + 1 = s.head.miscuts + 1 := congrArg (· + 1) hb.miscuts
    unfold miscutTold
    rw [he]
    exact (hb.setMiscuts (s.head.miscuts + 1)).trans (Brakes.of_flagged (noticed_flagged (warn_noticed _ _ _)))
  · rw [missCut_third hs (Nat.not_lt.mp h), if_neg h]
    exact ((hb.setMiscuts 0).trans (Brakes.of_flagged (noticed_flagged (miscutsCleared_noticed r s)))).trans (raiseFault_brakes _ _ _)

/-- What a miscut leaves of the totals, and its warning (R69). -/
theorem missCut_told : (warnEntry (missCut r s) .miscut).present = true ∧
    (missCut r s).shift.openRecord.lines = s.shift.openRecord.lines ∧
    ((warnEntry s .miscut).present = false → Hears (.warning .miscut true) 7 s (missCut r s)) := by
  have ha := abandonedCut_abandons (r := r) hs
  have hpresent : (warnEntry (miscutTold r s) .miscut).present = true := by rw [warn_entry]
  have hlines : (miscutTold r s).shift = s.shift := (warn_noticed _ _ _).shift.trans ha.shift
  have hhears : (warnEntry s .miscut).present = false → Hears (.warning .miscut true) 1 s (miscutTold r s) := fun h0 => by
    refine (warn_hears fun e => ?_).of_same ha.link
    have hw : (warnEntry (abandonedCut r s) .miscut).present = true := e
    rw [warnEntry_of_warnings (congrArg Supervision.warnings ha.sup)] at hw
    exact absurd (h0.symm.trans hw) (by decide)
  by_cases h : s.head.miscuts < 2
  · rw [missCut_early hs h]
    exact ⟨hpresent, by rw [hlines], fun h0 => (hhears h0).mono (by omega)⟩
  · rw [missCut_third hs (Nat.not_lt.mp h)]
    have hr := raiseFault_reacts .pusherFault (some r.tag) (miscutsCleared r s)
    obtain ⟨halts, aborted, hrecord⟩ := hr.record
    refine ⟨?_, ?_, fun h0 => ?_⟩
    · rw [hr.warn]
      exact hpresent
    · rw [hrecord]
      exact (congrArg (fun v : Shift => v.openRecord.lines) hlines :)
    · exact (hhears h0).trans ((hr.tells).of_same rfl)

end

/-- The record of the context, marked as a miscut, stands in the list after it. -/
theorem missCut_record {r : Loaf} {s : State} (hs : s.head.state = .advancing) (hr : headLoaf s = some r) :
    { r with mark := r.mark.or (some .miscut) } ∈ (missCut r s).track.loaves := by
  obtain ⟨tag, _, hfind⟩ := Option.bind_eq_some_iff.mp hr
  have hfound : s.track.loaves.find? (fun l => decide (l.tag = r.tag)) = some r := by
    rw [findLoaf_tag hfind]
    exact hfind
  have hmem : r.withMark .miscut ∈ (modifyLoaf r.tag (Loaf.withMark .miscut) s).track.loaves := modifyFirst_mem _ _ _ r hfound
  refine (missCut_brakes hs).marked _ hmem ?_
  rw [← Option.isSome_iff_ne_none]
  exact withMark_isSome .miscut r

/-- Settles O28: the mark, the abandonment and the count, and the third miscut in a row (R67 to R69). -/
theorem miscutAbandonsLoaf : Obligations.MiscutAbandonsLoaf := by
  intro elapsed i r s hk hs hr hi hpos raised
  obtain ⟨m, hblade⟩ := cutBlade_eq elapsed s
  have hadv : (cutBlade elapsed s).head.state = .advancing := by rw [hblade]; exact hs
  have hloaf : headLoaf (cutBlade elapsed s) = some r := (headLoaf_cutBlade elapsed s).trans hr
  have hcontext : contextAtCut (cutBlade elapsed s) = missCut r (cutBlade elapsed s) := by
    have hout : ¬inPosition (cutBlade elapsed s).head = true := by
      rw [hblade, inPosition_iff]
      exact Nat.not_le.mpr hpos
    rw [contextAtCut_advancing hadv hloaf (by rw [hblade]; exact hi), if_neg hout]
  have haside := (exec_cutBegin_steady (elapsed := elapsed) hk).aside
  rw [hcontext] at haside
  have hb := (missCut_brakes (r := r) hadv).trans (finish_brakes _)
  have ha := abandonedCut_abandons (r := r) hadv
  obtain ⟨hpresent, hlines, htold⟩ := missCut_told (r := r) hadv
  have hlink : (cutBlade elapsed s).link = s.link := by rw [hblade]
  have hmiscuts : (cutBlade elapsed s).head.miscuts = s.head.miscuts := by rw [hblade]
  refine ⟨_, (exec_cutBegin hk).trans (by rw [hcontext]), haside, ⟨_, ?_, rfl⟩, ?_, ?_, ?_, ?_, fun hls h0 => ?_, fun hm => ?early,
    fun hm => ?third⟩
  · rw [(finish_noticed _).track]
    exact missCut_record hadv hloaf
  · rw [hb.tray, hblade]
    rfl
  · rw [(finish_noticed _).shift, hlines, hblade]
  · rw [hb.stamp, hblade]
    rfl
  · rw [finish_warnEntry (by decide)]
    exact hpresent
  · have hw : (warnEntry (cutBlade elapsed s) .miscut).present = false := by rw [hblade]; exact h0
    exact ((htold hw).of_same hlink).finished (by omega) hls
  case early =>
    have hn : Noticed _ (finish (missCut r (cutBlade elapsed s))) := finish_noticed _
    rw [missCut_early hadv (by omega)] at hn ⊢
    have hn := (warn_noticed _ _ _).trans hn
    have htarget : ejectTargetOf (modifyLoaf r.tag (Loaf.withMark .miscut) (cutBlade elapsed s)) r = ejectTargetOf s r :=
      ejectTargetOf_congr r (by rw [hblade]; rfl)
    refine ⟨?_, ?_, ?_, ?_, fun hc => ?_, fun hc => ?_⟩
    · rw [hn.head]
      show (abandonedCut r (cutBlade elapsed s)).head.miscuts + 1 = _
      rw [ha.brakes.miscuts]
      exact congrArg (· + 1) hmiscuts
    · rw [hn.head]
      exact ha.target.trans (congrArg _ htarget)
    · rw [hn.faults]
      exact (congrArg Supervision.faults ha.sup).trans (by rw [hblade]; rfl)
    · rw [hn.line]
      exact (congrArg Supervision.line ha.sup).trans (by rw [hblade]; rfl)
    · rw [hn.head]
      obtain ⟨hstate, hknife⟩ := ha.sliced hc
      exact ⟨hstate, hknife.trans (by rw [hblade]; exact hk)⟩
    · rw [hn.head]
      exact ha.uncut hc
  case third =>
    have hclear := miscutsCleared_noticed r (cutBlade elapsed s)
    have hsup : (miscutsCleared r (cutBlade elapsed s)).sup.faults = s.sup.faults :=
      hclear.faults.trans ((congrArg Supervision.faults ha.sup).trans (by rw [hblade]; rfl))
    have hold : faultEntry (miscutsCleared r (cutBlade elapsed s)) .pusherFault = faultEntry s .pusherFault :=
      congrArg (fun v : Vector FaultEntry 19 => v[faultIndex .pusherFault]) hsup
    have hentry := ((finish_calm (raiseFault .pusherFault (some r.tag) (miscutsCleared r (cutBlade elapsed s)))).entry .pusherFault).trans
      (raiseFault_entry .pusherFault (some r.tag) _ (by decide))
    rw [hold] at hentry
    have htells : Tells 1 s (miscutsCleared r (cutBlade elapsed s)) :=
      show Tells 1 s (miscutTold r (cutBlade elapsed s)) from (warn_tells _ _ _).of_same (ha.link.trans hlink)
    have hmis := hb.miscuts
    rw [missCut_third hadv (by omega)] at hmis ⊢
    refine ⟨?_, ?_, ?_, ?_, fun hls => ?_, fun hact hl => ?_⟩
    · rw [hmis]
      exact if_neg (by rw [hmiscuts]; omega)
    · rw [hentry]
    · rw [hentry]
    · rw [hentry]
    · have hhears := raiseFault_hears .pusherFault (some r.tag) (miscutsCleared r (cutBlade elapsed s))
      rw [hold] at hhears
      exact (htells.hears hhears).finished (by omega) hls
    · have hline : (miscutsCleared r (cutBlade elapsed s)).sup.line = s.sup.line :=
        hclear.line.trans ((congrArg Supervision.line ha.sup).trans (by rw [hblade]; rfl))
      have hfrom := raiseFault_from (loaf := some r.tag) ((congrArg FaultEntry.action hold).trans hact) (fun e => hl (hline.symm.trans e))
      have hrec : interruptedByHalt (miscutsCleared r (cutBlade elapsed s)).head.state = true := by
        rw [hclear.head]
        by_cases hc : 1 ≤ r.cutsDone.getD 0
        · exact congrArg interruptedByHalt (ha.sliced hc).1
        · exact congrArg interruptedByHalt (ha.uncut (by omega)).1
      obtain ⟨hstate, htag, _⟩ := hfrom.interrupted hrec
      refine ⟨hfrom.line, hstate, htag.trans ?_, hfrom.knife⟩
      rw [hclear.head]
      exact ha.tag.trans (by rw [hblade]; rfl)

end Sys2Proof.SlicingHead
end

-- ==== The slicing head, proofs: the blade in every context ====
section
/-! The blade and measurement at the begins of both phases, whatever the context does with them (O29). -/

namespace Sys2Proof.SlicingHead

open Sys2Proof.Machine Sys2Proof.Safety Sys2Proof.Laws Sys2Proof.LoafTrack Sys2Proof.SwitchInputs

/-! ## The CUT begin -/

/-- What the context leaves of the blade at a CUT begin: it goes on while KNIFE_RUN stays asserted, and rests where a miscut or a fault's
action has released it. -/
structure BladeGoes (s t : State) : Prop where
  input : t.head.phaseInput = s.head.phaseInput
  stamp : t.head.stamp = s.head.stamp
  cut : s.head.cutTime = none → t.head.cutTime = none
  air : s.crumb.airKnife = false → t.crumb.airKnife = false
  runs : t.head.knife = true → t.head.phase = s.head.phase ∧ t.head.previous = s.head.previous ∧
    t.head.stallTimer = s.head.stallTimer ∧ t.meas = s.meas
  stops : s.head.knife = true → s.head.phase ≠ .idle → t.head.knife = false → Rested t.head t.meas
  engaged : s.head.state ≠ .advancing ∨ (s.head.pusher - s.head.target).natAbs ≤ 2 → t.head.knife = s.head.knife

theorem countCut_goes (r : Loaf) (i : Nat) (s : State) : BladeGoes s (countCut r i s) := by
  have hn := countCut_noticed r i s
  refine ⟨?_, ?_, fun h => ?_, fun h => ?_, fun _ => ⟨?_, ?_, ?_, ?_⟩, fun h _ hk => ?_, fun _ => ?_⟩
  · rw [hn.head]; rfl
  · rw [hn.head]; rfl
  · rw [hn.head]; exact h
  · rw [hn.crumb]; exact h
  · rw [hn.head]; rfl
  · rw [hn.head]; rfl
  · rw [hn.head]; rfl
  · rw [hn.meas]; rfl
  · rw [hn.head] at hk
    exact absurd (h.symm.trans hk) (by decide)
  · rw [hn.head]; rfl

theorem missCut_goes {r : Loaf} {s : State} (hs : s.head.state = .advancing) (hp : ¬(s.head.pusher - s.head.target).natAbs ≤ 2) :
    BladeGoes s (missCut r s) := by
  have hb := missCut_brakes (r := r) hs
  exact ⟨hb.input, hb.stamp, hb.cut, hb.air, fun h => (hb.runs h).2, hb.stops, fun h => absurd h (not_or.mpr ⟨not_not.mpr hs, hp⟩)⟩

theorem BladeGoes.refl (s : State) : BladeGoes s s :=
  ⟨rfl, rfl, id, id, fun _ => ⟨rfl, rfl, rfl, rfl⟩, fun h _ k => absurd (h.symm.trans k) (by decide), fun _ => rfl⟩

theorem contextAtCut_goes (s : State) : BladeGoes s (contextAtCut s) := by
  by_cases hw : s.head.state ≠ .advancing ∨ headLoaf s = none ∨ s.head.nextCut = none
  · rw [contextAtCut_waits hw]
    exact BladeGoes.refl s
  obtain ⟨hs, hr, hi⟩ := not_or.mp hw |>.imp not_not.mp not_or.mp
  obtain ⟨r, hr⟩ := Option.ne_none_iff_exists'.mp hr
  obtain ⟨i, hi⟩ := Option.ne_none_iff_exists'.mp hi
  rw [contextAtCut_advancing hs hr hi]
  split
  · exact countCut_goes r i s
  · rename_i hp
    exact missCut_goes hs (fun e => hp ((inPosition_iff _).mpr e))

/-- The begin of the CUT phase fixes its timing (R128 to R130). -/
theorem cutBlade_timed (elapsed : Nat) (s : State) :
    phaseTimed (cutStarted elapsed s).meas.endPhase (centreDelay (cutStarted elapsed s)) .cut (s.head.stamp + 1) (cutBlade elapsed s).meas := by
  rw [cutBlade_begins]
  exact phaseBegins_timed (.inl ⟨rfl, rfl⟩)

/-- What the ended phase left is dropped, and with the blade starting to turn the idle timer and the scan (R131). -/
theorem cutStarted_ended (elapsed : Nat) (s : State) : (cutStarted elapsed s).meas.endPhase =
    if s.head.phase = .idle then { s.meas.endPhase with idleTimer := false, scan := [] } else s.meas.endPhase := by
  unfold cutStarted
  split <;> rfl

theorem cutStarted_delay (elapsed : Nat) (s : State) : centreDelay (cutStarted elapsed s) =
    (previousAfterCut s.head elapsed).bind fun v =>
      if s.meas.sampling.mode = .centre ∨ (s.meas.sampling.mode = .hybrid ∧ v.1 + v.2 < s.meas.sampling.hybridPeriod * 1000)
      then some (v.1 / 2) else none := by
  have hsampling : (cutStarted elapsed s).meas.sampling = s.meas.sampling := by
    unfold cutStarted
    split <;> rfl
  rw [centreDelay_eq, hsampling]

/-! ## The RETURN begin -/

/-- The context at a RETURN begin leaves the blade, the pusher, crumb control, measurement and the totals (R64, R66). -/
theorem contextAtReturn_shifted (s : State) : Shifted s (contextAtReturn s) := by
  have hadvance : ∀ p i, Shifted s (advanceTo p i s) := fun p i => by
    unfold advanceTo
    split
    · rfl
    · refine Shifted.trans ?_ (endStroke_shifted (by exact nofun))
      rfl
  unfold contextAtReturn
  split
  · exact hadvance _ _
  · exact hadvance _ _
  · exact Shifted.refl s

theorem contextAtReturn_waits {s : State} (he : s.head.state ≠ .entering) (hc : s.head.state ≠ .cutting) : contextAtReturn s = s := by
  unfold contextAtReturn
  split
  · exact absurd ‹_› he
  · exact absurd ‹_› hc
  · rfl

theorem Shifted.head {s t : State} (h : Shifted s t) : t.head = { s.head with
    state := t.head.state, tag := t.head.tag, nextCut := t.head.nextCut, target := t.head.target } := congrArg State.head h
theorem Shifted.crumb {s t : State} (h : Shifted s t) : t.crumb = s.crumb := (congrArg State.crumb h :)
theorem Shifted.meas {s t : State} (h : Shifted s t) : t.meas = s.meas := (congrArg State.meas h :)
theorem Shifted.shift {s t : State} (h : Shifted s t) : t.shift = s.shift := (congrArg State.shift h :)

/-- The begin of the RETURN phase of a blade that turns fixes its timing (R128 to R130). -/
theorem returnBlade_timed {elapsed : Nat} {s : State} (h : s.head.phase ≠ .idle) :
    phaseTimed s.meas.endPhase (s.head.previous.bind fun v =>
      if s.meas.sampling.mode = .centre ∨ (s.meas.sampling.mode = .hybrid ∧ v.1 + v.2 < s.meas.sampling.hybridPeriod * 1000)
      then some (v.2 / 2) else none) .ret s.head.stamp (returnBlade elapsed s).meas := by
  have hdelay := centreDelay_eq (pulsed (s.setHead (returnHead elapsed s.head)))
  have htimed := phaseBegins_timed (s := pulsed (s.setHead (returnHead elapsed s.head))) (ph := .ret) (.inr ⟨rfl, rfl⟩)
  rw [hdelay] at htimed
  rw [returnBlade_turns h]
  exact htimed

/-- Settles O29: the blade and measurement at a CUT begin and at a RETURN begin, in every context (R60, R61, R112, R128 to R131). -/
theorem bladeTimesRevolutions : Obligations.BladeTimesRevolutions := by
  intro elapsed s ended centred
  refine ⟨fun hk => ⟨?_, ?_⟩, fun hk => ?cut, fun hk => ?ret⟩
  · exact congrArg Host.Outcome.next (if_neg fun e => Bool.false_ne_true (hk.symm.trans e))
  · exact congrArg Host.Outcome.next (if_neg fun e => Bool.false_ne_true (hk.symm.trans e))
  case cut =>
    intro previous stall
    obtain ⟨m, hblade⟩ := cutBlade_eq elapsed s
    have hn := finish_noticed (contextAtCut (cutBlade elapsed s))
    have hg := contextAtCut_goes (cutBlade elapsed s)
    have htimed := cutBlade_timed elapsed s
    rw [cutStarted_ended, cutStarted_delay, hblade] at htimed
    rw [hblade] at hg hn
    refine ⟨_, (exec_cutBegin hk).trans (by rw [hblade]), ?_, ?_, ?_, ?_, fun h => ?_, fun h => ?_, fun h => ?_, fun h => ?_⟩
    · rw [hn.head]; exact hg.input
    · rw [hn.head]; exact hg.stamp
    · rw [hn.head]; exact hg.cut rfl
    · rw [hn.crumb]; exact hg.air rfl
    · rw [hn.head]; exact (hg.engaged h).trans hk
    · rw [hn.head] at h ⊢
      rw [hn.meas]
      obtain ⟨hphase, hprevious, hstall, hmeas⟩ := hg.runs h
      refine ⟨hphase, hprevious, hstall, ?_⟩
      rw [hmeas]
      exact htimed
    · rw [hn.head] at h ⊢
      rw [hn.meas]
      obtain ⟨_, hphase, hprevious, hstall, hidle, hscan, hcentre, hdue, hedge, hrun⟩ := hg.stops hk (by exact nofun) h
      exact ⟨hphase, hprevious, hstall, hidle, hscan, hcentre, hdue, hedge, hrun⟩
    · have hwaits := contextAtCut_waits (s := { s with head := cutHead elapsed s.head, crumb := { s.crumb with airKnife := false }, meas := m })
        (.inl h)
      rw [hwaits] at hn ⊢
      rw [hn.meas]
      exact hn
  case ret =>
    intro burst head crumb bursts
    obtain ⟨m, hblade⟩ := returnBlade_eq elapsed s
    have hn := finish_noticed (contextAtReturn (returnBlade elapsed s))
    have hc := contextAtReturn_shifted (returnBlade elapsed s)
    have hreturned : (returned elapsed s).head = (if s.head.phase = .idle then { s.head with phaseInput := false } else head) ∧
        (returned elapsed s).crumb = crumb ∧
        (returned elapsed s).shift = { s.shift with openRecord := { s.shift.openRecord with bursts := bursts } } ∧
        (returned elapsed s) = { s with
          head := (returned elapsed s).head, crumb := (returned elapsed s).crumb, shift := (returned elapsed s).shift } := by
      by_cases h : s.head.phase = .idle
      · simp only [returned, crumb, bursts, h, ne_eq, not_true, false_and, if_true, if_false]
        exact ⟨rfl, rfl, rfl, rfl⟩
      · simp only [returned, crumb, bursts, h, ne_eq, not_false_eq_true, true_and, if_false]
        exact ⟨rfl, rfl, rfl, rfl⟩
    obtain ⟨hhead, hcrumb, hshift, hrest⟩ := hreturned
    rw [hblade] at hn hc
    have hctxcrumb : (contextAtReturn ((returned elapsed s).setMeas m)).crumb = (returned elapsed s).crumb :=
      (show _ = _ from Shifted.crumb (s := (returned elapsed s).setMeas m) hc)
    have hctxshift : (contextAtReturn ((returned elapsed s).setMeas m)).shift = (returned elapsed s).shift :=
      (show _ = _ from Shifted.shift (s := (returned elapsed s).setMeas m) hc)
    have hfields : (finish (contextAtReturn ((returned elapsed s).setMeas m))).head = { (returned elapsed s).head with
        state := (contextAtReturn ((returned elapsed s).setMeas m)).head.state, tag := (contextAtReturn ((returned elapsed s).setMeas m)).head.tag
        nextCut := (contextAtReturn ((returned elapsed s).setMeas m)).head.nextCut
        target := (contextAtReturn ((returned elapsed s).setMeas m)).head.target } := hn.head.trans
          (show _ = _ from Shifted.head (s := (returned elapsed s).setMeas m) hc)
    have hmeas : (finish (contextAtReturn ((returned elapsed s).setMeas m))).meas = m := hn.meas.trans
      (show _ = _ from Shifted.meas (s := (returned elapsed s).setMeas m) hc)
    refine ⟨_, (exec_returnBegin hk).trans (by rw [hblade]), ?_, ?_, ?_, ?_, ?_, ?_, ?_, fun h => ?_, fun h => ?_, fun he hc' => ?_⟩
    · rw [hfields, hhead]; split <;> rfl
    · rw [hfields, hhead]; split <;> rfl
    · rw [hfields, hhead]; split <;> exact hk
    · rw [hfields, hhead]; split <;> rfl
    · rw [hfields, hhead]; split <;> rfl
    · exact (hn.crumb.trans hctxcrumb).trans hcrumb
    · rw [hn.shift, hctxshift]
      exact congrArg (fun v : Shift => v.openRecord.bursts) hshift
    · have hstill : m = s.meas := by
        have := congrArg State.meas hblade
        rw [returnBlade_idle h] at this
        exact this.symm
      rw [hfields, hhead, if_pos h, hmeas]
      exact ⟨h, rfl, hstill⟩
    · have htimed := returnBlade_timed (elapsed := elapsed) h
      rw [hblade] at htimed
      rw [hfields, hhead, if_neg h, hmeas]
      exact ⟨rfl, rfl, htimed⟩
    · have hstate : (returned elapsed s).head.state = s.head.state := by
        rw [hhead]
        split <;> rfl
      have hwaits := contextAtReturn_waits (s := (returned elapsed s).setMeas m) (fun e => he (hstate.symm.trans e))
        (fun e => hc' (hstate.symm.trans e))
      rw [hwaits] at hn hmeas ⊢
      rw [hmeas, ← hhead, ← hcrumb, ← hshift]
      have hstate' : (returned elapsed s).setMeas m = { s with
          head := (returned elapsed s).head, crumb := (returned elapsed s).crumb, shift := (returned elapsed s).shift, meas := m } :=
        congrArg (fun v : State => v.setMeas m) hrest
      rwa [hstate'] at hn ⊢

end Sys2Proof.SlicingHead
end

-- ==== The slicing head, proofs: the pusher ====
section
/-! The end of an eject stroke, the pusher's arrival home, and what follows them (O31: R58, R62, R70 to R72, R84, R85, R117). -/

namespace Sys2Proof.SlicingHead

open Sys2Proof.Machine Sys2Proof.Safety Sys2Proof.Laws Sys2Proof.LoafTrack Sys2Proof.SwitchInputs

/-! ## The record that leaves the slicer -/

/-- Two changes of the first record that meets a test are one. -/
theorem modifyFirst_twice {p : Loaf → Bool} {f g : Loaf → Loaf} (hf : ∀ r, p (f r) = p r) (ls : List Loaf) :
    modifyFirst p g (modifyFirst p f ls) = modifyFirst p (fun r => g (f r)) ls := by
  induction ls with
  | nil => rfl
  | cons a ls ih =>
    by_cases ha : p a = true
    · simp only [modifyFirst, ha, hf a, if_true]
    · simp only [modifyFirst, if_neg ha, ih]

/-- Where no record meets a test, the one that a change makes meet it is the first that does. -/
theorem modifyFirst_find_new {p q : Loaf → Bool} {f : Loaf → Loaf} {r : Loaf} {ls : List Loaf} (h : ls.find? p = some r)
    (hn : ∀ l ∈ ls, q l = false) (hq : q (f r) = true) : (modifyFirst p f ls).find? q = some (f r) := by
  induction ls with
  | nil => cases h
  | cons a ls ih =>
    obtain ⟨ha, hls⟩ := List.forall_mem_cons.mp hn
    by_cases hp : p a = true
    · rw [List.find?_cons_of_pos hp] at h
      cases h
      rw [modifyFirst, if_pos hp, List.find?_cons_of_pos hq]
    · rw [List.find?_cons_of_neg hp] at h
      rw [modifyFirst, if_neg hp, List.find?_cons_of_neg (by simp [ha])]
      exact ih h hls

/-- The record in TRANSFER with its eject count (R12, R70). -/
abbrev ejectedLoaf (n : Belt) (r : Loaf) : Loaf := { r with zone := .transfer, ejectCount := some n }

/-- A second move of the record that has just left the slicer is one change with the first. -/
theorem moveLoaf_left {tag : Nat} {r : Loaf} {s g : State} (f : Loaf → Loaf) (hr : findLoaf s tag = some r) (hz : r.zone = .slicer)
    (hg : g.track = (leftSlicer tag s).track) :
    (moveLoaf .transfer tag f g).track = (modifyLoaf tag (fun l => f (ejectedLoaf s.track.beltCount l)) s).track := by
  have hmove := congrArg State.track (moveLoaf_eq (ejectedLoaf s.track.beltCount) hr hz)
  have hleft : (leftSlicer tag s).track = (modifyLoaf tag (ejectedLoaf s.track.beltCount) s).track := hmove
  have hfound : findLoaf g tag = some (ejectedLoaf s.track.beltCount r) := by
    unfold findLoaf
    rw [hg, hleft]
    exact findLoaf_modify hr (show r.tag = tag from findLoaf_tag hr)
  rw [moveLoaf_eq f hfound rfl]
  show { g.track with loaves := modifyFirst (fun l => decide (l.tag = tag)) f g.track.loaves } = _
  rw [hg, hleft]
  exact congrArg (fun ls => { s.track with loaves := ls }) (modifyFirst_twice
    (p := fun l => decide (l.tag = tag)) (f := ejectedLoaf s.track.beltCount) (g := f) (fun _ => rfl) s.track.loaves)

/-- The record that has left the slicer is the oldest in a TRANSFER zone that was empty. -/
theorem oldestIn_left {tag : Nat} {r : Loaf} {s g : State} (hr : findLoaf s tag = some r) (hz : r.zone = .slicer)
    (hclear : ∀ q ∈ s.track.loaves, q.zone ≠ .transfer) (hg : g.track = (leftSlicer tag s).track) :
    oldestIn g .transfer = some (ejectedLoaf s.track.beltCount r) := by
  unfold oldestIn
  rw [hg]
  show (modifyFirst _ _ s.track.loaves).find? _ = _
  exact modifyFirst_find_new (find_in_zone hr hz) (fun l hl => decide_eq_false (hclear l hl)) (decide_eq_true rfl)

theorem left_avoids {tag : Nat} {s g : State} {z : Zone} (hz : z ≠ .transfer) (h : ∀ q ∈ s.track.loaves, q.zone ≠ z)
    (hg : g.track = (leftSlicer tag s).track) : ∀ q ∈ g.track.loaves, q.zone ≠ z := by
  rw [hg]
  intro q hq
  rcases mem_modifyFirst (p := fun l => decide (l.tag = tag) && decide (l.zone = .slicer)) hq with h' | ⟨q', _, _, rfl⟩
  · exact h q h'
  · exact hz.symm

/-! ## The gate decision on it -/

theorem gateDecision_marked {r : Loaf} {s : State} (hl : s.sup.line ≠ .halted) (ho : oldestIn s .transfer = some r)
    (hm : r.mark ≠ none) : gateDecision s = divert r.tag s := by
  obtain ⟨m, hm⟩ := Option.ne_none_iff_exists'.mp hm
  unfold gateDecision
  rw [if_neg hl, ho]
  simp only [hm]

theorem gateDecision_assigns {r : Loaf} {s : State} {cls : Nat} {x : Station} (hl : s.sup.line ≠ .halted)
    (ho : oldestIn s .transfer = some r) (hm : r.mark = none) (hj : ∀ q ∈ s.track.loaves, q.zone ≠ .reject)
    (hb : r.bagClass = some cls) (hx : chooseStation s cls = some x) : gateDecision s = assignLoaf x r.tag s := by
  have hclear : ¬(oldestIn s .reject).isSome = true := by
    rw [Option.not_isSome_iff_eq_none]
    exact (oldestIn_none_iff s .reject).mpr hj
  unfold gateDecision
  rw [if_neg hl, ho]
  simp only [hm, if_neg hclear, hb, Option.bind_some, hx]

/-- The station takes the tag of the assigned loaf and starts its travel count (R85, R88). -/
theorem assignLoaf_station (x : Station) (tag : Nat) (s : State) : stationRec (assignLoaf x tag s) x = { stationRec s x with
    state := .filling, tag := some tag, attempt := none
    travel := some (s.track.geometry.dTransfer * s.track.geometry.k / 100) } := by
  cases x <;> rfl

/-- STATION_GATE follows the assigned station where the machine has two (R85). -/
theorem assignLoaf_gate (x : Station) (tag : Nat) (s : State) : (assignLoaf x tag s).stations.stationGate =
    if s.member = .bl340 then decide (x = .b) else s.stations.stationGate := by
  show (match s.member with | .bl340 => decide (x = Station.b) | .bl320 => s.stations.stationGate) = _
  cases s.member <;> rfl

/-- The blade's engagement changes the head alone. -/
theorem knifeTo_on (s : State) : knifeTo true s = s.setHead { s.head with
    knife := true, stallTimer := if s.head.knife then s.head.stallTimer else some 1000000 } := by
  unfold knifeTo
  by_cases h : s.head.knife = true
  · rw [if_pos h, if_pos h, ← h]
    rfl
  · rw [if_neg h, if_neg h, if_pos rfl]
    rfl

/-- The state before the gate decision at the end of a stroke. -/
abbrev strokeEnded (tag : Nat) (s : State) : State :=
  if s.head.state = .passing && moving s then knifeTo true (leftSlicer tag s) else leftSlicer tag s

/-- The head at the end of a stroke: homing, the blade engaged again after a pass-through of a moving line (R71). -/
theorem strokeEnded_eq (tag : Nat) (s : State) : ∃ k stall, strokeEnded tag s = (leftSlicer tag s).setHead
    { (leftSlicer tag s).head with knife := k, stallTimer := stall } ∧
    (s.head.state = .passing → s.head.knife = false → s.sup.line = .running ∨ s.sup.line = .draining →
      k = true ∧ stall = some 1000000) := by
  unfold strokeEnded
  split
  · refine ⟨_, _, knifeTo_on _, fun _ hk _ => ⟨rfl, ?_⟩⟩
    exact if_neg (by rw [show (leftSlicer tag s).head.knife = s.head.knife from rfl, hk]; exact Bool.false_ne_true)
  · rename_i hn
    refine ⟨s.head.knife, s.head.stallTimer, rfl, fun hp _ hl => absurd ?_ hn⟩
    simpa [moving, hp] using hl

/-- A stroke that has reached its target over a clear TRANSFER zone ends. -/
theorem endStroke_ends {tag : Nat} {s : State} (hs : s.head.state = .ejecting ∨ s.head.state = .passing) (ht : s.head.tag = some tag)
    (hp : (s.head.pusher - s.head.target).natAbs ≤ 2) (hc : ∀ q ∈ s.track.loaves, q.zone ≠ .transfer) :
    endStroke s = gateDecision (strokeEnded tag s) := by
  unfold endStroke
  rw [if_pos ((ejectReached_iff s).mpr ⟨hs, hp, hc⟩), ejectLoaf_tagged ht]

/-! ## The arrival home -/

/-- While a sweep runs the admission test changes nothing (R114). -/
theorem testAdmission_sweeping {s : State} (h : s.crumb.sweep ≠ none) : testAdmission s = s := by
  have hsome : s.crumb.sweep.isSome = true := Option.isSome_iff_ne_none.mpr h
  have hnone : s.crumb.sweep.isNone = false := by rw [← Option.not_isSome, hsome]; rfl
  unfold testAdmission
  split
  · split
    · rfl
    · split
      · rfl
      · simp only [crumbAnswer, hsome, if_true, hnone, Bool.false_and]
        rfl
  · rfl

theorem testAdmission_noLoaf {s : State} (h : oldestIn s .infeed = none) : testAdmission s = s := by
  unfold testAdmission
  rw [h]
  exact ite_self _

theorem trySweep_unasked {s : State} (h : s.crumb.pending = none) : trySweep s = s := by
  refine if_neg ?_
  simp [sweepMayStart, h]

/-- A pending sweep starts over an empty slicer with the pusher home (R117). -/
theorem trySweep_starts {s : State} (hp : s.crumb.pending ≠ none) (hs : s.crumb.sweep = none) (hu : ¬Suspended s)
    (hz : ∀ q ∈ s.track.loaves, q.zone ≠ .slicer) (he : s.head.state = .empty) (hh : s.head.pusher.natAbs ≤ 2)
    (hl : s.sup.line ≠ .halted) : trySweep s = s.setCrumb { s.crumb with
      sweep := some ⟨s.crumb.settings.sweepTime, s.crumb.settings.pressure, false, true, true, none⟩ } := by
  have hhome : pusherHome s.head = true := decide_eq_true hh
  have hnone : (oldestIn s .slicer).isNone = true := by
    rw [none_in_zone]
    exact decide_eq_true hz
  refine if_pos ?_
  simp [sweepMayStart, Option.isSome_iff_ne_none, hp, hs, not_suspended hu, hnone, he, hhome, hl]

/-- The head that a pusher step brings home (R72). -/
abbrev homeHead (count : Int) (h : Head) : Head :=
  if h.state = .homing then { h with pusher := count, state := .empty, tag := none, nextCut := none, target := 0, pausedFrom := none }
  else { h with pusher := count }

theorem pusherMoved_homing {home : Bool} {s : State} (h : s.head.state = .homing) :
    pusherMoved home s = if pusherHome s.head then slicerFree (s.setHead s.head.emptied) else s := by
  unfold pusherMoved
  rw [h]

theorem pusherMoved_empty {home : Bool} {s : State} (h : s.head.state = .empty) :
    pusherMoved home s = if pusherHome s.head && !home then slicerFree s else s := by
  unfold pusherMoved
  rw [h]

/-- The pusher's arrival frees the slicer; short of home only the count changes. -/
theorem pusherMoved_arrives {count : Int} {s : State}
    (h : s.head.state = .homing ∨ (s.head.state = .empty ∧ 2 < s.head.pusher.natAbs)) :
    pusherMoved (pusherHome s.head) (s.setHead { s.head with pusher := count }) =
      if count.natAbs ≤ 2 then slicerFree (s.setHead (homeHead count s.head)) else s.setHead { s.head with pusher := count } := by
  have hhome : pusherHome (s.setHead { s.head with pusher := count }).head = decide (count.natAbs ≤ 2) := rfl
  unfold homeHead
  rcases h with h | ⟨h, haway⟩
  · rw [pusherMoved_homing (by exact h), hhome, if_pos h]
    simp only [decide_eq_true_eq]
    rfl
  · have hwas : pusherHome s.head = false := decide_eq_false (Nat.not_le.mpr haway)
    rw [pusherMoved_empty (by exact h), hhome, hwas, Bool.not_false, Bool.and_true,
      if_neg (c := s.head.state = .homing) (by rw [h]; exact nofun)]
    simp only [decide_eq_true_eq]

/-- A step that neither drives a loaf out nor brings the pusher home changes the count alone. -/
theorem pusherMoved_waits {count : Int} {s : State} (hd : ¬(s.head.state = .ejecting ∨ s.head.state = .passing))
    (ha : ¬(s.head.state = .homing ∨ (s.head.state = .empty ∧ 2 < s.head.pusher.natAbs))) :
    pusherMoved (pusherHome s.head) (s.setHead { s.head with pusher := count }) = s.setHead { s.head with pusher := count } := by
  obtain ⟨he, hp⟩ := not_or.mp hd
  obtain ⟨hh, hempty⟩ := not_or.mp ha
  unfold pusherMoved
  split
  · exact absurd ‹_› he
  · exact absurd ‹_› hp
  · exact absurd ‹_› hh
  · rename_i hs
    have hwas : pusherHome s.head = true := decide_eq_true (Nat.not_lt.mp fun hl => hempty ⟨hs, hl⟩)
    rw [hwas, Bool.not_true, Bool.and_false]
    rfl
  · rfl

theorem pusherMoved_drives {home : Bool} {s : State} (h : s.head.state = .ejecting ∨ s.head.state = .passing) :
    pusherMoved home s = endStroke s := by
  unfold pusherMoved
  rcases h with h | h <;> rw [h]

/-- Settles O31: the end of an eject stroke, the arrival home, and the steps between them. -/
theorem pusherStepMovesContext : Obligations.PusherStepMovesContext := by
  intro forward s count drives clear arrives home sweeps
  let counted : State := s.setHead { s.head with pusher := count }
  have hsteady : Steady s (finish (pusherMoved (pusherHome s.head) counted)) :=
    (pusherStep_steady forward s).trans (finish_steady _)
  refine ⟨finish (pusherMoved (pusherHome s.head) counted), rfl, fun hd ha => ?_, fun hd hw => ?_, ?ends, fun ha hc => ?_, fun ha hc => ?home⟩
  · rw [pusherMoved_waits hd ha]
    exact finish_noticed _
  · rw [pusherMoved_drives (s := counted) hd, endStroke_waits (s := counted) hw]
    exact finish_noticed _
  case ends =>
    intro r hr hd hz hpos hclear hl
    refine ⟨hsteady.aside, ?_⟩
    obtain ⟨tag, htag, hfind⟩ : ∃ tag, s.head.tag = some tag ∧ findLoaf s tag = some r := Option.bind_eq_some_iff.mp hr
    obtain rfl := findLoaf_tag hfind
    have hended := endStroke_ends (s := counted) hd htag hpos hclear
    obtain ⟨k, stall, hstroke, hblade⟩ := strokeEnded_eq r.tag counted
    rw [pusherMoved_drives (s := counted) hd, hended]
    have hgated := gateDecision_gated (strokeEnded r.tag counted)
    have hn := finish_noticed (gateDecision (strokeEnded r.tag counted))
    rw [hstroke] at hgated hn ⊢
    generalize hg : (leftSlicer r.tag counted).setHead { (leftSlicer r.tag counted).head with knife := k, stallTimer := stall } = g at *
    have htrack : g.track = (leftSlicer r.tag s).track := by rw [← hg]; rfl
    have hhead : (finish (gateDecision g)).head = { s.head with
        pusher := count, state := .homing, tag := none, nextCut := none, target := 0, knife := k, stallTimer := stall } := by
      rw [hn.head, hgated, ← hg]
      rfl
    have hline : g.sup.line ≠ .halted := by rw [← hg]; exact hl
    have holdest : oldestIn g .transfer = some (ejectedLoaf s.track.beltCount r) := oldestIn_left hfind hz hclear htrack
    rw [hhead]
    refine ⟨rfl, rfl, rfl, rfl, hblade, fun hm => ?_, fun cls hcls x hm hreject hx => ?_⟩
    · rw [hn.track, gateDecision_marked hline holdest hm]
      refine (moveLoaf_left _ hfind hz htrack).trans ?_
      have hgeo : g.track.geometry = s.track.geometry := by rw [htrack]; rfl
      unfold armedCheck
      rw [hgeo]
      rfl
    · have hchoose : chooseStation g cls = some x := by rw [← hx, ← hg]; rfl
      have hassigned := gateDecision_assigns hline holdest hm (left_avoids (by decide) hreject htrack) hcls hchoose
      have hmoved := moveLoaf_left (fun l => { l with zone := .station x, station := some x }) hfind hz htrack
      have hstations : g.stations = s.stations ∧ g.member = s.member := by rw [← hg]; exact ⟨rfl, rfl⟩
      rw [hassigned] at hn ⊢
      have hrec : stationRec (finish (assignLoaf x r.tag g)) x = stationRec (assignLoaf x r.tag g) x :=
        congrArg (fun v : Stations => v.recs.get x) hn.stations
      rw [hn.track, hn.stations, hrec, assignLoaf_station, htrack, ← hstations.1, ← hstations.2]
      exact ⟨hmoved, rfl, rfl, rfl, rfl, assignLoaf_gate x r.tag g⟩
  · rw [pusherMoved_arrives ha, if_neg (Nat.not_le.mpr hc)]
    exact finish_noticed _
  case home =>
    let freed : State := s.setHead (homeHead count s.head)
    have hempty : (homeHead count s.head).state = .empty ∧ (homeHead count s.head).pusher = count := by
      unfold homeHead
      split
      · exact ⟨rfl, rfl⟩
      · exact ⟨(ha.resolve_left ‹_›).1, rfl⟩
    obtain ⟨hstate, hpusher⟩ := hempty
    rw [pusherMoved_arrives ha, if_pos hc]
    refine ⟨fun hp hno => ?_, fun ⟨hp, hs, hz, htray, hvac, hl⟩ => ?_, fun r hr hidle hb => ?_⟩
    · have hstill : slicerFree freed = freed := by
        unfold slicerFree
        rw [trySweep_unasked (s := freed) hp]
        exact hno.elim (testAdmission_uncovered (s := freed)) (testAdmission_noLoaf (s := freed))
      rw [hstill]
      exact finish_noticed _
    · have hstarts := trySweep_starts (s := freed) hp hs (not_or.mpr ⟨not_not.mpr htray, not_not.mpr hvac⟩) hz hstate (hpusher ▸ hc) hl
      have hsweeps : slicerFree freed = _ := (congrArg testAdmission hstarts).trans (testAdmission_sweeping (Option.some_ne_none _))
      rw [hsweeps]
      exact finish_noticed _
    · have hwaits : trySweep freed = freed := by
        rcases hidle with hp | hs | hu
        · exact trySweep_unasked hp
        · exact trySweep_idle (.inl hs)
        · exact trySweep_idle (.inr ((suspended_iff _).mpr hu))
      have hfree : slicerFree freed = testAdmission freed := congrArg testAdmission hwaits
      rw [hfree]
      exact testAdmission_tested r freed hr hb

end Sys2Proof.SlicingHead
end

-- ==== The slicing head, proofs: the end of a run ====
section
/-! STOP NOW and STOP DRAIN (O47: R73, R94, R120, R141, R142, R152). -/

namespace Sys2Proof.SlicingHead

open Sys2Proof.Machine Sys2Proof.Safety Sys2Proof.Laws Sys2Proof.LoafTrack

/-! ## The head -/

/-- The context at the entry into STOPPED, with what the head leaves alone (R73). -/
structure HeadStopped (s t : State) : Prop where
  knife : t.head.knife = false
  pusher : t.head.pusher = s.head.pusher
  stamp : t.head.stamp = s.head.stamp
  paused : s.head.state = .entering ∨ s.head.state = .advancing ∨ s.head.state = .cutting ∨ s.head.state = .ejecting ∨
      s.head.state = .passing → t.head.state = .paused ∧ t.head.pausedFrom = some s.head.state ∧ t.head.tag = s.head.tag ∧
    t.head.nextCut = s.head.nextCut ∧ t.head.target = s.head.target
  homed : s.head.state = .homing ∨ s.head.state = .empty → t.head.state = .empty
  crumb : ∃ air, t.crumb = { s.crumb with airKnife := air }

/-- The context of a released blade at the entry into STOPPED. -/
def stoppedHead (h : Head) : Head :=
  match h.state with
  | .entering | .advancing | .cutting | .ejecting | .passing => { h with state := .paused, pausedFrom := some h.state }
  | .homing => h.emptied
  | .empty | .paused | .interrupted => h

theorem stoppedHead_paused {h : Head} (hs : h.state = .entering ∨ h.state = .advancing ∨ h.state = .cutting ∨ h.state = .ejecting ∨
    h.state = .passing) : stoppedHead h = { h with state := .paused, pausedFrom := some h.state } := by
  unfold stoppedHead
  rcases hs with hs | hs | hs | hs | hs <;> simp only [hs]

theorem stoppedHead_empty {h : Head} (hs : h.state = .homing ∨ h.state = .empty) : (stoppedHead h).state = .empty := by
  unfold stoppedHead
  rcases hs with hs | hs
  · simp only [hs]
    rfl
  · simp only [hs]

theorem stoppedHead_keeps (h : Head) : (stoppedHead h).knife = h.knife ∧ (stoppedHead h).pusher = h.pusher ∧
    (stoppedHead h).stamp = h.stamp := by
  unfold stoppedHead
  split <;> exact ⟨rfl, rfl, rfl⟩

theorem headStops_eq (s : State) : headStops s = (knifeTo false s).setHead (stoppedHead (knifeTo false s).head) := by
  unfold headStops stoppedHead
  dsimp only
  cases h : (knifeTo false s).head.state <;> rfl

theorem headStops_stopped (s : State) : HeadStopped s (headStops s) := by
  obtain ⟨stall, ph, cut, pair, air, m, hk⟩ := knifeTo_off s
  rw [headStops_eq, hk]
  obtain ⟨hknife, hpusher, hstamp⟩ := stoppedHead_keeps { s.head with
    knife := false, stallTimer := stall, phase := ph, cutTime := cut, previous := pair }
  refine ⟨hknife, hpusher, hstamp, fun h => ?_, fun h => stoppedHead_empty h, ⟨air, rfl⟩⟩
  show (stoppedHead _).state = _ ∧ _
  rw [stoppedHead_paused (by exact h)]
  exact ⟨rfl, rfl, rfl, rfl, rfl⟩

theorem headStops_rest (s : State) : headStops s = { s with
    head := (headStops s).head, crumb := (headStops s).crumb, meas := (headStops s).meas } := by
  obtain ⟨stall, ph, cut, pair, air, m, hk⟩ := knifeTo_off s
  rw [headStops_eq, hk]
  rfl

/-! ## The stations -/

/-- A station's record at the entry into STOPPED (R94). -/
def stoppedRec (r : StationRec) : StationRec :=
  { r with
    held := r.held || decide (r.state = .filling ∨ r.state = .tying)
    scoopTimer := if r.state = .filling then none else r.scoopTimer }

/-- What the stop of a station does to it, and what it leaves alone. -/
structure StationStopped (x : Station) (s t : State) : Prop where
  recs : ∀ y, stationRec t y = if y = x then stoppedRec (stationRec s y) else stationRec s y
  tyers : ∀ y, tyerOf t y = if y = x then haltedTyer (stationRec s y) (tyerOf s y) else tyerOf s y
  rest : t = { s with stations := t.stations, tyers := t.tyers, meas := t.meas }

theorem StationStopped.of_set {x : Station} {s t : State} (r : StationRec) (hr : stationRec t = Function.update (stationRec s) x r)
    (hx : r = stoppedRec (stationRec s x)) (k : Tyer) (hk : tyerOf t = Function.update (tyerOf s) x k)
    (hy : k = haltedTyer (stationRec s x) (tyerOf s x)) (hrest : t = { s with stations := t.stations, tyers := t.tyers, meas := t.meas }) :
    StationStopped x s t := by
  refine ⟨fun y => ?_, fun y => ?_, hrest⟩
  · rw [hr, Function.update_apply]
    split
    · rename_i e
      rw [e, hx]
    · rfl
  · rw [hk, Function.update_apply]
    split
    · rename_i e
      rw [e, hy]
    · rfl

theorem stationStops_stopped (x : Station) (s : State) : StationStopped x s (stationStops x s) := by
  have idle : (stationRec s x).state ≠ .filling → (stationRec s x).state ≠ .tying → StationStopped x s s := fun hf ht =>
    StationStopped.of_set _ (Function.update_eq_self x (stationRec s)).symm (by simp [stoppedRec, hf, ht]) (tyerOf s x)
      (Function.update_eq_self x (tyerOf s)).symm (by simp [haltedTyer, ht]) rfl
  unfold stationStops
  dsimp only
  split
  case h_1 hs =>
    exact StationStopped.of_set _ (stationRec_setStation x _ s) (by simp [stoppedRec, hs]) (tyerOf s x)
      (Function.update_eq_self x (tyerOf s)).symm (by simp [haltedTyer, hs]) rfl
  case h_2 hs =>
    exact StationStopped.of_set _ (stationRec_setStation x _ s) (by simp [stoppedRec, hs]) _ (tyerOf_setTyer x _ s)
      (by simp [haltedTyer, hs]) rfl
  all_goals
    rename_i hs
    exact idle (by rw [hs]; nofun) (by rw [hs]; nofun)

/-- Both stations stopped. -/
theorem stationsStop_spec (s : State) : let t := stationStops .b (stationStops .a s)
    (∀ x, stationRec t x = stoppedRec (stationRec s x)) ∧ (∀ x, tyerOf t x = haltedTyer (stationRec s x) (tyerOf s x)) ∧
      t = { s with stations := t.stations, tyers := t.tyers, meas := t.meas } := by
  have ha := stationStops_stopped .a s
  have hb := stationStops_stopped .b (stationStops .a s)
  refine ⟨fun x => ?_, fun x => ?_, ?_⟩
  · rw [hb.recs, ha.recs]
    cases x <;> rfl
  · rw [hb.tyers, ha.tyers, ha.recs]
    cases x <;> rfl
  · refine hb.rest.trans ?_
    rw [ha.rest]

/-! ## The entry into STOPPED -/

/-- The line's entry into STOPPED at a STOP NOW, a sweep aborted (R73, R94, R120, R139). -/
structure StoppedFrom (s t : State) : Prop where
  head : ∃ u, HeadStopped s u ∧ t.head = u.head ∧ t.crumb = { u.crumb with sweep := none }
  track : t.track = { s.track with infeedHold := true }
  line : t.sup.line = .stopped
  faults : t.sup.faults = s.sup.faults
  recs : ∀ x, stationRec t x = stoppedRec (stationRec s x)
  tyers : ∀ x, tyerOf t x = haltedTyer (stationRec s x) (tyerOf s x)
  aborted : t.shift.openRecord.sweepsAborted = if s.crumb.sweep.isSome then min (s.shift.openRecord.sweepsAborted + 1) 4294967295
    else s.shift.openRecord.sweepsAborted

/-- The state before the sweep is aborted. -/
abbrev bothStopped (s : State) : State := stationStops .b (stationStops .a (headStops (setLine .stopped s)))

theorem enterStopped_now (s : State) : enterStopped true s = assertHold (abortSweep (bothStopped s)) := rfl

theorem setLine_linked (l : LineState) (s : State) : ∃ link, setLine l s = { s with sup := { s.sup with line := l }, link := link } := by
  refine ⟨(setLine l s).link, ?_⟩
  unfold setLine
  rw [report_eq]
  rfl

theorem bothStopped_spec (s : State) : ∃ u, HeadStopped s u ∧ (bothStopped s).head = u.head ∧ (bothStopped s).crumb = u.crumb ∧
    (bothStopped s).track = s.track ∧ (bothStopped s).sup = { s.sup with line := .stopped } ∧ (bothStopped s).shift = s.shift ∧
    (∀ x, stationRec (bothStopped s) x = stoppedRec (stationRec s x)) ∧
    (∀ x, tyerOf (bothStopped s) x = haltedTyer (stationRec s x) (tyerOf s x)) := by
  obtain ⟨link, hline⟩ := setLine_linked .stopped s
  have hh := headStops_stopped (setLine .stopped s)
  have hrest := headStops_rest (setLine .stopped s)
  obtain ⟨hrecs, htyers, hstop⟩ := stationsStop_spec (headStops (setLine .stopped s))
  unfold bothStopped
  generalize headStops (setLine .stopped s) = u at *
  rw [hline] at hh hrest
  refine ⟨u, ⟨hh.knife, hh.pusher, hh.stamp, hh.paused, hh.homed, hh.crumb⟩, ?_⟩
  have hstations : ∀ x, stationRec u x = stationRec s x := fun x => by rw [hrest]; rfl
  have htyer : ∀ x, tyerOf u x = tyerOf s x := fun x => by rw [hrest]; rfl
  simp only [hstations, htyer] at hrecs htyers
  generalize stationStops .b (stationStops .a u) = v at *
  refine ⟨by rw [hstop], by rw [hstop], by rw [hstop, hrest], by rw [hstop, hrest], by rw [hstop, hrest], hrecs, htyers⟩

theorem abortSweep_sup (s : State) : (abortSweep s).sup = s.sup := by
  unfold abortSweep
  split
  · rfl
  · rw [report_eq]
    rfl

theorem enterStopped_from (s : State) : StoppedFrom s (enterStopped true s) := by
  obtain ⟨u, hu, hhead, hcrumb, htrack, hsup, hshift, hrecs, htyers⟩ := bothStopped_spec s
  obtain ⟨astations, atyers, ahead, atrack, acrumb, ashift⟩ := abortSweep_spec (bothStopped s)
  have asup := abortSweep_sup (bothStopped s)
  obtain ⟨air, hair⟩ := hu.crumb
  have hsweep : (bothStopped s).crumb.sweep = s.crumb.sweep := by rw [hcrumb, hair]
  rw [enterStopped_now]
  generalize abortSweep (bothStopped s) = v at *
  generalize bothStopped s = w at *
  refine ⟨⟨u, hu, ahead.trans hhead, acrumb.trans (by rw [hcrumb])⟩, ?_, ?_, ?_, fun x => ?_, fun x => ?_, ?_⟩
  · show { v.track with infeedHold := true } = _
    rw [atrack, htrack]
  · show v.sup.line = _
    rw [asup, hsup]
  · show v.sup.faults = _
    rw [asup, hsup]
  · refine Eq.trans ?_ (hrecs x)
    exact congrArg (fun p : Stations => p.recs.get x) astations
  · refine Eq.trans ?_ (htyers x)
    exact congrArg (fun p : PerStation Tyer => p.get x) atyers
  · show v.shift.openRecord.sweepsAborted = _
    rw [ashift, hshift, hsweep]

/-! ## The reports -/

theorem enterStopped_now_hears (s : State) : Hears (.line .stopped) 2 s (enterStopped true s) :=
  (setLine_hears .stopped s).trans <| ((headStops_reacts _).trans <| (stationStops_reacts .a _).trans <|
    (stationStops_reacts .b _).trans <| (abortSweep_reacts _).trans (assertHold_reacts _)).tells

/-- A sweep that is aborted is reported with its reason (R120, R152). -/
theorem abortSweep_hears {s : State} {reason : SweepReason} (h : s.crumb.sweep ≠ none) (hp : s.crumb.pending = some reason) :
    Hears (.sweep reason .aborted s.crumb.trayLoad) 1 s (abortSweep s) := by
  unfold abortSweep
  split
  · exact absurd ‹_› h
  · rw [hp]
    exact Hears.of_same (report_hears _ _) rfl

theorem enterStopped_now_hears_sweep {s : State} {reason : SweepReason} (h : s.crumb.sweep ≠ none) (hp : s.crumb.pending = some reason) :
    Hears (.sweep reason .aborted s.crumb.trayLoad) 2 s (enterStopped true s) := by
  obtain ⟨u, hu, _, hcrumb, _⟩ := bothStopped_spec s
  obtain ⟨air, hair⟩ := hu.crumb
  have hkept : (bothStopped s).crumb = { s.crumb with airKnife := air } := hcrumb.trans hair
  have htells : Tells 1 s (bothStopped s) := ((setLine_reacts .stopped s).trans <| (headStops_reacts _).trans <|
    (stationStops_reacts .a _).trans (stationStops_reacts .b _)).tells
  have hears := abortSweep_hears (s := bothStopped s) (reason := reason) (by rw [hkept]; exact h) (by rw [hkept]; exact hp)
  rw [hkept] at hears
  exact htells.hears (hears.trans (assertHold_reacts _).tells)

/-- What is reported of a request's effect waits in the queue of a busy transmitter. -/
theorem Hears.queued {r : Report} {n : Nat} {s t : State} (h : Hears r n s t) (hn : n ≤ 16) (hs : Listening s) : r ∈ t.link.queue := by
  obtain ⟨rs, _, hr, hl⟩ := h (listening_room hs hn)
  rw [hl]
  exact List.mem_append_right _ hr

/-! ## The requests -/

/-- The state after STOP NOW, up to its reply. -/
abbrev stoppedNow (s : State) : State := evaluate .noStation (settleBelt (enterStopped true s))

/-- The state after STOP DRAIN, up to its reply. -/
abbrev drained (s : State) : State := evaluate .noStation (settleBelt (enterDraining s))

theorem stopNow_taken {s : State} (hf : Free s) (h : s.sup.line = .running ∨ s.sup.line = .draining) :
    exec (.stopNow (some ())) s = .next (answered (accepted "STOP" [codes (lineText (stoppedNow s).sup.line)]) (stoppedNow s)) :=
  taken hf (by
    unfold svcStopNow withForm
    exact (needTier_pass (operator_ok s)).trans (require_pass (moving_of h)))

theorem stopNow_refused {s : State} (hf : Free s) (h : s.sup.line = .stopped ∨ s.sup.line = .halted) :
    exec (.stopNow (some ())) s = .next (answered (refusal .state) s) :=
  taken hf (by
    unfold svcStopNow withForm
    exact (needTier_pass (operator_ok s)).trans (require_fail (standing_of h)))

theorem stopDrain_taken {s : State} (hf : Free s) (h : s.sup.line = .running) :
    exec (.stopDrain (some ())) s = .next (answered (accepted "STOP" [codes (lineText (drained s).sup.line)]) (drained s)) :=
  taken hf (by
    unfold svcStopDrain withForm
    exact (needTier_pass (operator_ok s)).trans (require_pass (decide_eq_true h)))

theorem stopDrain_refused {s : State} (hf : Free s) (h : s.sup.line ≠ .running) :
    exec (.stopDrain (some ())) s = .next (answered (refusal .state) s) :=
  taken hf (by
    unfold svcStopDrain withForm
    exact (needTier_pass (operator_ok s)).trans (require_fail (decide_eq_false h)))

theorem stoppedNow_noticed {s : State} (hb : BeltRuns s) : Noticed (enterStopped true s) (stoppedNow s) := by
  have hsettles : settleBelt (enterStopped true s) = enterStopped true s := settleBelt_idle _ (enterStopped_beltRuns hb)
  unfold stoppedNow
  rw [hsettles]
  exact evaluate_noticed _ _

/-- The line that begins to drain, before the track is asked whether it is empty. -/
abbrev drainBegun (s : State) : State := trySweep (assertHold (setLine .draining s))

theorem drainBegun_eq (s : State) : ∃ c link, drainBegun s = { s with
    track := { s.track with infeedHold := true }, crumb := c, sup := { s.sup with line := .draining, beltWatch := false }, link := link } := by
  obtain ⟨link, hline⟩ := setLine_linked .draining s
  obtain ⟨c, hc⟩ := trySweep_crumb (assertHold (setLine .draining s))
  refine ⟨c, link, hc.trans ?_⟩
  rw [hline]
  rfl

theorem drainBegun_hears (s : State) : Hears (.line .draining) 1 s (drainBegun s) :=
  (setLine_hears .draining s).trans ((assertHold_reacts _).trans (trySweep_reacts _)).tells

theorem enterDraining_held {s : State} (h : s.track.loaves ≠ []) : enterDraining s = drainBegun s := by
  obtain ⟨c, link, hd⟩ := drainBegun_eq s
  refine if_neg ?_
  rw [show trySweep _ = _ from hd]
  simpa using h

theorem enterDraining_empty {s : State} (h : s.track.loaves = []) : enterDraining s = enterStopped false (drainBegun s) := by
  obtain ⟨c, link, hd⟩ := drainBegun_eq s
  refine if_pos ?_
  rw [show trySweep _ = _ from hd]
  simpa using h

theorem settleBelt_tells (s : State) : Tells 3 s (settleBelt s) := (settleBelt_reacts s).tells

theorem enterDraining_beltRuns {s : State} (hb : BeltRuns s) : BeltRuns (enterDraining s) := by
  unfold BeltRuns faultEntry
  rw [(enterDraining_calm s).faults]
  exact hb

theorem drained_held {s : State} (hb : BeltRuns s) (h : s.track.loaves ≠ []) :
    Noticed (drainBegun s) (drained s) ∧ enterDraining s = drainBegun s := by
  have hdrains := enterDraining_held h
  have hn := evaluate_noticed .noStation (settleBelt (enterDraining s))
  rw [settleBelt_idle _ (enterDraining_beltRuns hb), hdrains] at hn
  refine ⟨?_, hdrains⟩
  unfold drained
  rwa [settleBelt_idle _ (enterDraining_beltRuns hb), hdrains]

theorem drained_hears {r : Report} {s : State} (h : Hears r 2 s (enterDraining s)) : Hears r 6 s (drained s) :=
  h.trans ((settleBelt_tells _).trans (evaluate_tells .noStation _))

/-- Settles O47: STOP NOW and STOP DRAIN. -/
theorem stopEndsRun : Obligations.StopEndsRun := by
  intro s hf hb
  refine ⟨stopNow_refused hf, stopDrain_refused hf, fun hl => ⟨stoppedNow s, ?_⟩, fun hl hne => ⟨drained s, ?_⟩,
    fun hl he => ⟨drained s, ?_⟩⟩
  · have hs := enterStopped_from s
    have hn := stoppedNow_noticed hb
    have hline : (stoppedNow s).sup.line = .stopped := hn.line.trans hs.line
    obtain ⟨u, hu, hhead, hcrumb⟩ := hs.head
    obtain ⟨air, hair⟩ := hu.crumb
    have hkept : (stoppedNow s).crumb = { s.crumb with airKnife := air, sweep := none } := by
      rw [hn.crumb, hcrumb, hair]
    have hexec := stopNow_taken hf hl
    rw [hline] at hexec
    have htold : ∀ {r : Report}, Hears r 2 s (enterStopped true s) → Listening s → r ∈ (stoppedNow s).link.queue := fun h =>
      Hears.queued (h.trans ((settleBelt_tells _).trans (evaluate_tells .noStation _))) (by omega)
    refine ⟨hexec, (stopNow_steady s).aside, hline, hn.track.trans hs.track, hn.faults.trans hs.faults, ?_⟩
    rw [hn.head, hhead, hkept, hn.shift]
    refine ⟨hu.knife, hu.pusher, hu.stamp, hu.paused, hu.homed, rfl, hs.aborted, rfl, rfl, rfl, fun hlisten => ?_, fun x => ?_, fun x => ?_⟩
    · exact ⟨htold (enterStopped_now_hears s) hlisten, fun hw reason hp => htold (enterStopped_now_hears_sweep hw hp) hlisten⟩
    · have htyer : tyerOf (stoppedNow s) x = tyerOf (enterStopped true s) x := congrArg (fun p : PerStation Tyer => p.get x) hn.tyers
      exact htyer.trans (hs.tyers x)
    · have hrec : stationRec (stoppedNow s) x = stationRec (enterStopped true s) x :=
        congrArg (fun p : Stations => p.recs.get x) hn.stations
      rw [hrec, hs.recs]
      exact ⟨rfl, rfl, rfl, rfl⟩
  · obtain ⟨hn, hdrains⟩ := drained_held hb hne
    obtain ⟨c, link, hbegun⟩ := drainBegun_eq s
    have hline : (drained s).sup.line = .draining := hn.line.trans (by rw [hbegun])
    have hexec := stopDrain_taken hf hl
    rw [hline] at hexec
    refine ⟨hexec, hline, hn.track.trans (by rw [hbegun]), hn.head.trans (by rw [hbegun]), hn.stations.trans (by rw [hbegun]), ?_⟩
    exact Hears.queued (drained_hears (hdrains ▸ (drainBegun_hears s).mono (by omega))) (by omega)
  · have hstopped := enterDraining_empty he
    have hline : (drained s).sup.line = .stopped := by
      refine (evaluate_noticed .noStation _).line.trans ?_
      rw [settleBelt_idle _ (enterDraining_beltRuns hb), (enterDraining_line s).1, if_pos he]
    have hexec := stopDrain_taken hf hl
    rw [hline] at hexec
    have hdraining := (drainBegun_hears s).trans (enterStopped_hears (drainBegun s)).toTells
    have hstops := (drainBegun_hears s).toTells.hears (enterStopped_hears (drainBegun s))
    rw [← hstopped] at hdraining hstops
    exact ⟨hexec, hline, fun hlisten => ⟨Hears.queued (drained_hears hdraining) (by omega) hlisten,
      Hears.queued (drained_hears hstops) (by omega) hlisten⟩⟩

end Sys2Proof.SlicingHead
end

-- ==== The slicing head, proofs: the end of a sweep ====
section
/-! The result of a sweep, its reports and what follows from it, up to the admission test (R114, R117, R119). -/

namespace Sys2Proof.SlicingHead

open Sys2Proof.Machine Sys2Proof.Safety Sys2Proof.Laws Sys2Proof.LoafTrack Sys2Proof.SwitchInputs

/-! ## A fault's action while no sweep may start -/

/-- What a change of the line state, with no sweep running and none that may start, leaves of crumb control and, under an EMPTY context, of
the records. -/
structure Stilled (s t : State) : Prop where
  crumb : ∃ air, t.crumb = { s.crumb with airKnife := air }
  empty : s.head.state = .empty → t.head.state = .empty ∧ t.track.loaves = s.track.loaves

theorem Stilled.of_same {s t : State} (hc : t.crumb = s.crumb) (hh : t.head = s.head) (ht : t.track.loaves = s.track.loaves) : Stilled s t :=
  ⟨⟨s.crumb.airKnife, hc⟩, fun h => ⟨(congrArg Head.state hh).trans h, ht⟩⟩

theorem Stilled.refl (s : State) : Stilled s s := Stilled.of_same rfl rfl rfl

theorem Stilled.trans {s t u : State} (h : Stilled s t) (k : Stilled t u) : Stilled s u := by
  obtain ⟨air, hc⟩ := h.crumb
  obtain ⟨air', kc⟩ := k.crumb
  refine ⟨⟨air', by rw [kc, hc]⟩, fun he => ?_⟩
  obtain ⟨hstate, hloaves⟩ := h.empty he
  obtain ⟨kstate, kloaves⟩ := k.empty hstate
  exact ⟨kstate, kloaves.trans hloaves⟩

theorem Stilled.of_flagged {s t : State} (h : Flagged s t) : Stilled s t :=
  Stilled.of_same h.crumb h.head (congrArg Track.loaves h.track)

theorem Stilled.sweep {s t : State} (h : Stilled s t) (hs : s.crumb.sweep = none) : t.crumb.sweep = none := by
  obtain ⟨air, hc⟩ := h.crumb
  rw [hc]
  exact hs

theorem setLine_stilled (l : LineState) (s : State) : Stilled s (setLine l s) := by
  obtain ⟨link, h⟩ := setLine_linked l s
  rw [h]
  exact Stilled.of_same rfl rfl rfl

theorem knifeTo_stilled (s : State) : Stilled s (knifeTo false s) := by
  obtain ⟨_, _, _, _, air, _, h⟩ := knifeTo_off s
  rw [h]
  exact ⟨⟨air, rfl⟩, fun he => ⟨he, rfl⟩⟩

theorem knifeTo_state (s : State) : (knifeTo false s).head.state = s.head.state := by
  obtain ⟨_, _, _, _, _, _, h⟩ := knifeTo_off s
  rw [h]

theorem headHalts_stilled (s : State) : Stilled s (headHalts s) := by
  obtain ⟨air, hc⟩ := (headHalts_halts s).crumb
  refine ⟨⟨air, hc⟩, fun he => ?_⟩
  have hempty : headHalts s = knifeTo false s := by
    unfold headHalts
    dsimp only
    rw [(knifeTo_state s).trans he]
  rw [hempty]
  exact (knifeTo_stilled s).empty he

theorem headStops_stilled (s : State) : Stilled s (headStops s) := by
  refine ⟨headStops_crumb s, fun he => ⟨(headStops_stopped s).homed (.inr he), ?_⟩⟩
  rw [headStops_rest]

theorem stationHalts_stilled (x : Station) (s : State) : Stilled s (stationHalts x s) :=
  have h := stationHalts_halted x s
  Stilled.of_same h.crumb h.head (congrArg Track.loaves h.track)

theorem stationStops_stilled (x : Station) (s : State) : Stilled s (stationStops x s) := by
  rw [(stationStops_stopped x s).rest]
  exact Stilled.of_same rfl rfl rfl

theorem countShift_stilled (f : ShiftRecord → ShiftRecord) (s : State) : Stilled s (countShift f s) := Stilled.of_same rfl rfl rfl

theorem assertHold_stilled (s : State) : Stilled s (assertHold s) := Stilled.of_same rfl rfl rfl

theorem abortSweep_none {s : State} (h : s.crumb.sweep = none) : abortSweep s = s := by
  unfold abortSweep
  rw [h]

theorem enterHalted_stilled {s : State} (h : s.crumb.sweep = none) : Stilled s (enterHalted s) := by
  have hstations : Stilled s (stationHalts .b (stationHalts .a (headHalts
      (countShift (fun r => { r with halts := raiseCount r.halts 1 }) (setLine .halted s))))) :=
    (setLine_stilled .halted s).trans <| (countShift_stilled _ _).trans <| (headHalts_stilled _).trans <|
      (stationHalts_stilled .a _).trans (stationHalts_stilled .b _)
  unfold enterHalted
  rw [abortSweep_none (hstations.sweep h)]
  exact hstations.trans (assertHold_stilled _)

theorem enterStopped_stilled (s : State) : Stilled s (enterStopped false s) :=
  (setLine_stilled .stopped s).trans <| (headStops_stilled _).trans <| (stationStops_stilled .a _).trans <|
    (stationStops_stilled .b _).trans (assertHold_stilled _)

theorem enterDraining_stilled {s : State} (h : sweepsSuspended s = true) : Stilled s (enterDraining s) := by
  rw [enterDraining_idle (.inr h)]
  refine (setLine_stilled .draining s).trans ((assertHold_stilled _).trans ?_)
  unfold trackEmpty
  split
  · exact enterStopped_stilled _
  · exact Stilled.refl _

theorem applyToLine_stilled (a : Action) {s : State} (h : s.crumb.sweep = none) (hu : sweepsSuspended s = true) :
    Stilled s (applyToLine a s) := by
  cases a with
  | nothing => exact Stilled.refl s
  | hold =>
    by_cases hr : s.sup.line = .running
    · rw [applyToLine_drains hr]
      exact enterDraining_stilled hu
    · rw [applyToLine_stays (.inr ⟨rfl, hr⟩)]
      exact Stilled.refl s
  | halt =>
    by_cases hl : s.sup.line = .halted
    · rw [applyToLine_halted _ _ hl]
      exact Stilled.refl s
    · rw [show applyToLine .halt s = enterHalted s from if_neg hl]
      exact enterHalted_stilled h

theorem settleBelt_stilled {s : State} (h : s.crumb.sweep = none) (hu : sweepsSuspended s = true) : Stilled s (settleBelt s) := by
  have hm := faultMoves_flagged .beltStall .latched s
  have hsuspended : sweepsSuspended (faultMoves .beltStall .latched s) = true := by
    unfold sweepsSuspended faultStands at hu ⊢
    rw [faultMoves_other _ _ _ _ (by nofun), faultMoves_other _ _ _ _ (by nofun)]
    exact hu
  unfold settleBelt
  dsimp only
  split
  · exact (Stilled.of_flagged hm).trans (applyToLine_stilled _ ((Stilled.of_flagged hm).sweep h) hsuspended)
  · exact Stilled.refl s

/-- A raised VACUUM_FAIL suspends the sweeps before its action is applied (R116, R119). -/
theorem vacuumFails_stilled {s : State} (h : s.crumb.sweep = none) : Stilled s (raiseFault .vacuumFail none s) := by
  have hoccurs := Stilled.of_flagged (faultOccurs_flagged .vacuumFail .latched none s)
  have hsuspended : sweepsSuspended (faultOccurs .vacuumFail .latched none s) = true := by
    unfold sweepsSuspended faultStands
    rw [faultOccurs_entry]
    simp
  have hacts := applyToLine_stilled (faultEntry s .vacuumFail).action (hoccurs.sweep h) hsuspended
  rw [raiseFault_eq]
  refine hoccurs.trans (hacts.trans (settleBelt_stilled (hacts.sweep (hoccurs.sweep h)) ?_))
  rw [sweepsSuspended_of_faults (applyToLine_calm _ _).faults]
  exact hsuspended

/-! ## The steps of the end of a sweep -/

/-- The state after the result of a sweep. -/
abbrev sweepResulted (result : SweepResult) (s : State) : State :=
  match result with
  | .success => sweepSucceeds s
  | _ => sweepIsWeak s

/-- The state after a sweep's result has been reported. -/
abbrev sweepTold (result : SweepResult) (s : State) : State :=
  evaluate .crumbHigh (report (.sweep (s.crumb.pending.getD .command) result (sweepResulted result s).crumb.trayLoad)
    (sweepResulted result s))

theorem endSweep_eq (result : SweepResult) (s : State) : endSweep result s = testAdmission (trySweep (sweepTold result s)) := by
  cases result <;> rfl

theorem sweepTold_noticed (result : SweepResult) (s : State) : Noticed (sweepResulted result s) (sweepTold result s) :=
  (report_noticed _ _).trans (evaluate_noticed _ _)

theorem Noticed.setMeas {s t : State} (h : Noticed s t) (m : Meas) : Noticed (s.setMeas m) (t.setMeas m) :=
  ⟨congrArg (fun x : State => x.setMeas m) h.rest, h.buffer, h.enables, h.answer⟩

theorem Noticed.setCrumb {s t : State} (h : Noticed s t) (c : Crumb) : Noticed (s.setCrumb c) (t.setCrumb c) :=
  ⟨congrArg (fun x : State => x.setCrumb c) h.rest, h.buffer, h.enables, h.answer⟩

/-- The start test of a sweep asks nothing of the notices. -/
theorem Noticed.trySweep {s t : State} (h : Noticed s t) : Noticed (Machine.trySweep s) (Machine.trySweep t) := by
  have hmay : sweepMayStart t = sweepMayStart s := by
    rw [h.rest]
    rfl
  unfold Machine.trySweep
  rw [hmay, h.crumb]
  split
  · exact Noticed.setCrumb h _
  · exact h

/-- The event's end after a sweep that has ended, the admission test left out. -/
abbrev sweepDone (result : SweepResult) (m : Meas) (s : State) : State := finish ((trySweep (sweepTold result s)).setMeas m)

/-- Crumb control after a successful sweep (R119). -/
abbrev emptiedTray (c : Crumb) : Crumb := { c with sweep := none, trayLoad := 0, lastAdmitted := none, weakCount := 0, pending := none }

theorem sweepSucceeds_noticed (s : State) : Noticed (countShift (fun r => { r with sweepsSuccess := raiseCount r.sweepsSuccess 1 })
    (s.setCrumb (emptiedTray s.crumb))) (sweepSucceeds s) :=
  Noticed.countShift (warn_noticed .sweepWeak false (s.setCrumb (emptiedTray s.crumb))) _

theorem sweepDone_succeeds (m : Meas) (s : State) : Noticed ((countShift (fun r => { r with sweepsSuccess := raiseCount r.sweepsSuccess 1 })
    (s.setCrumb (emptiedTray s.crumb))).setMeas m) (sweepDone .success m s) := by
  have hn := (sweepSucceeds_noticed s).trans (sweepTold_noticed .success s)
  unfold sweepDone
  rw [trySweep_unasked (by rw [hn.crumb]; rfl)]
  exact (Noticed.setMeas hn m).trans (finish_noticed _)

/-- Crumb control after a weak sweep, with the pending that it keeps (R119). -/
abbrev weakCrumb (count : Nat) (pending : Option SweepReason) (c : Crumb) : Crumb :=
  { c with sweep := none, trayLoad := min c.trayLoad (c.settings.trayThreshold / 2), weakCount := count, pending := pending }

/-- A weak sweep counted. -/
abbrev countWeak (s : State) : State := countShift (fun r => { r with sweepsWeak := raiseCount r.sweepsWeak 1 }) s

/-- The pending that a sweep weak for the first time keeps. -/
abbrev keptPending (s : State) : Option SweepReason :=
  if s.crumb.pending = some .changeover ∧ sweepsSuspended s = false then some .changeover else none

/-- The state after a weak sweep has been told and counted, before the suspension test. -/
def weakTold (s : State) : State :=
  countWeak (warn .sweepWeak true (s.setCrumb (weakCrumb (s.crumb.weakCount + 1) s.crumb.pending s.crumb)))

theorem weakTold_noticed (s : State) :
    Noticed (countWeak (s.setCrumb (weakCrumb (s.crumb.weakCount + 1) s.crumb.pending s.crumb))) (weakTold s) :=
  Noticed.countShift (warn_noticed .sweepWeak true _) _

/-- The state after a sweep weak for the second time in a row, before VACUUM_FAIL. -/
def weakAgain (s : State) : State := (weakTold s).setCrumb { (weakTold s).crumb with weakCount := 0 }

/-- The state after the second weak sweep in a row has raised VACUUM_FAIL. -/
def vacuumFails (s : State) : State := raiseFault .vacuumFail none (weakAgain s)

/-- The suspension test of a pending sweep after a weak one: a CHANGEOVER is kept while sweeps are not suspended (R119). -/
def keepsChangeover (u : State) : State :=
  if u.crumb.pending = some .changeover && !sweepsSuspended u then u else u.setCrumb { u.crumb with pending := none }

theorem keepsChangeover_eq (u : State) : keepsChangeover u = u.setCrumb { u.crumb with pending := keptPending u } := by
  unfold keepsChangeover keptPending
  by_cases hp : u.crumb.pending = some .changeover ∧ sweepsSuspended u = false
  · rw [if_pos (by simpa using hp), if_pos hp, ← hp.1]
    rfl
  · rw [if_neg (by simpa using hp), if_neg hp]

theorem sweepIsWeak_eq (s : State) :
    sweepIsWeak s = keepsChangeover (if 2 ≤ (weakTold s).crumb.weakCount then vacuumFails s else weakTold s) := rfl

theorem weakTold_count (s : State) : (weakTold s).crumb.weakCount = s.crumb.weakCount + 1 := by
  rw [(weakTold_noticed s).crumb]
  rfl

theorem sweepIsWeak_first {s : State} (h : s.crumb.weakCount = 0) :
    sweepIsWeak s = (weakTold s).setCrumb (weakCrumb 1 (keptPending s) s.crumb) := by
  have hn := weakTold_noticed s
  have hcrumb : (weakTold s).crumb = weakCrumb 1 s.crumb.pending s.crumb := by
    rw [hn.crumb, h]
    rfl
  have hkept : keptPending (weakTold s) = keptPending s := by
    unfold keptPending
    rw [sweepsSuspended_of_faults (show (weakTold s).sup.faults = s.sup.faults from hn.faults), hcrumb]
  rw [sweepIsWeak_eq, weakTold_count, h, if_neg (by omega), keepsChangeover_eq, hkept, hcrumb]

theorem weakAgain_noticed (s : State) : Noticed (countWeak (s.setCrumb (weakCrumb 0 s.crumb.pending s.crumb)))
    (weakAgain s) := by
  have hn := weakTold_noticed s
  unfold weakAgain
  rw [hn.crumb]
  exact Noticed.setCrumb hn _

theorem weakAgain_entry (s : State) (k : FaultKind) : faultEntry (weakAgain s) k = faultEntry s k := by
  unfold faultEntry
  rw [(weakAgain_noticed s).faults]
  rfl

theorem vacuumFails_entry (s : State) : (faultEntry (vacuumFails s) .vacuumFail).state = .latched ∧
    (faultEntry (vacuumFails s) .vacuumFail).lastLoaf = none ∧
    (faultEntry (vacuumFails s) .vacuumFail).count = min ((faultEntry s .vacuumFail).count + 1) 255 := by
  unfold vacuumFails
  rw [raiseFault_entry _ _ _ (by nofun), weakAgain_entry]
  exact ⟨rfl, rfl, rfl⟩

theorem vacuumFails_suspends (s : State) : sweepsSuspended (vacuumFails s) = true := by
  unfold sweepsSuspended faultStands
  rw [(vacuumFails_entry s).1]
  simp

theorem sweepIsWeak_second {s : State} (h : s.crumb.weakCount ≠ 0) :
    sweepIsWeak s = (vacuumFails s).setCrumb { (vacuumFails s).crumb with pending := none } := by
  rw [sweepIsWeak_eq, weakTold_count, if_pos (by omega), keepsChangeover_eq, keptPending,
    if_neg (by rw [vacuumFails_suspends]; exact fun e => Bool.noConfusion e.2)]

theorem sweepDone_first {s : State} (m : Meas) (h : s.crumb.weakCount = 0) :
    Noticed ((trySweep (countWeak (s.setCrumb (weakCrumb 1 (keptPending s) s.crumb)))).setMeas m) (sweepDone .weak m s) := by
  have hresult : Noticed (countWeak (s.setCrumb (weakCrumb 1 (keptPending s) s.crumb))) (sweepResulted .weak s) := by
    show Noticed _ (sweepIsWeak s)
    rw [sweepIsWeak_first h]
    exact Noticed.setCrumb (weakTold_noticed s) (weakCrumb 1 (keptPending s) s.crumb)
  exact (Noticed.setMeas (Noticed.trySweep (hresult.trans (sweepTold_noticed .weak s))) m).trans (finish_noticed _)

/-- After the second weak sweep in a row the fault has acted, and no pending is left. -/
theorem sweepDone_second {s : State} (m : Meas) (h : s.crumb.weakCount ≠ 0) :
    Noticed (((vacuumFails s).setCrumb { (vacuumFails s).crumb with pending := none }).setMeas m) (sweepDone .weak m s) := by
  have hn : Noticed ((vacuumFails s).setCrumb { (vacuumFails s).crumb with pending := none }) (sweepTold .weak s) := by
    rw [← sweepIsWeak_second h]
    exact sweepTold_noticed .weak s
  unfold sweepDone
  rw [trySweep_unasked (by rw [hn.crumb]; rfl)]
  exact (Noticed.setMeas hn m).trans (finish_noticed _)

theorem vacuumFails_crumb (s : State) : ∃ air, (vacuumFails s).crumb = { weakCrumb 0 s.crumb.pending s.crumb with airKnife := air } := by
  have hn := weakAgain_noticed s
  obtain ⟨air, hair⟩ := (vacuumFails_stilled (s := weakAgain s)
    (by rw [hn.crumb]; rfl)).crumb
  refine ⟨air, hair.trans ?_⟩
  rw [hn.crumb]
  rfl

/-! ## The reports -/

theorem sweepSucceeds_tells (s : State) : Tells 1 s (sweepSucceeds s) := (warn_tells .sweepWeak false _).of_same rfl

theorem setCrumb_tells (c : Crumb) (s : State) : Tells 0 s (s.setCrumb c) := Tells.of_link (State.setCrumb_link s c) 0

theorem weakTold_tells (s : State) : Tells 1 s (weakTold s) := (warn_tells .sweepWeak true _).of_same rfl

theorem weakAgain_tells (s : State) : Tells 1 s (weakAgain s) := (weakTold_tells s).trans (setCrumb_tells _ _)

theorem vacuumFails_tells (s : State) : Tells 7 s (vacuumFails s) :=
  (weakAgain_tells s).trans (raiseFault_reacts .vacuumFail none _).tells

theorem sweepIsWeak_tells (s : State) : Tells 7 s (sweepIsWeak s) := by
  by_cases h : s.crumb.weakCount = 0
  · rw [sweepIsWeak_first h]
    exact ((weakTold_tells s).trans (setCrumb_tells _ _)).mono (by omega)
  · rw [sweepIsWeak_second h]
    exact (vacuumFails_tells s).trans (setCrumb_tells _ _)

theorem sweepResulted_tells (result : SweepResult) (s : State) : Tells 7 s (sweepResulted result s) := by
  cases result with
  | success => exact (sweepSucceeds_tells s).mono (by omega)
  | weak => exact sweepIsWeak_tells s
  | aborted => exact sweepIsWeak_tells s

/-- What follows the result of a sweep until the end of the event keeps what has been reported. -/
theorem sweepDone_hears {r : Report} {result : SweepResult} {s : State} (h : Hears r 7 s (sweepResulted result s)) (m : Meas)
    (hs : Listening s) : r ∈ (sweepDone result m s).link.queue := by
  have htail : Tells 2 (sweepResulted result s) ((trySweep (sweepTold result s)).setMeas m) :=
    (report_tells _ _).trans ((evaluate_tells .crumbHigh _).trans ((trySweep_reacts _).tells.trans (Tells.of_link (State.setMeas_link _ m) 0)))
  exact Hears.finished (h.trans htail) (by omega) hs

theorem sweepDone_reported {result : SweepResult} {s : State} (m : Meas) (hs : Listening s) :
    Report.sweep (s.crumb.pending.getD .command) result (sweepResulted result s).crumb.trayLoad ∈ (sweepDone result m s).link.queue := by
  have htail : Tells 1 (report (.sweep (s.crumb.pending.getD .command) result (sweepResulted result s).crumb.trayLoad)
      (sweepResulted result s)) ((trySweep (sweepTold result s)).setMeas m) :=
    (evaluate_tells .crumbHigh _).trans ((trySweep_reacts _).tells.trans (Tells.of_link (State.setMeas_link _ m) 0))
  exact Hears.finished ((sweepResulted_tells result s).hears ((report_hears _ _).trans htail)) (by omega) hs

theorem weakTold_hears {s : State} (h : (warnEntry s .sweepWeak).present ≠ true) : Hears (.warning .sweepWeak true) 1 s (weakTold s) :=
  (warn_hears (s := s.setCrumb (weakCrumb (s.crumb.weakCount + 1) s.crumb.pending s.crumb)) h).of_same rfl

/-- A change of SWEEP_WEAK is reported (R152). -/
theorem sweepResulted_hears {result : SweepResult} {s : State} (hr : result ≠ .aborted)
    (h : (warnEntry s .sweepWeak).present ≠ decide (result = .weak)) :
    Hears (.warning .sweepWeak (decide (result = .weak))) 7 s (sweepResulted result s) := by
  cases result with
  | aborted => exact absurd rfl hr
  | success =>
    have hears : Hears (.warning .sweepWeak false) 1 s (sweepSucceeds s) :=
      (warn_hears (s := s.setCrumb (emptiedTray s.crumb)) h).of_same rfl
    exact hears.mono (by omega)
  | weak =>
    show Hears _ 7 s (sweepIsWeak s)
    by_cases hc : s.crumb.weakCount = 0
    · rw [sweepIsWeak_first hc]
      exact ((weakTold_hears h).trans (setCrumb_tells _ _)).mono (by omega)
    · rw [sweepIsWeak_second hc]
      exact (weakTold_hears h).trans ((setCrumb_tells _ _).trans
        ((raiseFault_reacts .vacuumFail none _).tells.trans (setCrumb_tells _ _)))

theorem warnEntry_setCrumb (c : Crumb) (s : State) (w : WarnKind) : warnEntry (s.setCrumb c) w = warnEntry s w := rfl

theorem weakTold_warning (s : State) : (warnEntry (weakTold s) .sweepWeak).present = true :=
  congrArg WarnEntry.present (warn_entry .sweepWeak true (s.setCrumb (weakCrumb (s.crumb.weakCount + 1) s.crumb.pending s.crumb)))

theorem sweepResulted_warning {result : SweepResult} {s : State} (hr : result ≠ .aborted) :
    (warnEntry (sweepResulted result s) .sweepWeak).present = decide (result = .weak) := by
  cases result with
  | aborted => exact absurd rfl hr
  | success => exact congrArg WarnEntry.present (warn_entry .sweepWeak false (s.setCrumb (emptiedTray s.crumb)))
  | weak =>
    show (warnEntry (sweepIsWeak s) .sweepWeak).present = true
    by_cases hc : s.crumb.weakCount = 0
    · rw [sweepIsWeak_first hc]
      exact weakTold_warning s
    · have hraise := (raiseFault_reacts .vacuumFail none (weakAgain s)).warn .sweepWeak
      rw [sweepIsWeak_second hc, warnEntry_setCrumb, vacuumFails, hraise, weakAgain, warnEntry_setCrumb]
      exact weakTold_warning s

theorem sweepDone_warning {result : SweepResult} (m : Meas) {s : State} (hr : result ≠ .aborted) :
    (warnEntry (sweepDone result m s) .sweepWeak).present = decide (result = .weak) := by
  have htold : warnEntry (sweepTold result s) .sweepWeak = warnEntry (sweepResulted result s) .sweepWeak :=
    (warn_other (by nofun) _ _).trans ((report_reacts _ _).warn _)
  have hdone : warnEntry (sweepDone result m s) .sweepWeak = warnEntry (trySweep (sweepTold result s)) .sweepWeak :=
    finish_warnEntry (by nofun) ((trySweep (sweepTold result s)).setMeas m)
  rw [hdone, (trySweep_reacts _).warn, htold]
  exact sweepResulted_warning hr

/-! ## The action of VACUUM_FAIL -/

/-- The state in which VACUUM_FAIL has occurred, before its action. -/
def vacuumOccurs (s : State) : State :=
  faultOccurs .vacuumFail .latched none (weakAgain s)

theorem vacuumOccurs_spec (s : State) :
    (vacuumOccurs s).sup.line = s.sup.line ∧ (vacuumOccurs s).track = s.track ∧ Tells 2 s (vacuumOccurs s) := by
  have hn := weakAgain_noticed s
  have hf := faultOccurs_flagged .vacuumFail .latched none (weakAgain s)
  exact ⟨hf.line.trans hn.line, hf.track.trans hn.track,
    (weakAgain_tells s).trans (faultOccurs_reacts .vacuumFail .latched none _).tells⟩

/-- While BELT_STALL is not ACTIVE the second weak sweep's fault acts on the line and no more (R146). -/
theorem vacuumFails_runs {s : State} (hb : BeltRuns s) :
    vacuumFails s = applyToLine (faultEntry s .vacuumFail).action (vacuumOccurs s) := by
  have hbelt : BeltRuns (applyToLine (faultEntry s .vacuumFail).action (vacuumOccurs s)) := by
    refine applyToLine_belt _ ?_
    rw [vacuumOccurs, faultOccurs_other _ _ _ _ _ (by nofun), weakAgain_entry]
    exact hb
  unfold vacuumFails
  rw [raiseFault_eq, weakAgain_entry]
  exact settleBelt_idle _ hbelt

theorem sweepDone_acted {s : State} (m : Meas) (hc : s.crumb.weakCount ≠ 0) (hb : BeltRuns s) :
    ActedOnLine (faultEntry s .vacuumFail).action s (sweepDone .weak m s) := by
  have hn := sweepDone_second m hc
  obtain ⟨oline, otrack, otells⟩ := vacuumOccurs_spec s
  have hline : (sweepDone .weak m s).sup.line = (applyToLine (faultEntry s .vacuumFail).action (vacuumOccurs s)).sup.line := by
    rw [hn.line, ← vacuumFails_runs hb, State.setMeas_sup, State.setCrumb_sup]
  have htrack : (sweepDone .weak m s).track = (applyToLine (faultEntry s .vacuumFail).action (vacuumOccurs s)).track := by
    rw [hn.track, ← vacuumFails_runs hb, State.setMeas_track, State.setCrumb_track]
  refine ⟨fun ha => ?_, fun ha hr => ?_, fun ha => ?_, fun hs hne => ?_⟩
  · rw [hline, ha]
    exact applyToLine_halt _
  · rw [hline, htrack, ha, applyToLine_drains (oline.trans hr), (enterDraining_line _).1, (enterDraining_line _).2, otrack]
    exact ⟨rfl, rfl⟩
  · rw [hline, applyToLine_stays (ha.imp_right (And.imp_right (fun h => oline.symm ▸ h)))]
    exact oline
  · rw [hline] at hne ⊢
    rw [← oline] at hne
    have hears := otells.hears (applyToLine_hears hne)
    rw [← vacuumFails_runs hb] at hears ⊢
    refine sweepDone_hears ?_ m hs
    rw [show sweepResulted .weak s = _ from sweepIsWeak_second hc]
    exact (hears.trans (setCrumb_tells _ _)).mono (by omega)

end Sys2Proof.SlicingHead
end

-- ==== The slicing head, proofs: the sweep's timers ====
section
/-! The rise timer, the sweep timer and the judging sample (O41: R114, R117 to R119). -/

namespace Sys2Proof.SlicingHead

open Sys2Proof.Machine Sys2Proof.Safety Sys2Proof.Laws Sys2Proof.LoafTrack Sys2Proof.SwitchInputs

/-! ## A sweep that has ended -/

/-- The start test of a sweep writes the sweep alone. -/
theorem trySweep_sweep (s : State) : ∃ w, trySweep s = s.setCrumb { s.crumb with sweep := w } := by
  unfold trySweep
  split
  · exact ⟨_, rfl⟩
  · exact ⟨s.crumb.sweep, rfl⟩

theorem sweepDone_tray (result : SweepResult) (m : Meas) (s : State) :
    (sweepDone result m s).crumb.trayLoad = (sweepResulted result s).crumb.trayLoad := by
  obtain ⟨w, hw⟩ := trySweep_sweep (sweepTold result s)
  have hn := finish_noticed ((trySweep (sweepTold result s)).setMeas m)
  rw [hn.crumb, State.setMeas_crumb, hw, State.setCrumb_crumb]
  have htray := congrArg Crumb.trayLoad (sweepTold_noticed result s).crumb
  exact htray

theorem sweepDone_first_suspended {s : State} (m : Meas) (h : s.crumb.weakCount = 0) :
    sweepsSuspended (sweepDone .weak m s) = sweepsSuspended s := by
  obtain ⟨w, hw⟩ := trySweep_sweep (countWeak (s.setCrumb (weakCrumb 1 (keptPending s) s.crumb)))
  have hn := sweepDone_first m h
  refine sweepsSuspended_of_faults (hn.faults.trans ?_)
  rw [hw]
  rfl

theorem sweepDone_second_suspended {s : State} (m : Meas) (h : s.crumb.weakCount ≠ 0) :
    sweepsSuspended (sweepDone .weak m s) = true := by
  rw [← vacuumFails_suspends s]
  refine sweepsSuspended_of_faults ?_
  rw [(sweepDone_second m h).faults, State.setMeas_sup, State.setCrumb_sup]

/-- Crumb control at the end of a weak sweep. -/
theorem sweepDone_weak (m : Meas) (s : State) : (sweepDone .weak m s).crumb = { s.crumb with
      sweep := (sweepDone .weak m s).crumb.sweep, airKnife := (sweepDone .weak m s).crumb.airKnife
      trayLoad := min s.crumb.trayLoad (s.crumb.settings.trayThreshold / 2)
      weakCount := if s.crumb.weakCount = 0 then 1 else 0
      pending := if s.crumb.pending = some .changeover ∧ sweepsSuspended (sweepDone .weak m s) = false then some .changeover else none } ∧
    (sweepDone .weak m s).shift.openRecord.sweepsWeak = min (s.shift.openRecord.sweepsWeak + 1) 4294967295 := by
  by_cases h : s.crumb.weakCount = 0
  · have hn := sweepDone_first m h
    obtain ⟨w, hw⟩ := trySweep_sweep (countWeak (s.setCrumb (weakCrumb 1 (keptPending s) s.crumb)))
    have hcrumb : (sweepDone .weak m s).crumb = { weakCrumb 1 (keptPending s) s.crumb with sweep := w } := by
      rw [hn.crumb, hw]
      rfl
    rw [sweepDone_first_suspended m h, hcrumb, hn.shift, hw, if_pos h]
    exact ⟨rfl, rfl⟩
  · have hn := sweepDone_second m h
    obtain ⟨air, hair⟩ := vacuumFails_crumb s
    have hcrumb : (sweepDone .weak m s).crumb = { weakCrumb 0 none s.crumb with airKnife := air } := by
      rw [hn.crumb, State.setMeas_crumb, State.setCrumb_crumb, hair]
    obtain ⟨halts, aborted, hrecord⟩ := (raiseFault_reacts .vacuumFail none (weakAgain s)).record
    have hshift : (sweepDone .weak m s).shift = (vacuumFails s).shift := by
      rw [hn.shift, State.setMeas_shift, State.setCrumb_shift]
    rw [sweepDone_second_suspended m h, hcrumb, hshift, if_neg h, if_neg (fun e => Bool.noConfusion e.2), vacuumFails, hrecord,
      (weakAgain_noticed s).shift]
    exact ⟨rfl, rfl⟩

/-- The kept CHANGEOVER's sweep is tried again at once (R117). -/
theorem sweepDone_retry {s : State} (m : Meas) (hp : (sweepDone .weak m s).crumb.pending = some .changeover)
    (he : s.head.state = .empty) (hh : s.head.pusher.natAbs ≤ 2) (hz : ∀ r ∈ s.track.loaves, r.zone ≠ .slicer)
    (hl : (sweepDone .weak m s).sup.line ≠ .halted) : (sweepDone .weak m s).crumb.sweep =
      some ⟨s.crumb.settings.sweepTime, s.crumb.settings.pressure, false, true, true, none⟩ := by
  have hkept := congrArg Crumb.pending (sweepDone_weak m s).1
  rw [hp] at hkept
  have hboth : s.crumb.pending = some .changeover ∧ sweepsSuspended (sweepDone .weak m s) = false := by
    by_contra hn
    rw [if_neg hn] at hkept
    cases hkept
  obtain ⟨hpending, hfree⟩ := hboth
  have h : s.crumb.weakCount = 0 := by
    by_contra hn
    rw [sweepDone_second_suspended m hn] at hfree
    cases hfree
  have hn := sweepDone_first m h
  rw [sweepDone_first_suspended m h] at hfree
  have hpend : keptPending s = some .changeover := if_pos ⟨hpending, hfree⟩
  obtain ⟨w, hw⟩ := trySweep_sweep (countWeak (s.setCrumb (weakCrumb 1 (keptPending s) s.crumb)))
  have hline : s.sup.line ≠ .halted := by
    rw [hn.line, hw] at hl
    exact hl
  have hstarts := trySweep_starts (s := countWeak (s.setCrumb (weakCrumb 1 (keptPending s) s.crumb)))
    (fun e => Option.some_ne_none _ (hpend.symm.trans e)) rfl
    (fun e => Bool.noConfusion (hfree.symm.trans ((suspended_iff s).mpr e))) hz he hh hline
  rw [hn.crumb, hstarts]
  rfl

theorem sweepDone_rests {result : SweepResult} {m : Meas} {s : State} (hr : result ≠ .aborted)
    (hp : (sweepDone result m s).crumb.pending = none) : (sweepDone result m s).crumb.sweep = none := by
  have hidle : ∀ {b : State}, b.crumb.pending = none → b.crumb.sweep = none → (trySweep b).crumb.sweep = none := fun hp hs => by
    rw [trySweep_unasked hp]
    exact hs
  cases result with
  | aborted => exact absurd rfl hr
  | success => rw [(sweepDone_succeeds m s).crumb]; rfl
  | weak =>
    by_cases h : s.crumb.weakCount = 0
    · obtain ⟨w, hw⟩ := trySweep_sweep (countWeak (s.setCrumb (weakCrumb 1 (keptPending s) s.crumb)))
      rw [(sweepDone_first m h).crumb] at hp ⊢
      refine hidle ?_ rfl
      rw [hw] at hp
      exact hp
    · obtain ⟨air, hair⟩ := vacuumFails_crumb s
      rw [(sweepDone_second m h).crumb, State.setMeas_crumb, State.setCrumb_crumb, hair]

theorem sweepDone_vacuum {s : State} (m : Meas) (hc : s.crumb.weakCount ≠ 0) :
    faultEntry (sweepDone .weak m s) .vacuumFail = faultEntry (vacuumFails s) .vacuumFail := by
  unfold faultEntry
  rw [(sweepDone_second m hc).faults, State.setMeas_sup, State.setCrumb_sup]

/-- VACUUM_FAIL is reported (R152). -/
theorem sweepDone_vacuum_hears {s : State} (m : Meas) (hc : s.crumb.weakCount ≠ 0) (hs : Listening s) :
    Report.fault .vacuumFail .latched (faultEntry (sweepDone .weak m s) .vacuumFail).count ∈ (sweepDone .weak m s).link.queue := by
  obtain ⟨_, _, hcount⟩ := vacuumFails_entry s
  have hears := (weakAgain_tells s).hears (raiseFault_hears .vacuumFail none (weakAgain s))
  rw [weakAgain_entry] at hears
  rw [sweepDone_vacuum m hc, hcount]
  refine sweepDone_hears ?_ m hs
  rw [show sweepResulted .weak s = _ from sweepIsWeak_second hc]
  exact hears.trans (setCrumb_tells _ _)

theorem sweepDone_ended {result : SweepResult} (m : Meas) (s : State) (hr : result ≠ .aborted) :
    SweepEnded result s (sweepDone result m s) where
  success h := by
    subst h
    have hn := sweepDone_succeeds m s
    rw [hn.crumb, hn.shift, hn.faults, hn.line]
    exact ⟨rfl, rfl, rfl, rfl⟩
  weak h := by
    subst h
    exact sweepDone_weak m s
  first h hc := by
    subst h
    obtain ⟨w, hw⟩ := trySweep_sweep (countWeak (s.setCrumb (weakCrumb 1 (keptPending s) s.crumb)))
    have hn := sweepDone_first m hc
    rw [hn.faults, hn.line, hw]
    exact ⟨rfl, rfl⟩
  second h hc := by
    subst h
    rw [sweepDone_vacuum m hc]
    exact vacuumFails_entry s
  acted h hc hb := by
    subst h
    exact sweepDone_acted m hc hb
  retry hp he hh hz hl := by
    cases result with
    | aborted => exact absurd rfl hr
    | success =>
      rw [(sweepDone_succeeds m s).crumb] at hp
      cases hp
    | weak => exact sweepDone_retry m hp he hh hz hl
  rests := sweepDone_rests hr
  warning := sweepDone_warning m hr
  told hs reason hreason := by
    have hreported := sweepDone_reported (result := result) (s := s) m hs
    rw [show s.crumb.pending = some reason from hreason] at hreported
    rw [sweepDone_tray]
    refine ⟨hreported, fun h hc => ?_, fun hw => sweepDone_hears (sweepResulted_hears hr hw) m hs⟩
    subst h
    exact sweepDone_vacuum_hears m hc hs

/-! ## The admission test after it -/

theorem Noticed.symm {s t : State} (h : Noticed s t) : Noticed t s := by
  refine ⟨?_, h.buffer.symm, h.enables.symm, h.answer.symm⟩
  rw [h.rest]

theorem Noticed.aside {s t : State} (h : Noticed s t) : Aside s t := by
  have he := h.enables
  rw [h.rest]
  exact ⟨rfl, rfl, rfl, rfl, rfl, rfl, rfl, rfl, rfl, he⟩

theorem AdmittedAs.of_base {mark : Option Mark} {r : Loaf} {s u t : State} (h : AdmittedAs mark r s t) (ha : Aside u t)
    (hg : u.track.geometry = s.track.geometry) (hl : u.crumb.lastAdmitted = s.crumb.lastAdmitted) : AdmittedAs mark r u t where
  aside := ha
  tag := h.tag
  pusher := h.pusher
  record := h.record
  cut hm := by
    rw [hl]
    exact h.cut hm
  passed hm := by
    unfold ejectTargetOf
    rw [hl, hg]
    exact h.passed hm

/-- The test is one on either of two states that notices alone tell apart. -/
theorem AdmissionTested.from_noticed {r : Loaf} {s u t : State} (h : AdmissionTested r s t) (k : Noticed s u) : AdmissionTested r u t := by
  have hpresented : Presented r u → Presented r s := fun hp => by
    refine (presented_iff s r).2 ?_
    have hopen := (presented_iff u r).1 hp
    rw [k.rest] at hopen
    exact hopen
  have hpresents : Presented r s → Presented r u := fun hp => by
    refine (presented_iff u r).2 ?_
    rw [k.rest]
    exact (presented_iff s r).1 hp
  have hsuspended : Suspended u ↔ Suspended s := by
    unfold Suspended faultEntry
    rw [k.faults]
  have hadmits : ∀ {m}, AdmittedAs m r s t → AdmittedAs m r u t := fun ha =>
    AdmittedAs.of_base ha (Aside.trans (Noticed.aside (Noticed.symm k)) ha.aside) (by rw [k.track]) (by rw [k.crumb])
  have hdue : ChangeoverDue r u ↔ ChangeoverDue r s := by
    unfold ChangeoverDue
    rw [k.crumb]
  refine ⟨fun hw => ?_, fun hp hs hn hc hu => ?_, fun hp hs hc hu => ?_, fun hp hs hu hc => ?_⟩
  · refine (Noticed.symm k).trans (h.waits ?_)
    rw [k.crumb, hsuspended] at hw
    exact hw.imp_left (mt hpresents)
  · rw [k.crumb] at hs hn ⊢
    have hn' := h.sweeps (hpresented hp) hs hn (hdue.mp hc) (mt hsuspended.mpr hu)
    exact (Noticed.of_eq (congrArg u.setCrumb (by rw [k.track]))).trans ((Noticed.setCrumb (Noticed.symm k) _).trans hn')
  · rw [k.crumb] at hs
    exact hadmits (h.noClean (hpresented hp) hs (hdue.mp hc) (hsuspended.mp hu))
  · rw [k.crumb] at hs hu
    exact hadmits (h.taken (hpresented hp) hs (hu.imp_right hsuspended.mp) (mt hdue.mpr hc))

theorem AdmissionTested.to_noticed {r : Loaf} {s t u : State} (h : AdmissionTested r s t) (k : Noticed t u) : AdmissionTested r s u :=
  ⟨fun hw => (h.waits hw).trans k, fun hp hs hn hc hu => (h.sweeps hp hs hn hc hu).trans k,
    fun hp hs hc hu => AdmittedAs_noticed (h.noClean hp hs hc hu) k, fun hp hs hu hc => AdmittedAs_noticed (h.taken hp hs hu hc) k⟩

theorem AdmittedAs.setMeas {mark : Option Mark} {r : Loaf} {s t : State} (h : AdmittedAs mark r s t) (m : Meas) :
    AdmittedAs mark r (s.setMeas m) (t.setMeas m) := by
  obtain ⟨⟨h1, h2, h3, h4, h5, h6, h7, h8, h9, h10⟩, htag, hpusher, hrecord, hcut, hpassed⟩ := h
  exact ⟨⟨h1, h2, h3, h4, h5, h6, h7, h8, h9, h10⟩, htag, hpusher, hrecord, hcut, hpassed⟩

/-- The test asks nothing of measurement. -/
theorem AdmissionTested.setMeas {r : Loaf} {s t : State} (h : AdmissionTested r s t) (m : Meas) :
    AdmissionTested r (s.setMeas m) (t.setMeas m) := by
  have hpresented : Presented r (s.setMeas m) → Presented r s := fun ⟨h1, h2, h3, h4, h5⟩ => ⟨h1, h2, h3, h4, h5⟩
  have hpresents : Presented r s → Presented r (s.setMeas m) := fun ⟨h1, h2, h3, h4, h5⟩ => ⟨h1, h2, h3, h4, h5⟩
  exact ⟨fun hw => Noticed.setMeas (h.waits (hw.imp_left (mt hpresents))) m,
    fun hp hs hn hc hu => Noticed.setMeas (h.sweeps (hpresented hp) hs hn hc hu) m,
    fun hp hs hc hu => AdmittedAs.setMeas (h.noClean (hpresented hp) hs hc hu) m,
    fun hp hs hu hc => AdmittedAs.setMeas (h.taken (hpresented hp) hs hu hc) m⟩

/-- Over an EMPTY context the end of a sweep leaves the records, the context and the pusher. -/
structure SweepKept (s t : State) : Prop where
  loaves : t.track.loaves = s.track.loaves
  state : t.head.state = s.head.state
  pusher : t.head.pusher = s.head.pusher
  belt : BeltRuns s → BeltRuns t

theorem SweepKept.of_noticed {s b t : State} (h : Noticed b t) (hl : b.track.loaves = s.track.loaves) (hh : b.head = s.head)
    (hf : b.sup.faults = s.sup.faults) : SweepKept s t where
  loaves := by rw [h.track, hl]
  state := by rw [h.head, hh]
  pusher := by rw [h.head, hh]
  belt hb := by
    unfold BeltRuns faultEntry
    rw [h.faults, hf]
    exact hb

theorem sweepDone_kept {result : SweepResult} {m : Meas} {s : State} (he : s.head.state = .empty) (hr : result ≠ .aborted) :
    SweepKept s (sweepDone result m s) := by
  cases result with
  | aborted => exact absurd rfl hr
  | success => exact SweepKept.of_noticed (sweepDone_succeeds m s) rfl rfl rfl
  | weak =>
    by_cases hc : s.crumb.weakCount = 0
    · obtain ⟨w, hw⟩ := trySweep_sweep (countWeak (s.setCrumb (weakCrumb 1 (keptPending s) s.crumb)))
      have hn := sweepDone_first m hc
      rw [hw] at hn
      exact SweepKept.of_noticed hn rfl rfl rfl
    · have hn := sweepDone_second m hc
      have hw := weakAgain_noticed s
      have hhead : (weakAgain s).head = s.head := by rw [hw.head]; rfl
      obtain ⟨hstate, hloaves⟩ := (vacuumFails_stilled (s := weakAgain s) (by rw [hw.crumb]; rfl)).empty (by rw [hhead]; exact he)
      have hpusher := (raiseFault_brakes .vacuumFail none (weakAgain s)).pusher
      refine ⟨?_, ?_, ?_, fun hb => ?_⟩
      · rw [hn.track, State.setMeas_track, State.setCrumb_track]
        refine hloaves.trans ?_
        rw [hw.track]
        rfl
      · rw [hn.head, State.setMeas_head, State.setCrumb_head, he]
        exact hstate
      · rw [hn.head, State.setMeas_head, State.setCrumb_head, ← hhead]
        exact hpusher
      · unfold BeltRuns faultEntry
        rw [hn.faults, State.setMeas_sup, State.setCrumb_sup, vacuumFails_runs hb]
        refine applyToLine_belt _ ?_
        rw [vacuumOccurs, faultOccurs_other _ _ _ _ _ (by nofun), weakAgain_entry]
        exact hb

theorem sweepTold_steady (result : SweepResult) (s : State) : Steady s (sweepTold result s) := by
  refine Steady.trans ?_ ((report_steady _ _).trans (evaluate_steady _ _))
  cases result with
  | success => exact sweepSucceeds_steady s
  | weak => exact sweepIsWeak_steady s
  | aborted => exact sweepIsWeak_steady s

theorem sweepDone_steady (result : SweepResult) (m : Meas) (s : State) : Steady s (sweepDone result m s) :=
  (sweepTold_steady result s).trans <| (trySweep_steady _).trans <| (setMeas_steady m _).trans (finish_steady _)

/-- The state at the end of an event that ends a sweep, measurement standing as `m` then. -/
abbrev sweepTested (result : SweepResult) (m : Meas) (s : State) : State := finish ((endSweep result s).setMeas m)

theorem sweepTested_untested {result : SweepResult} {m : Meas} {s : State}
    (h : testAdmission (trySweep (sweepTold result s)) = trySweep (sweepTold result s)) : sweepTested result m s = sweepDone result m s := by
  unfold sweepTested sweepDone
  rw [endSweep_eq, h]

theorem sweepTested_tests {result : SweepResult} {m : Meas} {s : State} {r : Loaf} (ho : oldestIn s .infeed = some r)
    (he : s.head.state = .empty) (hb : BeltRuns s) (hr : result ≠ .aborted) :
    AdmissionTested r (sweepDone result m s) (sweepTested result m s) := by
  have hkept := sweepDone_kept (m := m) he hr
  have hn := finish_noticed ((trySweep (sweepTold result s)).setMeas m)
  have hloaves : (trySweep (sweepTold result s)).track.loaves = s.track.loaves :=
    (congrArg Track.loaves hn.track).symm.trans hkept.loaves
  have hbelt : BeltRuns (trySweep (sweepTold result s)) := by
    have hb' := hkept.belt hb
    unfold BeltRuns faultEntry at hb' ⊢
    rwa [hn.faults] at hb'
  have holdest : oldestIn (trySweep (sweepTold result s)) .infeed = some r := by
    unfold oldestIn
    rw [hloaves]
    exact ho
  have htested := testAdmission_tested r _ holdest hbelt
  rw [← endSweep_eq] at htested
  have hend : Noticed ((finish (endSweep result s)).setMeas m) (sweepTested result m s) :=
    (Noticed.symm (Noticed.setMeas (finish_noticed _) m)).trans (finish_noticed _)
  exact AdmissionTested.to_noticed (AdmissionTested.from_noticed (AdmissionTested.setMeas htested m) hn) hend

/-! ## The end of a sweep at an event -/

/-- The state with the sweep and measurement as the event has them when the sweep ends. -/
abbrev swept (w : Option Sweep) (m : Meas) (s : State) : State := { s with crumb := { s.crumb with sweep := w }, meas := m }

theorem SweepEnded.of_swept {result : SweepResult} {w : Option Sweep} {m : Meas} {s t : State} (h : SweepEnded result (swept w m s) t) :
    SweepEnded result s t where
  success := h.success
  weak := h.weak
  first := h.first
  second := h.second
  acted hw hc hb := by
    obtain ⟨hhalts, hdrains, hstays, htold⟩ := h.acted hw hc hb
    exact ⟨hhalts, hdrains, hstays, fun hs => htold ⟨hs.busy, hs.empty, hs.every⟩⟩
  retry := h.retry
  rests := h.rests
  warning := h.warning
  told hs := h.told ⟨hs.busy, hs.empty, hs.every⟩

theorem sweepTold_loaves {result : SweepResult} {s : State} (hr : result ≠ .aborted) :
    (trySweep (sweepTold result s)).track.loaves.map unmarked = s.track.loaves.map unmarked := by
  have htold : (trySweep (sweepTold result s)).track = (sweepResulted result s).track := by
    obtain ⟨w, hw⟩ := trySweep_sweep (sweepTold result s)
    rw [hw, State.setCrumb_track]
    exact (sweepTold_noticed result s).track
  rw [htold]
  cases result with
  | aborted => exact absurd rfl hr
  | success => rw [show (sweepResulted .success s).track = _ from (sweepSucceeds_noticed s).track]; rfl
  | weak =>
    show (sweepIsWeak s).track.loaves.map unmarked = _
    by_cases hc : s.crumb.weakCount = 0
    · rw [sweepIsWeak_first hc, State.setCrumb_track, (weakTold_noticed s).track]
      rfl
    · rw [sweepIsWeak_second hc, State.setCrumb_track, vacuumFails, raiseFault_loaves, (weakAgain_noticed s).track]
      rfl

/-- Marks alone bring no record into a zone. -/
theorem oldestIn_none_unmarked {s t : State} {z : Zone} (h : t.track.loaves.map unmarked = s.track.loaves.map unmarked)
    (hz : oldestIn s z = none) : oldestIn t z = none := by
  rw [oldestIn_none_iff] at hz ⊢
  intro q hq
  obtain ⟨r, hr, he⟩ := List.mem_map.mp (h ▸ List.mem_map_of_mem (f := unmarked) hq)
  have hunmarked := congrArg Loaf.zone he
  have hzone : r.zone = q.zone := hunmarked
  rw [← hzone]
  exact hz r hr

/-- The sweep has ended at the event, and the admission test has been made after it (R114, R119). -/
theorem sweepTested_ends {result : SweepResult} (hr : result ≠ .aborted) (w : Option Sweep) (m m' : Meas) (s : State) :
    (inputHigh s .stopEye = false ∨ oldestIn s .infeed = none → SweepEnded result s (sweepTested result m' (swept w m s))) ∧
    (∀ r ∈ oldestIn s .infeed, s.head.state = .empty → BeltRuns s →
      ∃ u, SweepEndedTested result r s u (sweepTested result m' (swept w m s))) := by
  have hended := SweepEnded.of_swept (sweepDone_ended m' (swept w m s) hr)
  have hsteady := sweepDone_steady result m' (swept w m s)
  refine ⟨fun hno => ?_, fun r ho he hb => ⟨sweepDone result m' (swept w m s), ?_⟩⟩
  · have hpoints : (trySweep (sweepTold result (swept w m s))).points = s.points :=
      ((sweepTold_steady result _).trans (trySweep_steady _)).kept.points
    rwa [sweepTested_untested]
    rcases hno with hlow | hnone
    · have hinput := (inputs_of_points (s := s) (t := trySweep (sweepTold result (swept w m s)))
        (fun p => by rw [hpoints]; exact ⟨rfl, rfl⟩) .stopEye).2
      exact testAdmission_uncovered (hinput.trans hlow)
    · exact testAdmission_noLoaf (oldestIn_none_unmarked (sweepTold_loaves hr) hnone)
  · have hkept := sweepDone_kept (m := m') (s := swept w m s) he hr
    have haside : Aside s (swept w m s) := ⟨rfl, rfl, rfl, rfl, rfl, rfl, rfl, rfl, rfl, rfl⟩
    exact ⟨hended, Aside.trans haside hsteady.aside, hkept.loaves, hkept.state, hkept.pusher, hsteady.kept.points,
      sweepTested_tests (s := swept w m s) ho he hb hr⟩

/-! ## The sample -/

/-- No bound limit takes a sample of channel 3 (R133). -/
theorem takeBounds_pressure (value : Nat) (s : State) : takeBounds 3 value s = s := by
  have hnone : (allBounds.filter fun b => decide (boundChannel b = 3)) = [] := by decide
  unfold takeBounds
  rw [hnone]
  rfl

/-- A running sweep that is not judged takes the pressure of a sample, where a point holds VACUUM (R117, R118). -/
theorem watchPressure_unjudged {s : State} {w : Sweep} (value : Nat) (h : s.crumb.sweep = some w) (hj : w.judged = none) :
    watchPressure value s = s.setCrumb { s.crumb with
      sweep := some { w with reached := w.reached || (isHeld s .vacuum && decide (w.pressure ≤ value)) } } := by
  unfold watchPressure
  have hreached : (w.judged.isNone && isHeld s .vacuum && decide (w.pressure ≤ value)) =
      (isHeld s .vacuum && decide (w.pressure ≤ value)) := by
    rw [hj]
    rfl
  rw [h]
  dsimp only
  rw [hreached]
  by_cases hc : (isHeld s .vacuum && decide (w.pressure ≤ value)) = true
  · rw [if_pos hc, hc, Bool.or_true]
  · rw [if_neg hc, eq_false_of_ne_true hc, Bool.or_false]
    exact congrArg (fun o => s.setCrumb { s.crumb with sweep := o }) h

theorem sampleTaken_meas (c : Channel) (s : State) :
    ∃ m, arbitrate (if s.meas.trend.channel = c then trendTakes c s else s) = s.setMeas m := by
  have htrend : ∃ m, (if s.meas.trend.channel = c then trendTakes c s else s) = s.setMeas m := by
    unfold trendTakes
    split
    · split
      · exact ⟨s.meas, rfl⟩
      · exact ⟨_, rfl⟩
    · exact ⟨s.meas, rfl⟩
  obtain ⟨m, hm⟩ := htrend
  obtain ⟨m', hm'⟩ := arbitrate_meas (s.setMeas m)
  exact ⟨m', by rw [hm, hm']; rfl⟩

/-- The conversion of a sample of channel 3, with the requester's part and measurement's own left. -/
theorem exec_pressure {s : State} {v : Conversion} {w : Sweep} (value : Raw) (hv : s.meas.converter = some v) (hc : v.channel = 3)
    (hs : s.crumb.sweep = some w) (hj : w.judged = none) : ∃ m0 m, exec (.conversionComplete value) s =
      .next (finish ((handToRequester 3 value.toNat v.request (swept (some { w with
        reached := w.reached || (isHeld s .vacuum && decide (w.pressure ≤ value.toNat)) }) m0 s)).setMeas m)) := by
  obtain ⟨c, stamp, phase, request⟩ := v
  obtain rfl : c = 3 := hc
  let m0 : Meas := { s.meas with converter := none, samples := s.meas.samples.set 3 ⟨value.toNat, stamp, phase⟩ }
  have hwatch := watchPressure_unjudged (s := s.setMeas m0) value.toNat hs hj
  obtain ⟨m, hm⟩ := sampleTaken_meas 3 (handToRequester 3 value.toNat request (watchPressure value.toNat (s.setMeas m0)))
  refine ⟨m0, m, congrArg Host.Outcome.next ?_⟩
  have hswept : swept (some { w with reached := w.reached || (isHeld s .vacuum && decide (w.pressure ≤ value.toNat)) }) m0 s =
    watchPressure value.toNat (s.setMeas m0) := hwatch.symm
  rw [hswept]
  unfold conversionDone
  rw [hv]
  dsimp only
  rw [takeBounds_pressure, if_pos rfl]
  exact congrArg finish hm

/-- A sample that crumb control did not ask for leaves crumb control (R118). -/
theorem handToRequester_crumb {c : Channel} {value : Nat} {req : Option ConvRequest} (s : State) (h : req ≠ some ⟨.crumb, true⟩) :
    (handToRequester c value req s).crumb = s.crumb := by
  unfold handToRequester
  split
  · unfold judgeStrike
    split <;> rfl
  · exact absurd rfl h
  · rfl

theorem judgeSweep_running {s : State} {w : Sweep} (h : s.crumb.sweep = some w) (ht : w.timerRunning = true) :
    judgeSweep s = s.setCrumb { s.crumb with
      sweep := some { w with judged := some (if w.reached = true then SweepResult.success else .weak) } } := by
  unfold judgeSweep
  rw [h]
  exact if_pos ht

theorem judgeSweep_ends {s : State} {w : Sweep} (h : s.crumb.sweep = some w) (ht : w.timerRunning = false) :
    judgeSweep s = endSweep (if w.reached = true then SweepResult.success else .weak) s := by
  unfold judgeSweep
  rw [h]
  exact if_neg (by rw [ht]; exact Bool.false_ne_true)

/-! ## The timers -/

theorem riseExpires_idle {s : State} (h : ∀ w, s.crumb.sweep = some w → w.riseRunning = false) : riseExpires s = s := by
  unfold riseExpires
  split
  · rfl
  · rename_i w hw
    rw [h w hw]
    rfl

theorem sweepExpires_idle {s : State} (h : ∀ w, s.crumb.sweep = some w → w.timerRunning = false) : sweepExpires s = s := by
  unfold sweepExpires
  split
  · rfl
  · rename_i w hw
    rw [h w hw]
    rfl

/-- The rise timer's request joins those that wait, and the arbiter is asked (R118, R126). -/
theorem riseExpires_asks {s : State} {w : Sweep} (h : s.crumb.sweep = some w) (hr : w.riseRunning = true) :
    riseExpires s = arbitrate (swept (some { w with riseRunning := false })
      { s.meas with requests := s.meas.requests ++ [⟨.crumb, true⟩] } s) := by
  unfold riseExpires
  rw [h]
  exact if_pos hr

/-- With the converter free a lone request is converted at once (R126). -/
theorem arbitrate_request {s : State} {q : ConvRequest} (hc : s.meas.converter = none) (hq : s.meas.requests = [q]) :
    arbitrate s = s.setMeas { s.meas with
      requests := [], converter := some ⟨requestChannel q.who, s.head.stamp, .request, some q⟩ } := by
  unfold arbitrate
  rw [hc, hq]
  rfl

theorem sweepExpires_unjudged {s : State} {w : Sweep} (h : s.crumb.sweep = some w) (ht : w.timerRunning = true) (hj : w.judged = none) :
    sweepExpires s = finish (swept (some { w with timerRunning := false }) s.meas s) := by
  unfold sweepExpires
  rw [h]
  dsimp only
  rw [if_pos ht, hj]
  rfl

theorem sweepExpires_judged {s : State} {w : Sweep} {result : SweepResult} (h : s.crumb.sweep = some w) (ht : w.timerRunning = true)
    (hj : w.judged = some result) :
    ∃ m, sweepExpires s = sweepTested result m (swept (some { w with timerRunning := false }) s.meas s) := by
  refine ⟨(endSweep result (swept (some { w with timerRunning := false }) s.meas s)).meas, ?_⟩
  unfold sweepExpires
  rw [h]
  dsimp only
  rw [if_pos ht, hj]
  rfl

/-- Settles O41: the sweep's timers and the sample that judges it. -/
theorem sweepTimers : Obligations.SweepTimers := by
  intro s
  refine ⟨fun hn => ⟨?_, ?_⟩, fun w hw => ⟨fun hr => ?_, fun ht => ?_, fun hr hc hq => ?_, fun hr hc => ?_,
    fun value v hv hch hj => ?sample,
    fun ht hj => ?_, fun ht result hj hr => ?_⟩⟩
  · exact congrArg Host.Outcome.next (riseExpires_idle fun w hw => absurd (hn.symm.trans hw) nofun)
  · exact congrArg Host.Outcome.next (sweepExpires_idle fun w hw => absurd (hn.symm.trans hw) nofun)
  · exact congrArg Host.Outcome.next (riseExpires_idle fun w' hw' => by cases hw.symm.trans hw'; exact hr)
  · exact congrArg Host.Outcome.next (sweepExpires_idle fun w' hw' => by cases hw.symm.trans hw'; exact ht)
  · have hasked := arbitrate_request (s := swept (some { w with riseRunning := false })
      { s.meas with requests := s.meas.requests ++ [⟨.crumb, true⟩] } s) (q := ⟨.crumb, true⟩) hc
      (by show s.meas.requests ++ _ = _; rw [hq]; rfl)
    refine congrArg Host.Outcome.next ((riseExpires_asks hw hr).trans (hasked.trans ?_))
    rw [← hq]
    rfl
  · exact congrArg Host.Outcome.next ((riseExpires_asks hw hr).trans (arbitrate_busy hc))
  case sample =>
    intro reached result
    obtain ⟨m0, m, hex⟩ := exec_pressure value hv hch hw hj
    refine ⟨_, hex, fun hq => ?_, fun hq ht => ?_, fun hq ht => ?_⟩
    · rw [(finish_noticed _).crumb, State.setMeas_crumb, handToRequester_crumb _ hq]
    · rw [(finish_noticed _).crumb, State.setMeas_crumb, hq]
      exact congrArg State.crumb (judgeSweep_running (s := swept (some { w with reached := reached }) m0 s) rfl ht)
    · have hends := judgeSweep_ends (s := swept (some { w with reached := reached }) m0 s) rfl ht
      have hr : result ≠ .aborted := by
        unfold result
        split <;> nofun
      have hend : handToRequester 3 value.toNat (some ⟨.crumb, true⟩) (swept (some { w with reached := reached }) m0 s) =
        endSweep result (swept (some { w with reached := reached }) m0 s) := hends
      rw [hq, hend]
      exact sweepTested_ends hr (some { w with reached := reached }) m0 m s
  · exact ⟨_, congrArg Host.Outcome.next (sweepExpires_unjudged hw ht hj), finish_noticed _⟩
  · obtain ⟨m, hm⟩ := sweepExpires_judged hw ht hj
    obtain ⟨hended, htested⟩ := sweepTested_ends hr (some { w with timerRunning := false }) s.meas m s
    rw [← hm] at hended htested
    exact ⟨_, rfl, (sweepExpires_steady s).aside, hended, htested⟩

end Sys2Proof.SlicingHead
end

-- ==== The slicing head, proofs: the checks of START ====
section
/-! START's checks in their order, and the head that resumes (R74, R140). -/

namespace Sys2Proof.SlicingHead

open Sys2Proof.Machine Sys2Proof.Safety Sys2Proof.Laws Sys2Proof.LoafTrack Sys2Proof.SwitchInputs

/-! ## The checks -/

/-- The points that START requires (R140). -/
abbrev StartHolds (s : State) : Prop :=
  (∀ f ∈ [Func.infeedEye, .stopEye, .rejectEye, .exitEye, .infeedHold, .knifeRun, .pusherEnable, .rejectGate], Held s f) ∧
  (∀ x, stationFitted s.member x = true → (stationRec s x).inServiceFlag = true →
    Held s (.bagEye x) ∧ Held s (.blower x) ∧ Held s (.scoop x) ∧ (tyerFitted s x = true → Held s (.tie x))) ∧
  (s.member = .bl340 → Held s .stationGate)

theorem stationFunctions_held (s : State) (x : Station) : (stationFunctions s x).all (isHeld s) = true ↔
    (stationFitted s.member x = true → (stationRec s x).inServiceFlag = true →
      Held s (.bagEye x) ∧ Held s (.blower x) ∧ Held s (.scoop x) ∧ (tyerFitted s x = true → Held s (.tie x))) := by
  unfold stationFunctions Held
  by_cases hs : (stationFitted s.member x && (stationRec s x).inServiceFlag) = true
  · obtain ⟨hf, hi⟩ := (Bool.and_eq_true _ _).mp hs
    rw [if_pos hs]
    by_cases ht : tyerFitted s x = true
    · simp [hf, hi, ht]
    · simp [hf, hi, ht]
  · rw [if_neg hs]
    simp only [List.all_nil, true_iff]
    exact fun hf hi => absurd ((Bool.and_eq_true _ _).mpr ⟨hf, hi⟩) hs

theorem configured_iff (s : State) : configured s = true ↔ StartHolds s := by
  have hgate : (gateFunctions s.member).all (isHeld s) = true ↔ (s.member = .bl340 → Held s .stationGate) := by
    cases s.member <;> simp [gateFunctions]
  have hstations : ((stationFunctions s .a).all (isHeld s) = true ∧ (stationFunctions s .b).all (isHeld s) = true) ↔
      ∀ x, stationFitted s.member x = true → (stationRec s x).inServiceFlag = true →
        Held s (.bagEye x) ∧ Held s (.blower x) ∧ Held s (.scoop x) ∧ (tyerFitted s x = true → Held s (.tie x)) := by
    rw [stationFunctions_held, stationFunctions_held]
    exact ⟨fun h x => by cases x; exacts [h.1, h.2], fun h => ⟨h .a, h .b⟩⟩
  unfold configured
  rw [List.all_append, List.all_append, List.all_append, Bool.and_eq_true, Bool.and_eq_true, Bool.and_eq_true, hgate, and_assoc, and_assoc,
    ← and_assoc (a := (stationFunctions s .a).all (isHeld s) = true), hstations, List.all_eq_true]
  exact Iff.rfl

theorem startBlocked_iff (s : State) : startBlocked s = false ↔
    ∀ k, (faultEntry s k).state = .inactive ∨ (faultEntry s k).action = .nothing := by
  have hall : ∀ k : FaultKind, k ∈ allFaults := fun k => by
    rw [← allFaults_faultIndex k, List.getD_eq_getElem _ _ (faultIndex k).isLt]
    exact List.getElem_mem _
  unfold startBlocked faultStands
  rw [List.any_eq_false]
  constructor
  · intro h k
    have hk := h k (hall k)
    by_contra hn
    obtain ⟨hstate, haction⟩ := not_or.mp hn
    exact hk (by simp [hstate, haction])
  · intro h k _
    rcases h k with h | h <;> simp [h]

theorem recipeUsable_iff (s : State) : recipeUsable s = true ↔
    ∃ i ∈ s.recipes.runRecipe, ∃ r ∈ s.recipes.slots[i], s.recipes.lockdown = true → r.locked = true := by
  unfold recipeUsable slotLocked recipeAt
  cases s.recipes.runRecipe with
  | none => simp
  | some i =>
    cases hslot : s.recipes.slots[i] with
    | none => simp [-Fin.getElem_fin, hslot]
    | some r => cases s.recipes.lockdown <;> simp [-Fin.getElem_fin, hslot]

theorem clock_iff (s : State) : (!s.options.printer || s.shift.clockSet) = true ↔ (s.options.printer = true → s.shift.clockSet = true) := by
  cases s.options.printer <;> simp

/-- A request past its tier and the line state STOPPED. -/
theorem svcStart_stopped {s : State} (hl : s.sup.line = .stopped) : svcStart (some ()) s =
    (require configured .notConfigured <| require (fun s => !startBlocked s) .blocked <| require recipeUsable .noRecipe <|
      require (fun s => !s.options.printer || s.shift.clockSet) .noClock <|
      require (fun s => inService s .a || inService s .b) .noStation fun s => lineReply "START" (enterRunning s)) s := by
  unfold svcStart withForm
  exact (needTier_pass (operator_ok s)).trans (require_pass (decide_eq_true hl))

section
variable {s : State} (hf : Free s)
include hf

theorem start_notStopped (hl : s.sup.line ≠ .stopped) : exec (.start (some ())) s = .next (answered (refusal .state) s) :=
  taken hf (by
    unfold svcStart withForm
    exact (needTier_pass (operator_ok s)).trans (require_fail (decide_eq_false hl)))

theorem start_notConfigured (hl : s.sup.line = .stopped) (hc : ¬StartHolds s) :
    exec (.start (some ())) s = .next (answered (refusal .notConfigured) s) :=
  taken hf ((svcStart_stopped hl).trans (require_fail (eq_false_of_ne_true (mt (configured_iff s).mp hc))))

theorem start_blocked (hl : s.sup.line = .stopped) (hc : StartHolds s)
    (hb : ¬∀ k, (faultEntry s k).state = .inactive ∨ (faultEntry s k).action = .nothing) :
    exec (.start (some ())) s = .next (answered (refusal .blocked) s) := by
  have hblocked : (!startBlocked s) = false := by
    rw [Bool.not_eq_false']
    exact eq_true_of_ne_false (mt (startBlocked_iff s).mp hb)
  exact taken hf ((svcStart_stopped hl).trans ((require_pass ((configured_iff s).mpr hc)).trans (require_fail hblocked)))

end

/-- The checks passed up to the recipe. -/
theorem svcStart_unblocked {s : State} (hl : s.sup.line = .stopped) (hc : StartHolds s)
    (hb : ∀ k, (faultEntry s k).state = .inactive ∨ (faultEntry s k).action = .nothing) : svcStart (some ()) s =
      (require recipeUsable .noRecipe <| require (fun s => !s.options.printer || s.shift.clockSet) .noClock <|
        require (fun s => inService s .a || inService s .b) .noStation fun s => lineReply "START" (enterRunning s)) s := by
  have hfree : (!startBlocked s) = true := by rw [(startBlocked_iff s).mpr hb]; rfl
  exact (svcStart_stopped hl).trans ((require_pass ((configured_iff s).mpr hc)).trans (require_pass hfree))

/-! ## The head -/

theorem resumedHead_running (s : State) : resumedHead (setLine .running s) = resumedHead s := by
  obtain ⟨link, h⟩ := setLine_linked .running s
  rw [h]
  rfl

/-- The resumption changes the head alone, and engages the blade outside PASSING (R74). -/
theorem headResumes_eq (s : State) : headResumes s = s.setHead (if (resumedHead s).state = .passing then resumedHead s else
    { resumedHead s with
      knife := true, stallTimer := if (resumedHead s).knife then (resumedHead s).stallTimer else some 1000000 }) := by
  unfold headResumes
  dsimp only
  rw [State.setHead_head]
  split
  · rfl
  · exact knifeTo_on _

theorem resumedHead_entering {s : State} (h : s.head.state = .paused) (hp : s.head.pausedFrom = some .entering ∨
    s.head.pausedFrom = some .advancing ∨ s.head.pausedFrom = some .cutting) :
    resumedHead s = { s.head with state := .entering, pausedFrom := none } := by
  unfold resumedHead
  rcases hp with hp | hp | hp <;> simp only [h, hp]

theorem resumedHead_ejecting {s : State} (h : s.head.state = .paused) (hp : s.head.pausedFrom = some .ejecting) :
    resumedHead s = { s.head with state := .ejecting, pausedFrom := none } := by
  unfold resumedHead
  simp only [h, hp]

theorem resumedHead_passing {s : State} (h : s.head.state = .paused) (hp : s.head.pausedFrom = some .passing) :
    resumedHead s = { s.head with state := .passing, nextCut := none, pausedFrom := none } := by
  unfold resumedHead
  simp only [h, hp]

theorem resumedHead_interrupted {s : State} {r : Loaf} (h : s.head.state = .interrupted) (hr : headLoaf s = some r) :
    resumedHead s = if 1 ≤ r.cutsDone.getD 0 then { s.head with state := .ejecting, target := ejectTargetOf s r }
      else { s.head with state := .passing, nextCut := none, target := ejectTargetOf s r } := by
  unfold resumedHead hasCuts
  simp only [h, hr, decide_eq_true_eq]

theorem resumedHead_empty {s : State} (h : s.head.state = .empty) : resumedHead s = s.head := by
  unfold resumedHead
  simp only [h]

end Sys2Proof.SlicingHead
end

-- ==== The slicing head, proofs: the stations that restart ====
section
/-! What the restart of a station leaves of the line, the head, the records and the other station (R94). -/

namespace Sys2Proof.SlicingHead

open Sys2Proof.Machine Sys2Proof.Safety Sys2Proof.Laws Sys2Proof.LoafTrack Sys2Proof.SwitchInputs

/-! ## What a restart leaves -/

/-- No stroke ends now: no loaf is driven out, or the pusher is short of its target (R70). -/
abbrev HeadWaits (s : State) : Prop :=
  (s.head.state ≠ .ejecting ∧ s.head.state ≠ .passing) ∨ 2 < (s.head.pusher - s.head.target).natAbs

/-- What names the bag of a record: its tag and its snapshot. -/
abbrev bagOf (r : Loaf) : Nat × Option Snapshot := (r.tag, r.snapshot)

/-- A station's record stands, or it was READY and a loaf has been assigned to it. -/
def Unturned (r r' : StationRec) : Prop := r' = r ∨ (r.state = .ready ∧ r'.state = .filling ∧ r'.held = r.held)

theorem Unturned.trans {r r' r'' : StationRec} (h : Unturned r r') (k : Unturned r' r'') : Unturned r r'' := by
  rcases k with rfl | ⟨kready, kfilling, kheld⟩
  · exact h
  · rcases h with rfl | ⟨_, hfilling, _⟩
    · exact .inr ⟨kready, kfilling, kheld⟩
    · rw [hfilling] at kready
      cases kready

/-- What opening a bag at a station, striking there, and routing a loaf leave: the line and the fault table, the head where no stroke ends,
what names the bags, and the other station but for an assignment; at most `n` reports join the queue. -/
structure Restarted (x : Station) (n : Nat) (s t : State) : Prop where
  line : t.sup.line = s.sup.line
  faults : t.sup.faults = s.sup.faults
  head : HeadWaits s → t.head = s.head
  bags : t.track.loaves.map bagOf = s.track.loaves.map bagOf
  recs : ∀ y, y ≠ x → Unturned (stationRec s y) (stationRec t y)
  tyers : ∀ y, y ≠ x → tyerOf t y = tyerOf s y
  tells : Tells n s t

theorem Restarted.refl (x : Station) (s : State) : Restarted x 0 s s :=
  ⟨rfl, rfl, fun _ => rfl, rfl, fun _ _ => .inl rfl, fun _ _ => rfl, Tells.refl s 0⟩

theorem Restarted.trans {x : Station} {m n : Nat} {s t u : State} (h : Restarted x m s t) (k : Restarted x n t u) :
    Restarted x (m + n) s u where
  line := k.line.trans h.line
  faults := k.faults.trans h.faults
  head hw := (k.head (by unfold HeadWaits; rw [h.head hw]; exact hw)).trans (h.head hw)
  bags := k.bags.trans h.bags
  recs y hy := (h.recs y hy).trans (k.recs y hy)
  tyers y hy := (k.tyers y hy).trans (h.tyers y hy)
  tells := h.tells.trans k.tells

theorem Restarted.mono {x : Station} {m n : Nat} {s t : State} (h : Restarted x m s t) (hn : m ≤ n) : Restarted x n s t :=
  { h with tells := h.tells.mono hn }

theorem Restarted.of_becomes {x : Station} {r : StationRec} {k : Tyer} {c : StationCounts} {n : Nat} {s t : State}
    (h : Becomes x r k c s t) (ht : Tells n s t) : Restarted x n s t where
  line := h.aloof.line
  faults := h.aloof.faults
  head _ := h.aloof.head
  bags := by rw [h.aloof.track]
  recs y hy := .inl (h.others y hy).1
  tyers y hy := (h.others y hy).2.1
  tells := ht

theorem setStation_restarted (x : Station) (r : StationRec) (s : State) : Restarted x 0 s (setStation x r s) :=
  Restarted.of_becomes (setStation_becomes x r s) (Tells.of_link rfl 0)

theorem evaluate_restarted (w : WarnKind) (x : Station) (s : State) : Restarted x 1 s (evaluate w s) :=
  Restarted.of_becomes (evaluate_stays w x s) (evaluate_tells w s)

theorem wasteBag_restarted (x : Station) (s : State) : Restarted x 0 s (wasteBag x s) :=
  Restarted.of_becomes (countStation_becomes x _ s) (Tells.of_link rfl 0)

/-! ## Routing -/

theorem bagOf_moveLoaf (z : Zone) (tag : Nat) {f : Loaf → Loaf} (hf : ∀ r, bagOf (f r) = bagOf r) (s : State) :
    (moveLoaf z tag f s).track.loaves.map bagOf = s.track.loaves.map bagOf := by
  show (modifyFirst _ f s.track.loaves).map bagOf = _
  induction s.track.loaves with
  | nil => rfl
  | cons a ls ih =>
    unfold modifyFirst
    split
    · rw [List.map_cons, List.map_cons, hf]
    · rw [List.map_cons, List.map_cons, ih]

theorem assignLoaf_turns {x : Station} {tag : Nat} {s : State} (h : (stationRec s x).state = .ready) (y : Station) :
    Unturned (stationRec s y) (stationRec (assignLoaf x tag s) y) := by
  by_cases hy : y = x
  · subst hy
    rw [assignLoaf_station]
    exact .inr ⟨h, rfl, rfl⟩
  · refine .inl ?_
    show stationRec (setStation x _ (moveLoaf .transfer tag _ s)) y = _
    rw [stationRec_setStation, Function.update_of_ne hy]
    rfl

/-- The gate decision takes a station that is READY, if any (R85). -/
theorem gateDecision_cases (s : State) : gateDecision s = s ∨ (∃ tag, gateDecision s = divert tag s) ∨
    ∃ x tag, (stationRec s x).state = .ready ∧ gateDecision s = assignLoaf x tag s := by
  unfold gateDecision
  split
  · exact .inl rfl
  split
  · exact .inl rfl
  split
  · exact .inr (.inl ⟨_, rfl⟩)
  split
  · exact .inl rfl
  split
  · exact .inl rfl
  · rename_i hx
    obtain ⟨cls, _, hchosen⟩ := Option.bind_eq_some_iff.mp hx
    exact .inr (.inr ⟨_, _, chooseStation_ready hchosen, rfl⟩)

theorem gateDecision_turns (s : State) (y : Station) : Unturned (stationRec s y) (stationRec (gateDecision s) y) := by
  rcases gateDecision_cases s with h | ⟨tag, h⟩ | ⟨x, tag, hx, h⟩
  · rw [h]
    exact .inl rfl
  · rw [h]
    exact .inl rfl
  · rw [h]
    exact assignLoaf_turns hx y

theorem gateDecision_bags (s : State) : (gateDecision s).track.loaves.map bagOf = s.track.loaves.map bagOf := by
  rcases gateDecision_cases s with h | ⟨tag, h⟩ | ⟨x, tag, _, h⟩
  · rw [h]
  · rw [h]
    refine bagOf_moveLoaf .transfer tag ?_ s
    exact fun _ => rfl
  · rw [h]
    refine bagOf_moveLoaf .transfer tag ?_ s
    exact fun _ => rfl

theorem gateDecision_restarted (x : Station) (s : State) : Restarted x 0 s (gateDecision s) := by
  have hg := gateDecision_gated s
  exact ⟨by rw [hg], by rw [hg], fun _ => by rw [hg], gateDecision_bags s, fun y _ => gateDecision_turns s y, fun y _ => by rw [hg]; rfl,
    Tells.of_link (by rw [hg]) 0⟩

/-- Where no stroke ends, none does (R70). -/
theorem endStroke_still {s : State} (h : HeadWaits s) : endStroke s = s := by
  refine if_neg fun e => ?_
  obtain ⟨hstate, hpos, _⟩ := (ejectReached_iff s).mp e
  rcases h with ⟨he, hp⟩ | h
  · exact hstate.elim he hp
  · omega

/-- The end of a stroke is a gate decision, once the loaf has left the slicer (R70, R71). -/
theorem endStroke_cases (s : State) : endStroke s = s ∨ (¬HeadWaits s ∧ ∃ tag k stall,
    endStroke s = gateDecision ((leftSlicer tag s).setHead { (leftSlicer tag s).head with knife := k, stallTimer := stall })) := by
  by_cases hw : HeadWaits s
  · exact .inl (endStroke_still hw)
  unfold endStroke
  split
  swap
  · exact .inl rfl
  cases htag : s.head.tag with
  | none =>
    unfold ejectLoaf
    rw [htag]
    exact .inl rfl
  | some tag =>
    obtain ⟨k, stall, hstroke, _⟩ := strokeEnded_eq tag s
    exact .inr ⟨hw, tag, k, stall, (ejectLoaf_tagged htag).trans (congrArg gateDecision hstroke)⟩

theorem endStroke_restarted (x : Station) (s : State) : Restarted x 0 s (endStroke s) := by
  rcases endStroke_cases s with h | ⟨hw, tag, k, stall, h⟩
  · rw [h]
    exact Restarted.refl x s
  · have hleft : (leftSlicer tag s).track.loaves.map bagOf = s.track.loaves.map bagOf := by
      refine bagOf_moveLoaf .slicer tag ?_ s
      exact fun _ => rfl
    have hgate := gateDecision_restarted x ((leftSlicer tag s).setHead { (leftSlicer tag s).head with knife := k, stallTimer := stall })
    rw [h]
    exact ⟨hgate.line, hgate.faults, fun h => absurd h hw, hgate.bags.trans hleft, hgate.recs, hgate.tyers, hgate.tells.of_same rfl⟩

theorem route_restarted (x : Station) (s : State) : Restarted x 0 s (route s) :=
  (gateDecision_restarted x s).trans (endStroke_restarted x _)

/-! ## Opening a bag -/

theorem drawBag_restarted (x : Station) (n : Nat) (s : State) : Restarted x 1 s (drawBag x n s) := by
  have hdrawn : Restarted x 1 s (drawn s x n) := Restarted.of_becomes (drawn_becomes x n s) ((evaluate_tells (.bagsLow x) _).of_same rfl)
  rw [drawBag_eq]
  split
  · exact Restarted.of_becomes (stationEmpties_becomes x s) ((evaluate_tells (.bagsEmpty x) _).of_same rfl)
  split
  · exact hdrawn.trans ((setStation_restarted x _ _).trans (route_restarted x _))
  · exact hdrawn

theorem tryDraw_restarted (x : Station) (s : State) : Restarted x 1 s (tryDraw x s) := by
  unfold tryDraw
  split
  · exact drawBag_restarted x 1 s
  · exact (Restarted.refl x s).mono (by omega)

theorem enterOpening_restarted (x : Station) (s : State) : Restarted x 2 s (enterOpening x s) :=
  (setStation_restarted x _ s).trans ((evaluate_restarted (.bagsEmpty x) x _).trans (tryDraw_restarted x _))

theorem stationOut_restarted (x : Station) (s : State) : Restarted x 1 s (stationOut x s) :=
  Restarted.of_becomes (stationOut_becomes x s) ((evaluate_tells (.bagsEmpty x) _).of_same rfl)

/-! ## Release and tying -/

/-- The station that has released its loaf, before its next bag (R14, R89). -/
theorem loafToOutfeed_restarted (x : Station) (s : State) : Restarted x 0 s (loafToOutfeed x s) := by
  unfold loafToOutfeed
  dsimp only
  cases (stationRec s x).tag with
  | none => exact setStation_restarted x _ s
  | some tag =>
    have hmoved : Restarted x 0 s (moveLoaf (.station x) tag (fun l => { l with
        zone := .outfeed, check := some (armedCheck s .exit) }) s) := by
      refine ⟨rfl, rfl, fun _ => rfl, bagOf_moveLoaf (.station x) tag ?_ s, fun _ _ => .inl rfl, fun _ _ => rfl, Tells.of_link rfl 0⟩
      exact fun _ => rfl
    exact hmoved.trans (setStation_restarted x _ _)

theorem releaseLoaf_restarted (x : Station) (s : State) : Restarted x 2 s (releaseLoaf x s) := by
  refine (loafToOutfeed_restarted x s).trans (n := 2) ?_
  show Restarted x 2 _ (if _ then _ else _)
  split
  · exact enterOpening_restarted x _
  · exact (stationOut_restarted x _).mono (by omega)

theorem awaitRelease_restarted (x : Station) (s : State) : Restarted x 2 s (awaitRelease x s) := by
  unfold awaitRelease
  dsimp only
  split
  · split
    · exact (setStation_restarted x _ s).mono (by omega)
    · exact releaseLoaf_restarted x s
  · exact (Restarted.refl x s).mono (by omega)

/-- The spool of a station suffices for the clip of its loaf (R99). -/
abbrev SpoolSuffices (s : State) (x : Station) : Prop := clipLength (tyerOf s x).settings (tieClass s x) ≤ (tyerOf s x).spool

/-- The record of a station whose tying stage begins. -/
abbrev tyingBegun (r : StationRec) : StationRec := { r with state := .tying, scoopTimer := none }

theorem tieClass_setStation {x : Station} {r : StationRec} {s : State} (ht : r.tag = (stationRec s x).tag)
    (hb : r.bagClass = (stationRec s x).bagClass) : tieClass (setStation x r s) x = tieClass s x := by
  unfold tieClass stationLoaf
  rw [stationRec_setStation_self, ht, hb]
  rfl

/-- The tyer at a strike begin (R100). -/
abbrev struckTyer (s : State) (x : Station) (length : Nat) : Tyer :=
  { tyerOf s x with
    spool := (tyerOf s x).spool - length
    stage := some ⟨(tyerOf s x).settings.strike, true, none⟩
    codeHeld := if s.options.printer then some (clipCodeNow s (tieShelfDays s x)) else none }

theorem beginStrike_becomes (x : Station) (length : Nat) (s : State) : Becomes x (stationRec s x) (struckTyer s x length)
    { bagCounts s x with clipMm := raiseCount (bagCounts s x).clipMm length } s (beginStrike x length s) := by
  have htyer := setTyer_becomes x (struckTyer s x length) s
  have hcount := htyer.trans ((countStation_becomes x (fun c => { c with clipMm := raiseCount c.clipMm length }) _).of_eq
    htyer.record htyer.tyer rfl)
  exact hcount.trans ((evaluate_stays (.clipsLow x) x _).of_eq hcount.record hcount.tyer hcount.counts)

theorem beginTying_strikes {x : Station} {s : State} (h : SpoolSuffices s x) : beginTying x s =
    beginStrike x (clipLength (tyerOf s x).settings (tieClass s x)) (setStation x (tyingBegun (stationRec s x)) s) := by
  have hclass : tieClass (setStation x (tyingBegun (stationRec s x)) s) x = tieClass s x := tieClass_setStation rfl rfl
  unfold beginTying
  dsimp only
  rw [hclass]
  exact if_pos h

theorem beginTying_restarted {x : Station} {s : State} (h : SpoolSuffices s x) : Restarted x 1 s (beginTying x s) := by
  rw [beginTying_strikes h]
  exact (setStation_restarted x _ s).trans
    (Restarted.of_becomes (beginStrike_becomes x _ _) ((evaluate_tells (.clipsLow x) _).of_same rfl))

/-! ## The restart of a station -/

/-- The record of a station whose held flag START has cleared. -/
abbrev freed (x : Station) (s : State) : State := setStation x { stationRec s x with held := false } s

theorem spoolSuffices_freed {x : Station} {s : State} (h : SpoolSuffices s x) : SpoolSuffices (freed x s) x := by
  have hclass : tieClass (freed x s) x = tieClass s x := tieClass_setStation rfl rfl
  unfold SpoolSuffices
  rw [hclass]
  exact h

/-- A station that is not held stays as it is. -/
theorem stationRestarts_free {x : Station} {s : State} (h : (stationRec s x).held = false) : stationRestarts x s = s := by
  refine if_pos ?_
  rw [h]
  rfl

/-- The stage of a held station is repeated (R94). -/
theorem stationRestarts_held {x : Station} {s : State} (h : (stationRec s x).held = true) (hm : moving s = true) : stationRestarts x s =
    match (stationRec s x).state with
    | .opening => enterOpening x (if (stationRec s x).attempt.isSome then wasteBag x (freed x s) else freed x s)
    | .ready => enterOpening x (wasteBag x (freed x s))
    | .filling =>
      if (stationRec s x).travel.isSome then freed x s
      else setStation x { stationRec s x with held := false, scoopTimer := some s.stations.times.scoopTime } (freed x s)
    | .tying => beginTying x (freed x s)
    | .releasing => awaitRelease x (freed x s)
    | .outOfService => freed x s
    | .empty => freed x s := by
  refine if_neg ?_
  rw [h, hm]
  exact Bool.false_ne_true

theorem stationRestarts_restarted {x : Station} {s : State} (h : (stationRec s x).held = true → (stationRec s x).state = .tying →
    SpoolSuffices s x) : Restarted x 2 s (stationRestarts x s) := by
  have hfreed : Restarted x 0 s (freed x s) := setStation_restarted x _ s
  by_cases hh : (stationRec s x).held = true
  swap
  · rw [stationRestarts_free (eq_false_of_ne_true hh)]
    exact (Restarted.refl x s).mono (by omega)
  by_cases hm : moving s = true
  swap
  · have hstands : stationRestarts x s = s := if_pos (by rw [eq_false_of_ne_true hm]; simp)
    rw [hstands]
    exact (Restarted.refl x s).mono (by omega)
  rw [stationRestarts_held hh hm]
  split
  case h_1 =>
    refine hfreed.trans (n := 2) (Restarted.trans (m := 0) ?_ (enterOpening_restarted x _))
    split
    · exact wasteBag_restarted x _
    · exact Restarted.refl x _
  case h_2 => exact hfreed.trans ((wasteBag_restarted x _).trans (enterOpening_restarted x _))
  case h_3 =>
    split
    · exact hfreed.mono (by omega)
    · exact (hfreed.trans (setStation_restarted x _ _)).mono (by omega)
  case h_4 ht => exact (hfreed.trans (beginTying_restarted (spoolSuffices_freed (h hh ht)))).mono (by omega)
  case h_5 => exact hfreed.trans (awaitRelease_restarted x _)
  case h_6 => exact hfreed.mono (by omega)
  case h_7 => exact hfreed.mono (by omega)

/-! ## The other station -/

/-- The record found by a tag keeps its snapshot. -/
theorem Restarted.findLoaf {x : Station} {n : Nat} {s t : State} (h : Restarted x n s t) (tag : Nat) :
    (Machine.findLoaf t tag).map bagOf = (Machine.findLoaf s tag).map bagOf := by
  have hfind : ∀ ls : List Loaf, (ls.find? fun l => decide (l.tag = tag)).map bagOf =
      (ls.map bagOf).find? (fun b => decide (b.1 = tag)) := fun ls => by
    rw [List.find?_map]
    rfl
  unfold Machine.findLoaf
  rw [hfind, hfind, h.bags]

theorem Restarted.tieClass {x y : Station} {n : Nat} {s t : State} (h : Restarted x n s t)
    (hr : stationRec t y = stationRec s y) : Machine.tieClass t y = Machine.tieClass s y := by
  have hclass : ∀ tag, (Machine.findLoaf t tag).bind Loaf.bagClass = (Machine.findLoaf s tag).bind Loaf.bagClass := fun tag => by
    have hbag := congrArg (fun o : Option (Nat × Option Snapshot) => o.bind fun b => b.2.map fun sn => sn.figures.bagClass) (h.findLoaf tag)
    simp only [Option.bind_map] at hbag
    exact hbag
  unfold Machine.tieClass stationLoaf
  rw [hr]
  cases (stationRec s y).tag with
  | none => rfl
  | some tag => exact congrArg (Option.getD · _) (hclass tag)

/-- What START asks of the spools stands for the other station once one has restarted (R99). -/
theorem Restarted.spool {x y : Station} {n : Nat} {s t : State} (h : Restarted x n s t) (hy : y ≠ x)
    (hs : (stationRec s y).held = true → (stationRec s y).state = .tying → SpoolSuffices s y) :
    (stationRec t y).held = true → (stationRec t y).state = .tying → SpoolSuffices t y := by
  intro hheld hstate
  rcases h.recs y hy with hr | ⟨_, hfilling, _⟩
  · rw [hr] at hheld hstate
    have hsuffices := hs hheld hstate
    unfold SpoolSuffices
    rw [h.tyers y hy, h.tieClass hr]
    exact hsuffices
  · rw [hfilling] at hstate
    cases hstate

theorem Restarted.moving {x : Station} {n : Nat} {s t : State} (h : Restarted x n s t) : Machine.moving t = Machine.moving s := by
  unfold Machine.moving
  rw [h.line]

theorem Restarted.beltRuns {x : Station} {n : Nat} {s t : State} (h : Restarted x n s t) (hb : BeltRuns s) : BeltRuns t := by
  unfold BeltRuns faultEntry
  rw [h.faults]
  exact hb

end Sys2Proof.SlicingHead
end

-- ==== The slicing head, proofs: a held station's stage ====
section
/-! What START makes of one held station (R94), and what the rest of the event leaves of it. -/

namespace Sys2Proof.SlicingHead

open Sys2Proof.Machine Sys2Proof.Safety Sys2Proof.Laws Sys2Proof.LoafTrack Sys2Proof.SwitchInputs

/-! ## The next bag, with the bag eye clear -/

/-- The state of a station that enters OPENING, before it draws. -/
abbrev opened (x : Station) (s : State) : State :=
  evaluate (.bagsEmpty x) (setStation x (openingRec (decide (s.sup.line = .halted)) (stationRec s x)) s)

theorem opened_becomes (x : Station) (s : State) : Becomes x (openingRec (decide (s.sup.line = .halted)) (stationRec s x)) (tyerOf s x)
    (bagCounts s x) s (opened x s) :=
  have h := setStation_becomes x (openingRec (decide (s.sup.line = .halted)) (stationRec s x)) s
  h.trans ((evaluate_stays (.bagsEmpty x) x _).of_eq h.record h.tyer h.counts)

theorem drawDue_opened (x : Station) (s : State) : drawDue (opened x s) x = openDraws s x := by
  have h := opened_becomes x s
  unfold drawDue openDraws
  rw [h.record, h.aloof.line, h.aloof.isHeld, h.aloof.isHeld]
  cases hl : decide (s.sup.line = .halted) with
  | true =>
    rw [Bool.or_true, show decide (s.sup.line ≠ .halted) = false from decide_eq_false (not_not.mpr (of_decide_eq_true hl))]
    simp
  | false =>
    rw [show decide (s.sup.line ≠ .halted) = true from decide_eq_true (of_decide_eq_false hl)]
    rfl

/-- No bag stands open at a draw with the bag eye clear, or with no bag to draw (R80, R81). -/
theorem drawBag_unready {x : Station} {s : State} (h : (stationRec s x).magazine = 0 ∨ inputHigh s (.bagEye x) = false) :
    Becomes x (drewRec true false s.stations.times.openTimeout (stationRec s x)) (tyerOf s x)
      (drewCounts true (stationRec s x).magazine (bagCounts s x)) s (drawBag x 1 s) := by
  have hd := drawn_becomes x 1 s
  rw [drawBag_eq, hd.aloof.inputHigh]
  by_cases hm : (stationRec s x).magazine = 0
  · rw [drewRec_none hm, if_pos hm]
    exact (stationEmpties_becomes x s).of_eq rfl rfl (if_neg fun e => e.2 hm).symm
  · rw [drewRec_bag hm, drewCounts_bag hm, if_neg hm, h.resolve_left hm]
    exact hd

theorem drewRec_unready {due : Bool} {timeout : Nat} {r : StationRec} (h : r.state = .opening) :
    (drewRec due false timeout r).state ≠ .ready := by
  cases due with
  | false => exact fun e => StationState.noConfusion (h.symm.trans e)
  | true =>
    by_cases hm : r.magazine = 0
    · rw [drewRec_none hm]
      nofun
    · rw [drewRec_bag hm]
      exact fun e => StationState.noConfusion (h.symm.trans e)

theorem drewRec_tag {due eye : Bool} {timeout : Nat} {r : StationRec} (h : r.tag = none) : (drewRec due eye timeout r).tag = none := by
  unfold drewRec
  repeat' split
  all_goals exact h

theorem enterOpening_unready {x : Station} {s : State} (h : (stationRec s x).magazine = 0 ∨ inputHigh s (.bagEye x) = false) :
    Becomes x (drewRec (openDraws s x) false s.stations.times.openTimeout
        (openingRec (decide (s.sup.line = .halted)) (stationRec s x))) (tyerOf s x)
      (drewCounts (openDraws s x) (stationRec s x).magazine (bagCounts s x)) s (enterOpening x s) := by
  have ho := opened_becomes x s
  have hmagazine : (stationRec (opened x s) x).magazine = 0 ∨ inputHigh (opened x s) (.bagEye x) = false := by
    rw [ho.record, ho.aloof.inputHigh]
    exact h
  have hdraw := drawBag_unready hmagazine
  rw [ho.aloof.times, ho.record, ho.tyer, ho.counts] at hdraw
  show Becomes x _ _ _ s (if drawDue (opened x s) x then drawBag x 1 (opened x s) else opened x s)
  rw [drawDue_opened]
  cases openDraws s x with
  | true => exact ho.trans hdraw
  | false => exact ho

/-! ## The stages -/

section
variable {x : Station} {s : State} (hh : (stationRec s x).held = true) (hm : moving s = true)

theorem freed_becomes (x : Station) (s : State) :
    Becomes x { stationRec s x with held := false } (tyerOf s x) (bagCounts s x) s (freed x s) := setStation_becomes x _ s

theorem freed_record (x : Station) (s : State) : stationRec (freed x s) x = { stationRec s x with held := false } :=
  stationRec_setStation_self x _ s

theorem wasteBag_becomes (x : Station) (s : State) : Becomes x (stationRec s x) (tyerOf s x)
    { bagCounts s x with wasted := min ((bagCounts s x).wasted + 1) 4294967295 } s (wasteBag x s) :=
  countStation_becomes x (fun c => { c with wasted := raiseCount c.wasted 1 }) s

/-- A bag drawn, open or not, is wasted at a restart (R94). -/
abbrev wastes (r : StationRec) : Prop := r.state = .ready ∨ r.attempt ≠ none

/-- The state from which a held station in OPENING or READY opens again. -/
abbrev wastedBag (x : Station) (s : State) : State := if wastes (stationRec s x) then wasteBag x (freed x s) else freed x s

theorem wastedBag_becomes (x : Station) (s : State) : Becomes x { stationRec s x with held := false } (tyerOf s x)
    { bagCounts s x with wasted := if wastes (stationRec s x) then min ((bagCounts s x).wasted + 1) 4294967295 else (bagCounts s x).wasted }
    s (wastedBag x s) := by
  have hf := freed_becomes x s
  unfold wastedBag
  split
  · exact hf.trans ((wasteBag_becomes x (freed x s)).of_eq hf.record hf.tyer (by rw [hf.counts]))
  · exact hf

include hh hm

theorem stationRestarts_opens (hs : (stationRec s x).state = .opening ∨ (stationRec s x).state = .ready) :
    stationRestarts x s = enterOpening x (wastedBag x s) := by
  rw [stationRestarts_held hh hm]
  rcases hs with hs | hs
  · have hwastes : wastes (stationRec s x) ↔ (stationRec s x).attempt.isSome = true := by
      unfold wastes
      rw [hs, Option.isSome_iff_ne_none]
      exact or_iff_right nofun
    have hwasted : wastedBag x s = if (stationRec s x).attempt.isSome = true then wasteBag x (freed x s) else freed x s := by
      unfold wastedBag
      simp only [hwastes]
    rw [hwasted, hs]
  · have hwasted : wastedBag x s = wasteBag x (freed x s) := if_pos (Or.inl hs)
    rw [hwasted, hs]

/-- A held station in OPENING or READY draws its next bag, or is EMPTY (R80, R94). -/
theorem stationRestarts_draws (hs : (stationRec s x).state = .opening ∨ (stationRec s x).state = .ready)
    (hu : (stationRec s x).magazine = 0 ∨ inputHigh s (.bagEye x) = false) (he : Held s (.bagEye x)) (hb : Held s (.blower x)) :
    stationRec (stationRestarts x s) x =
      drewRec true false s.stations.times.openTimeout (openingRec false { stationRec s x with held := false }) ∧
    (bagCounts (stationRestarts x s) x).wasted =
      if wastes (stationRec s x) then min ((bagCounts s x).wasted + 1) 4294967295 else (bagCounts s x).wasted := by
  have hw := wastedBag_becomes x s
  have hline : decide ((wastedBag x s).sup.line = .halted) = false := by
    rw [hw.aloof.line]
    unfold moving at hm
    cases hl : s.sup.line <;> simp_all
  have hopens := enterOpening_unready (x := x) (s := wastedBag x s) (by rw [hw.record, hw.aloof.inputHigh]; exact hu)
  have hdraws : openDraws (wastedBag x s) x = true := by
    unfold openDraws
    rw [hline, hw.record, hw.aloof.isHeld, hw.aloof.isHeld, show isHeld s (.bagEye x) = true from he,
      show isHeld s (.blower x) = true from hb]
    rfl
  rw [hdraws, hline, hw.aloof.times, hw.record, hw.counts] at hopens
  rw [stationRestarts_opens hh hm hs, hopens.record, hopens.counts]
  refine ⟨rfl, ?_⟩
  unfold drewCounts
  split <;> rfl

theorem stationRestarts_fills (hs : (stationRec s x).state = .filling) : stationRec (stationRestarts x s) x = { stationRec s x with
    held := false
    scoopTimer := if (stationRec s x).travel ≠ none then (stationRec s x).scoopTimer else some s.stations.times.scoopTime } := by
  rw [stationRestarts_held hh hm, hs]
  dsimp only
  simp only [Option.isSome_iff_ne_none]
  by_cases ht : (stationRec s x).travel ≠ none
  · rw [if_pos ht, if_pos ht, stationRec_setStation_self]
  · rw [if_neg ht, if_neg ht, stationRec_setStation_self]

/-- The tying stage of a held station begins again with its strike (R94, R100). -/
theorem stationRestarts_strikes (hs : (stationRec s x).state = .tying) (hc : SpoolSuffices s x) :
    (stationRec (stationRestarts x s) x).state = .tying ∧ (stationRec (stationRestarts x s) x).held = false ∧
    (tyerOf (stationRestarts x s) x).stage = some ⟨(tyerOf s x).settings.strike, true, none⟩ ∧
    (tyerOf (stationRestarts x s) x).spool = (tyerOf s x).spool - clipLength (tyerOf s x).settings (tieClass s x) := by
  have hclass : tieClass (freed x s) x = tieClass s x := tieClass_setStation rfl rfl
  have hb := beginStrike_becomes x (clipLength (tyerOf s x).settings (tieClass s x))
    (setStation x (tyingBegun { stationRec s x with held := false }) (freed x s))
  have hstrikes := beginTying_strikes (spoolSuffices_freed hc)
  rw [hclass, freed_record] at hstrikes
  rw [stationRestarts_held hh hm, hs]
  dsimp only
  rw [hstrikes]
  rw [stationRec_setStation_self] at hb
  exact ⟨congrArg StationRec.state hb.record, congrArg StationRec.held hb.record, congrArg Tyer.stage hb.tyer, congrArg Tyer.spool hb.tyer⟩

theorem stationRestarts_waits (hs : (stationRec s x).state = .releasing) (he : inputHigh s (.bagEye x) = true) :
    stationRec (stationRestarts x s) x = { stationRec s x with held := false, releaseTimer := some s.stations.times.openTimeout } := by
  have hf := freed_becomes x s
  rw [stationRestarts_held hh hm, hs]
  dsimp only
  unfold awaitRelease
  dsimp only
  rw [hf.record, hf.aloof.inputHigh, he, if_pos rfl, if_pos (by simp [hs]), stationRec_setStation_self]
  rfl

theorem stationRestarts_releases (hs : (stationRec s x).state = .releasing) (he : inputHigh s (.bagEye x) = false) :
    stationRestarts x s = releaseLoaf x (freed x s) := by
  have hf := freed_becomes x s
  rw [stationRestarts_held hh hm, hs]
  dsimp only
  unfold awaitRelease
  dsimp only
  rw [hf.record, hf.aloof.inputHigh, he, if_pos (by simp [hs]), if_neg Bool.false_ne_true]

end

/-- A station that opens its next bag under a clear bag eye, or goes out of service, has no loaf and is not READY. -/
theorem afterRelease_unready {x : Station} {s : State} (he : inputHigh s (.bagEye x) = false) :
    (stationRec (afterRelease x s) x).tag = none ∧ (stationRec (afterRelease x s) x).state ≠ .ready ∧
      (afterRelease x s).track = s.track := by
  unfold afterRelease
  split
  · have ho := enterOpening_unready (x := x) (s := s) (.inr he)
    rw [ho.record, ho.aloof.track]
    exact ⟨drewRec_tag rfl, drewRec_unready rfl, rfl⟩
  · have ho := stationOut_becomes x s
    rw [ho.record, ho.aloof.track]
    exact ⟨rfl, nofun, rfl⟩

/-- The loaf of a station that releases is in OUTFEED (R14, R89). -/
theorem loafToOutfeed_mem {x : Station} {s : State} {l : Loaf} (h : stationLoaf s x = some l) (hz : l.zone = .station x) :
    ∃ q ∈ (loafToOutfeed x s).track.loaves, q.tag = l.tag ∧ q.zone = .outfeed := by
  obtain ⟨tag, htag, hfind⟩ : ∃ tag, (stationRec s x).tag = some tag ∧ findLoaf s tag = some l := Option.bind_eq_some_iff.mp h
  unfold loafToOutfeed
  dsimp only
  rw [htag]
  exact ⟨{ l with zone := .outfeed, check := some (armedCheck s .exit) },
    modifyFirst_mem _ (fun l : Loaf => { l with zone := .outfeed, check := some (armedCheck s .exit) }) _ _ (find_in_zone hfind hz), rfl, rfl⟩

/-- The release at a restart with the bag eye clear (R89, R94). -/
theorem stationRestarts_released {x : Station} {s : State} {l : Loaf} (hh : (stationRec s x).held = true) (hm : moving s = true)
    (hs : (stationRec s x).state = .releasing) (he : inputHigh s (.bagEye x) = false) (hl : stationLoaf s x = some l)
    (hz : l.zone = .station x) :
    (stationRec (stationRestarts x s) x).tag = none ∧ (stationRec (stationRestarts x s) x).state ≠ .ready ∧
      ∃ q ∈ (stationRestarts x s).track.loaves, q.tag = l.tag ∧ q.zone = .outfeed := by
  have hloaf : stationLoaf (freed x s) x = some l := by
    rw [← hl]
    unfold stationLoaf
    rw [freed_record]
    rfl
  have hmem := loafToOutfeed_mem hloaf hz
  have hpoints : (loafToOutfeed x (freed x s)).points = s.points := by
    unfold loafToOutfeed
    dsimp only
    cases (stationRec (freed x s) x).tag <;> rfl
  have heye := (inputs_of_points (s := s) (t := loafToOutfeed x (freed x s)) (fun p => by rw [hpoints]; exact ⟨rfl, rfl⟩) (.bagEye x)).2
  obtain ⟨hnone, hready, htrack⟩ := afterRelease_unready (heye.trans he)
  rw [stationRestarts_releases hh hm hs he]
  refine ⟨hnone, hready, ?_⟩
  show ∃ q ∈ (afterRelease x (loafToOutfeed x (freed x s))).track.loaves, _
  rw [htrack]
  exact hmem

/-! ## The rest of the event -/

/-- What the end of the event leaves: the line, the tyers and the counts, a station that is not READY, and the records in OUTFEED. -/
structure Closed (s t : State) : Prop where
  line : t.sup.line = s.sup.line
  recs : ∀ x, (stationRec s x).state ≠ .ready → stationRec t x = stationRec s x
  tyers : t.tyers = s.tyers
  shift : t.shift = s.shift
  outfeed : ∀ q ∈ s.track.loaves, q.zone = .outfeed → q ∈ t.track.loaves

theorem Closed.trans {s t u : State} (h : Closed s t) (k : Closed t u) : Closed s u where
  line := k.line.trans h.line
  recs x hx := (k.recs x (by rw [h.recs x hx]; exact hx)).trans (h.recs x hx)
  tyers := k.tyers.trans h.tyers
  shift := k.shift.trans h.shift
  outfeed q hq hz := k.outfeed q (h.outfeed q hq hz) hz

theorem Closed.of_same {s t : State} (hl : t.sup.line = s.sup.line) (hs : t.stations = s.stations) (ht : t.tyers = s.tyers)
    (hf : t.shift = s.shift) (hq : ∀ q ∈ s.track.loaves, q.zone = .outfeed → q ∈ t.track.loaves) : Closed s t :=
  ⟨hl, fun x _ => congrArg (fun p : Stations => p.recs.get x) hs, ht, hf, hq⟩

theorem trySweep_closed (s : State) : Closed s (trySweep s) := by
  obtain ⟨w, hw⟩ := trySweep_sweep s
  rw [hw]
  exact Closed.of_same rfl rfl rfl rfl fun _ hq _ => hq

theorem evaluate_closed (w : WarnKind) (s : State) : Closed s (evaluate w s) :=
  have h := evaluate_noticed w s
  Closed.of_same h.line h.stations h.tyers h.shift fun q hq _ => by rw [h.track]; exact hq

theorem gateDecision_closed (s : State) : Closed s (gateDecision s) := by
  have hg := gateDecision_gated s
  refine ⟨by rw [hg], fun x hx => ?_, by rw [hg], by rw [hg], fun q hq hz => ?_⟩
  · exact (gateDecision_turns s x).resolve_right fun h => hx h.1
  · have hne : q.zone ≠ .transfer := by rw [hz]; nofun
    rcases gateDecision_cases s with h | ⟨tag, h⟩ | ⟨x, tag, _, h⟩
    · rw [h]
      exact hq
    · rw [h]
      exact mem_moveLoaf_other hq hne
    · rw [h]
      exact mem_moveLoaf_other (tag := tag) hq hne

theorem endStroke_closed (s : State) : Closed s (endStroke s) := by
  rcases endStroke_cases s with h | ⟨_, tag, k, stall, h⟩
  · rw [h]
    exact Closed.of_same rfl rfl rfl rfl fun _ hq _ => hq
  · rw [h]
    refine Closed.trans ?_ (gateDecision_closed _)
    exact Closed.of_same rfl rfl rfl rfl fun q hq hz => mem_moveLoaf_other (tag := tag) hq (by rw [hz]; nofun)

theorem reviewHold_closed {s : State} (hb : BeltRuns s) : Closed s (reviewHold s) := by
  rw [reviewHold_eq s hb]
  exact Closed.of_same rfl rfl rfl rfl fun _ hq _ => hq

theorem enterPassing_closed (r : Loaf) (s : State) : Closed s (enterPassing r s) := by
  obtain ⟨_, _, _, _, _, _, h⟩ := knifeTo_off (s.setHead { s.head with
    state := .passing, nextCut := none, target := ejectTargetOf s r, pausedFrom := none })
  unfold enterPassing
  rw [h]
  exact Closed.of_same rfl rfl rfl rfl fun _ hq _ => hq

/-- The state in which the record has moved to SLICER and the head has taken its tag (R63). -/
abbrev taking (r : Loaf) (s : State) : State :=
  let t := moveLoaf .infeed r.tag (fun l => { l with
      zone := .slicer, mark := r.mark, cutsDone := if r.mark.isSome then l.cutsDone else some 0 }) s
  let u := t.setHead { t.head with pusher := 0, tag := some r.tag, target := 0 }
  u.setCrumb { u.crumb with lastAdmitted := lastAfter u.crumb.lastAdmitted r }

theorem taking_closed (r : Loaf) (s : State) : Closed s (taking r s) :=
  Closed.of_same rfl rfl rfl rfl fun _ hq hz => mem_moveLoaf_other (tag := r.tag) hq (by rw [hz]; nofun)

theorem takeLoaf_closed (r : Loaf) {s : State} (hb : BeltRuns s) : Closed s (takeLoaf r s) := by
  have htaking := taking_closed r s
  show Closed s (reviewHold (if r.mark.isSome then enterPassing r (taking r s)
    else (taking r s).setHead { (taking r s).head with state := .entering, nextCut := some 1, pausedFrom := none }))
  split
  · have hpassing := htaking.trans (enterPassing_closed r (taking r s))
    refine hpassing.trans (reviewHold_closed (beltRuns_of_sup ?_ hb))
    exact (enterPassing_leaves r (taking r s)).1
  · refine htaking.trans (Closed.trans ?_ (reviewHold_closed ?_))
    · exact Closed.of_same rfl rfl rfl rfl fun _ hq _ => hq
    · exact hb

theorem testAdmission_closed {s : State} (hb : BeltRuns s) : Closed s (testAdmission s) := by
  unfold testAdmission
  split
  swap
  · exact Closed.of_same rfl rfl rfl rfl fun _ hq _ => hq
  split
  · exact Closed.of_same rfl rfl rfl rfl fun _ hq _ => hq
  split
  · exact Closed.of_same rfl rfl rfl rfl fun _ hq _ => hq
  split
  · exact takeLoaf_closed _ hb
  · exact takeLoaf_closed _ hb
  split
  · obtain ⟨c, hc⟩ := askSweep_crumb .changeover s
    rw [hc]
    exact Closed.of_same rfl rfl rfl rfl fun _ hq _ => hq
  · exact Closed.of_same rfl rfl rfl rfl fun _ hq _ => hq

/-! ## The line that starts -/

/-- The line RUNNING, its head resumed and its hold reviewed (R8, R74, R139). -/
abbrev resumedLine (s : State) : State := reviewHold (headResumes (setLine .running s))

/-- The head of the resumed line (R74). -/
abbrev lineHead (s : State) : Head :=
  if (resumedHead s).state = .passing then resumedHead s
  else { resumedHead s with knife := true, stallTimer := if (resumedHead s).knife then (resumedHead s).stallTimer else some 1000000 }

theorem resumedLine_eq {s : State} (hb : BeltRuns s) : ∃ hold watch, resumedLine s = { s with
    head := lineHead s
    track := { s.track with infeedHold := hold }
    sup := { s.sup with line := .running, beltWatch := watch }
    link := (setLine .running s).link } := by
  obtain ⟨link, hline⟩ := setLine_linked .running s
  have hlink : (setLine .running s).link = link := by rw [hline]
  let w : State := { s with head := lineHead s, sup := { s.sup with line := .running }, link := link }
  have hresumes : headResumes (setLine .running s) = w := by
    rw [headResumes_eq, resumedHead_running, hline]
    rfl
  rw [hlink, resumedLine, hresumes]
  exact ⟨_, _, reviewHold_eq w hb⟩

theorem resumedLine_hears {s : State} (hb : BeltRuns s) : Hears (.line .running) 1 s (resumedLine s) := by
  obtain ⟨hold, watch, h⟩ := resumedLine_eq hb
  exact (setLine_hears .running s).trans (Tells.of_link (by rw [h]) 0)

/-- The state in which both stations have restarted. -/
abbrev bothRestarted (s : State) : State := stationRestarts .b (stationRestarts .a (resumedLine s))

theorem enterRunning_eq (s : State) : enterRunning s = evaluate .noStation (endStroke (testAdmission (trySweep (bothRestarted s)))) := rfl

section
variable {s : State} (hb : BeltRuns s)
  (hspool : ∀ x, (stationRec s x).held = true → (stationRec s x).state = .tying → SpoolSuffices s x)

/-- What both restarts leave of the resumed line. -/
structure Started (s u : State) : Prop where
  line : u.sup.line = .running
  belt : BeltRuns u
  head : HeadWaits (resumedLine s) → u.head = lineHead s
  tells : Hears (.line .running) 5 s u

include hb hspool

theorem resumedLine_spool (x : Station) : (stationRec (resumedLine s) x).held = true → (stationRec (resumedLine s) x).state = .tying →
    SpoolSuffices (resumedLine s) x := by
  obtain ⟨hold, watch, h⟩ := resumedLine_eq hb
  rw [h]
  exact hspool x

theorem bothRestarted_started : Started s (bothRestarted s) := by
  have ha := stationRestarts_restarted (resumedLine_spool hb hspool .a)
  have hbb := stationRestarts_restarted (ha.spool (by nofun) (resumedLine_spool hb hspool .b))
  obtain ⟨hold, watch, h⟩ := resumedLine_eq hb
  have hbelt : BeltRuns (resumedLine s) := by
    rw [h]
    exact hb
  have hhead : (resumedLine s).head = lineHead s := by rw [h]
  refine ⟨?_, hbb.beltRuns (ha.beltRuns hbelt), fun hw => ?_, (resumedLine_hears hb).trans (ha.tells.trans hbb.tells)⟩
  · rw [hbb.line, ha.line, h]
  · have hfirst := ha.head hw
    have hsecond := hbb.head (by unfold HeadWaits; rw [hfirst]; exact hw)
    rw [hsecond, hfirst, hhead]

theorem enterRunning_closed : Closed (bothRestarted s) (enterRunning s) := by
  have hu := bothRestarted_started hb hspool
  have hbelt : BeltRuns (trySweep (bothRestarted s)) := by
    obtain ⟨w, hw⟩ := trySweep_sweep (bothRestarted s)
    rw [hw]
    exact hu.belt
  rw [enterRunning_eq]
  exact (trySweep_closed _).trans ((testAdmission_closed hbelt).trans ((endStroke_closed _).trans (evaluate_closed _ _)))

theorem enterRunning_runs : (enterRunning s).sup.line = .running :=
  (enterRunning_closed hb hspool).line.trans (bothRestarted_started hb hspool).line

theorem enterRunning_hears : Hears (.line .running) 9 s (enterRunning s) := by
  have htail : Tells 4 (bothRestarted s) (enterRunning s) :=
    (trySweep_reacts (bothRestarted s)).tells.trans ((testAdmission_follows _).tells.trans
      ((endStroke_restarted .a _).tells.trans (evaluate_tells .noStation _)))
  exact (bothRestarted_started hb hspool).tells.trans htail

/-- A head that holds a loaf, and ends no stroke, stands as it has resumed (R74). -/
theorem enterRunning_head (hw : HeadWaits (resumedLine s)) (he : (lineHead s).state ≠ .empty) : (enterRunning s).head = lineHead s := by
  have hu := (bothRestarted_started hb hspool).head hw
  obtain ⟨w, hsweep⟩ := trySweep_sweep (bothRestarted s)
  have hhead : (trySweep (bothRestarted s)).head = lineHead s := by
    rw [hsweep]
    exact hu
  have hadmits : testAdmission (trySweep (bothRestarted s)) = trySweep (bothRestarted s) := by
    refine if_neg fun ho => ?_
    unfold admissionOpen at ho
    rw [hhead] at ho
    simp [he] at ho
  have hwaits : HeadWaits (trySweep (bothRestarted s)) := by
    obtain ⟨hold, watch, h⟩ := resumedLine_eq hb
    unfold HeadWaits at hw ⊢
    rw [hhead]
    rwa [h] at hw
  rw [enterRunning_eq, hadmits, endStroke_still hwaits, (evaluate_noticed _ _).head, hhead]

end

end Sys2Proof.SlicingHead
end

-- ==== The slicing head, proofs: START ====
section
/-! START past its checks (O46: R74, R94, R139, R140). -/

namespace Sys2Proof.SlicingHead

open Sys2Proof.Machine Sys2Proof.Safety Sys2Proof.Laws Sys2Proof.LoafTrack Sys2Proof.SwitchInputs

/-! ## The head of the line that starts -/

theorem lineHead_passing {s : State} (h : (resumedHead s).state = .passing) : lineHead s = resumedHead s := if_pos h

theorem lineHead_engaged {s : State} (h : (resumedHead s).state ≠ .passing) : lineHead s = { resumedHead s with
    knife := true, stallTimer := if (resumedHead s).knife then (resumedHead s).stallTimer else some 1000000 } := if_neg h

section
variable {s : State} (hb : BeltRuns s)
  (hspool : ∀ x, (stationRec s x).held = true → (stationRec s x).state = .tying → SpoolSuffices s x)
include hb hspool

/-- The head at the end of START, where it holds a loaf that goes on with no stroke ending (R74). -/
theorem started_head (hw : ((lineHead s).state ≠ .ejecting ∧ (lineHead s).state ≠ .passing) ∨
    2 < ((lineHead s).pusher - (lineHead s).target).natAbs) (he : (lineHead s).state ≠ .empty) : (enterRunning s).head = lineHead s := by
  refine enterRunning_head hb hspool ?_ he
  obtain ⟨hold, watch, h⟩ := resumedLine_eq hb
  unfold HeadWaits
  rw [h]
  exact hw

theorem started_entering (h : s.head.state = .paused) (hp : s.head.pausedFrom = some .entering ∨ s.head.pausedFrom = some .advancing ∨
    s.head.pausedFrom = some .cutting) : let v := (enterRunning s).head
    v.state = .entering ∧ v.tag = s.head.tag ∧ v.nextCut = s.head.nextCut ∧ v.target = s.head.target ∧ v.pusher = s.head.pusher ∧
      v.knife = true := by
  have hr := resumedHead_entering h hp
  have hv := lineHead_engaged (s := s) (by rw [hr]; nofun)
  rw [hr] at hv
  have hhead := started_head hb hspool (.inl (by rw [hv]; exact ⟨nofun, nofun⟩)) (by rw [hv]; nofun)
  dsimp only
  rw [hhead, hv]
  exact ⟨rfl, rfl, rfl, rfl, rfl, rfl⟩

theorem started_ejecting (h : s.head.state = .paused) (hp : s.head.pausedFrom = some .ejecting)
    (hpos : 2 < (s.head.pusher - s.head.target).natAbs) : let v := (enterRunning s).head
    v.state = .ejecting ∧ v.tag = s.head.tag ∧ v.nextCut = s.head.nextCut ∧ v.target = s.head.target ∧ v.pusher = s.head.pusher ∧
      v.knife = true := by
  have hr := resumedHead_ejecting h hp
  have hv := lineHead_engaged (s := s) (by rw [hr]; nofun)
  rw [hr] at hv
  have hhead := started_head hb hspool (.inr (by rw [hv]; exact hpos)) (by rw [hv]; nofun)
  dsimp only
  rw [hhead, hv]
  exact ⟨rfl, rfl, rfl, rfl, rfl, rfl⟩

theorem started_passing (h : s.head.state = .paused) (hp : s.head.pausedFrom = some .passing)
    (hpos : 2 < (s.head.pusher - s.head.target).natAbs) : let v := (enterRunning s).head
    v.state = .passing ∧ v.tag = s.head.tag ∧ v.nextCut = none ∧ v.target = s.head.target ∧ v.pusher = s.head.pusher ∧
      v.knife = s.head.knife := by
  have hr := resumedHead_passing h hp
  have hv := lineHead_passing (s := s) (by rw [hr])
  rw [hr] at hv
  have hhead := started_head hb hspool (.inr (by rw [hv]; exact hpos)) (by rw [hv]; nofun)
  dsimp only
  rw [hhead, hv]
  exact ⟨rfl, rfl, rfl, rfl, rfl, rfl⟩

/-- An INTERRUPTED loaf leaves cut through EJECTING, uncut through PASSING (R74). -/
theorem started_interrupted {r : Loaf} (h : s.head.state = .interrupted) (hl : headLoaf s = some r)
    (hpos : 2 < (s.head.pusher - ejectTargetOf s r).natAbs) : let v := (enterRunning s).head
    v.tag = s.head.tag ∧ v.target = ejectTargetOf s r ∧
      (1 ≤ r.cutsDone.getD 0 → v.state = .ejecting ∧ v.knife = true) ∧
      (r.cutsDone.getD 0 = 0 → v.state = .passing ∧ v.nextCut = none ∧ v.knife = s.head.knife) := by
  have hr := resumedHead_interrupted h hl
  by_cases hc : 1 ≤ r.cutsDone.getD 0
  · rw [if_pos hc] at hr
    have hv := lineHead_engaged (s := s) (by rw [hr]; nofun)
    rw [hr] at hv
    have hhead := started_head hb hspool (.inr (by rw [hv]; exact hpos)) (by rw [hv]; nofun)
    dsimp only
    rw [hhead, hv]
    exact ⟨rfl, rfl, fun _ => ⟨rfl, rfl⟩, fun h0 => absurd hc (by omega)⟩
  · rw [if_neg hc] at hr
    have hv := lineHead_passing (s := s) (by rw [hr])
    rw [hr] at hv
    have hhead := started_head hb hspool (.inr (by rw [hv]; exact hpos)) (by rw [hv]; nofun)
    dsimp only
    rw [hhead, hv]
    exact ⟨rfl, rfl, fun h1 => absurd h1 hc, fun _ => ⟨rfl, rfl, rfl⟩⟩

/-- Over an EMPTY context the blade is engaged, unless START itself admits a marked loaf (R59, R74). -/
theorem started_empty (h : s.head.state = .empty) : (enterRunning s).head.knife = true ∨ (enterRunning s).head.state = .passing := by
  have hr := resumedHead_empty h
  have hv := lineHead_engaged (s := s) (by rw [hr, h]; nofun)
  rw [hr] at hv
  obtain ⟨hold, watch, hline⟩ := resumedLine_eq hb
  have hbefore : knifeLaw (resumedLine s) := by
    rw [hline, hv]
    unfold knifeLaw moving
    simp [h]
  have hsteady : Steady (resumedLine s) (enterRunning s) :=
    (stationRestarts_steady .a _).trans <| (stationRestarts_steady .b _).trans <| (slicerFree_steady _).trans <|
      (endStroke_steady _).trans (evaluate_steady _ _)
  have hafter := hsteady.obeys.knife hbefore
  unfold knifeLaw moving at hafter
  rw [enterRunning_runs hb hspool] at hafter
  by_cases hp : (enterRunning s).head.state = .passing
  · exact .inr hp
  · refine .inl (hafter.trans ?_)
    simp [hp]

end

/-! ## A held station alone -/

theorem Unturned.held {r r' : StationRec} (h : Unturned r r') : r'.held = r.held := by
  rcases h with rfl | ⟨_, _, h⟩
  · rfl
  · exact h

section
variable {s : State} (hb : BeltRuns s)
  (hspool : ∀ x, (stationRec s x).held = true → (stationRec s x).state = .tying → SpoolSuffices s x)
  {x : Station} (hx : (stationRec s x).held = true) (ho : ∀ y, y ≠ x → (stationRec s y).held = false)

include hb in
/-- What holds of every state with the line RUNNING and the hold reviewed holds of the resumed line. -/
theorem resumedLine_as {P : State → Prop} (h : ∀ hold watch link, P { s with
    head := lineHead s
    track := { s.track with infeedHold := hold }
    sup := { s.sup with line := .running, beltWatch := watch }
    link := link }) : P (resumedLine s) := by
  obtain ⟨hold, watch, he⟩ := resumedLine_eq hb
  rw [he]
  exact h hold watch _

include hb in
theorem resumedLine_stations (y : Station) : stationRec (resumedLine s) y = stationRec s y := by
  obtain ⟨hold, watch, h⟩ := resumedLine_eq hb
  rw [h]
  rfl

include hb hspool ho in
/-- With one station held, that one alone restarts. -/
theorem bothRestarted_alone : bothRestarted s = stationRestarts x (resumedLine s) := by
  cases x with
  | a =>
    have ha := stationRestarts_restarted (resumedLine_spool hb hspool .a)
    refine stationRestarts_free ?_
    rw [(ha.recs .b nofun).held, resumedLine_stations hb]
    exact ho .b nofun
  | b =>
    have hfree : stationRestarts .a (resumedLine s) = resumedLine s := stationRestarts_free (by
      rw [resumedLine_stations hb]
      exact ho .a nofun)
    exact congrArg (stationRestarts .b) hfree

include hb hspool ho

/-- The record, the tyer and the counts of a station that is not READY after its restart stand to the end of the event. -/
theorem started_station (hn : (stationRec (stationRestarts x (resumedLine s)) x).state ≠ .ready) :
    stationRec (enterRunning s) x = stationRec (stationRestarts x (resumedLine s)) x ∧
    tyerOf (enterRunning s) x = tyerOf (stationRestarts x (resumedLine s)) x ∧
    bagCounts (enterRunning s) x = bagCounts (stationRestarts x (resumedLine s)) x := by
  have hclosed := enterRunning_closed hb hspool
  rw [bothRestarted_alone hb hspool ho] at hclosed
  refine ⟨hclosed.recs x hn, ?_, ?_⟩
  · exact congrArg (fun p : PerStation Tyer => p.get x) hclosed.tyers
  · exact congrArg (fun p : Shift => p.openRecord.stations.get x) hclosed.shift

include hx

/-- A held station in OPENING or READY after START (R80, R94). -/
theorem started_draws (hs : (stationRec s x).state = .opening ∨ (stationRec s x).state = .ready)
    (hu : (stationRec s x).magazine = 0 ∨ inputHigh s (.bagEye x) = false) (he : Held s (.bagEye x)) (hbl : Held s (.blower x)) :
    stationRec (enterRunning s) x =
      drewRec true false s.stations.times.openTimeout (openingRec false { stationRec s x with held := false }) ∧
    (bagCounts (enterRunning s) x).wasted =
      if wastes (stationRec s x) then min ((bagCounts s x).wasted + 1) 4294967295 else (bagCounts s x).wasted := by
  obtain ⟨hrec, hwasted⟩ := resumedLine_as hb (P := fun u => stationRec (stationRestarts x u) x =
      drewRec true false s.stations.times.openTimeout (openingRec false { stationRec s x with held := false }) ∧
    (bagCounts (stationRestarts x u) x).wasted =
      if wastes (stationRec s x) then min ((bagCounts s x).wasted + 1) 4294967295 else (bagCounts s x).wasted)
    fun _ _ _ => stationRestarts_draws hx rfl hs hu he hbl
  obtain ⟨h1, _, h3⟩ := started_station hb hspool ho (by rw [hrec]; exact drewRec_unready rfl)
  rw [h1, h3]
  exact ⟨hrec, hwasted⟩

theorem started_empties (hs : (stationRec s x).state = .opening ∨ (stationRec s x).state = .ready)
    (hz : (stationRec s x).magazine = 0) (he : Held s (.bagEye x)) (hbl : Held s (.blower x)) :
    (stationRec (enterRunning s) x).state = .empty ∧ (stationRec (enterRunning s) x).held = false := by
  have hdrew : drewRec true false s.stations.times.openTimeout (openingRec false { stationRec s x with held := false }) = _ :=
    drewRec_none hz
  rw [(started_draws hb hspool hx ho hs (.inl hz) he hbl).1, hdrew]
  exact ⟨rfl, rfl⟩

theorem started_fills (hs : (stationRec s x).state = .filling) : stationRec (enterRunning s) x = { stationRec s x with
    held := false
    scoopTimer := if (stationRec s x).travel ≠ none then (stationRec s x).scoopTimer else some s.stations.times.scoopTime } := by
  have hrec := resumedLine_as hb (P := fun u => stationRec (stationRestarts x u) x = { stationRec s x with
    held := false
    scoopTimer := if (stationRec s x).travel ≠ none then (stationRec s x).scoopTimer else some s.stations.times.scoopTime })
    fun _ _ _ => stationRestarts_fills hx rfl hs
  obtain ⟨h1, _⟩ := started_station hb hspool ho (by rw [hrec]; exact fun e => StationState.noConfusion (hs.symm.trans e))
  exact h1.trans hrec

theorem started_strikes (hs : (stationRec s x).state = .tying) :
    (stationRec (enterRunning s) x).state = .tying ∧ (stationRec (enterRunning s) x).held = false ∧
    (tyerOf (enterRunning s) x).stage = some ⟨(tyerOf s x).settings.strike, true, none⟩ ∧
    (tyerOf (enterRunning s) x).spool = (tyerOf s x).spool - clipLength (tyerOf s x).settings (tieClass s x) := by
  have hstruck := resumedLine_as hb (P := fun u =>
    (stationRec (stationRestarts x u) x).state = .tying ∧ (stationRec (stationRestarts x u) x).held = false ∧
    (tyerOf (stationRestarts x u) x).stage = some ⟨(tyerOf s x).settings.strike, true, none⟩ ∧
    (tyerOf (stationRestarts x u) x).spool = (tyerOf s x).spool - clipLength (tyerOf s x).settings (tieClass s x))
    fun _ _ _ => stationRestarts_strikes hx rfl hs (hspool x hx hs)
  obtain ⟨h1, h2, _⟩ := started_station hb hspool ho (by rw [hstruck.1]; nofun)
  rw [h1, h2]
  exact hstruck

theorem started_waits (hs : (stationRec s x).state = .releasing) (he : inputHigh s (.bagEye x) = true) :
    stationRec (enterRunning s) x = { stationRec s x with held := false, releaseTimer := some s.stations.times.openTimeout } := by
  have hrec := resumedLine_as hb (P := fun u => stationRec (stationRestarts x u) x =
    { stationRec s x with held := false, releaseTimer := some s.stations.times.openTimeout })
    fun _ _ _ => stationRestarts_waits hx rfl hs he
  obtain ⟨h1, _⟩ := started_station hb hspool ho (by rw [hrec]; exact fun e => StationState.noConfusion (hs.symm.trans e))
  exact h1.trans hrec

theorem started_releases (hs : (stationRec s x).state = .releasing) (he : inputHigh s (.bagEye x) = false) {l : Loaf}
    (hl : stationLoaf s x = some l) (hz : l.zone = .station x) :
    (stationRec (enterRunning s) x).tag = none ∧ ∃ q ∈ (enterRunning s).track.loaves, q.tag = l.tag ∧ q.zone = .outfeed := by
  obtain ⟨htag, hready, q, hq, hqtag, hqzone⟩ := resumedLine_as hb (P := fun u =>
    (stationRec (stationRestarts x u) x).tag = none ∧ (stationRec (stationRestarts x u) x).state ≠ .ready ∧
      ∃ q ∈ (stationRestarts x u).track.loaves, q.tag = l.tag ∧ q.zone = .outfeed)
    fun _ _ _ => stationRestarts_released hx rfl hs he hl hz
  have hclosed := enterRunning_closed hb hspool
  rw [bothRestarted_alone hb hspool ho] at hclosed
  rw [hclosed.recs x hready]
  exact ⟨htag, q, hclosed.outfeed q hq hqzone, hqtag, hqzone⟩

end

/-- Settles O46: START's checks, and the run that it begins. -/
theorem startRunsLine : Obligations.StartRunsLine := by
  intro s hf functions clear recipe clock station answer
  refine ⟨start_notStopped hf, start_notConfigured hf, fun hl hfn => start_blocked hf hl hfn, fun hl hfn hc hr => ?_,
    fun hl hfn hc hr hk => ?_, fun hl hfn hc hr hk hst => ?_, fun hl hfn hc hr hk hst => ?run⟩
  · refine taken hf ((svcStart_unblocked hl hfn hc).trans (require_fail (eq_false_of_ne_true (mt (recipeUsable_iff s).mp hr))))
  · exact taken hf ((svcStart_unblocked hl hfn hc).trans ((require_pass ((recipeUsable_iff s).mpr hr)).trans
      (require_fail (eq_false_of_ne_true (mt (clock_iff s).mp hk)))))
  · have hnone : (inService s .a || inService s .b) = false := by
      rw [← Bool.not_eq_true, Bool.or_eq_true]
      exact hst
    exact taken hf ((svcStart_unblocked hl hfn hc).trans ((require_pass ((recipeUsable_iff s).mpr hr)).trans
      ((require_pass ((clock_iff s).mpr hk)).trans (require_fail hnone))))
  case run =>
    have hsome : (inService s .a || inService s .b) = true := (Bool.or_eq_true _ _).mpr hst
    refine ⟨enterRunning s, taken hf ((svcStart_unblocked hl hfn hc).trans ((require_pass ((recipeUsable_iff s).mpr hr)).trans
      ((require_pass ((clock_iff s).mpr hk)).trans (require_pass hsome)))), (enterRunning_steady s hl).aside, fun hb hspool => ?_⟩
    refine ⟨enterRunning_runs hb hspool, Hears.queued (enterRunning_hears hb hspool) (by omega), started_entering hb hspool,
      fun hp hpos => ⟨fun hfrom => started_ejecting hb hspool hp hfrom hpos, fun hfrom => started_passing hb hspool hp hfrom hpos⟩,
      fun hi r hr hpos => started_interrupted hb hspool hi hr hpos, started_empty hb hspool, fun x hx ho => ?_⟩
    refine ⟨started_empties hb hspool hx ho, fun hs hz he hbl hlow => ?_, started_fills hb hspool hx ho, started_strikes hb hspool hx ho,
      started_waits hb hspool hx ho, fun hs he l hl hz => started_releases hb hspool hx ho hs he hl hz⟩
    obtain ⟨hrec, hwasted⟩ := started_draws hb hspool hx ho hs (.inr hlow) he hbl
    have hdrew : drewRec true false s.stations.times.openTimeout (openingRec false { stationRec s x with held := false }) = _ :=
      drewRec_bag hz
    exact ⟨hrec.trans hdrew, hwasted⟩

end Sys2Proof.SlicingHead
end

-- ==== Supervision, proofs: the fault table, the masks and the report kinds ====
section
/-! The rows of the fault table, SET ACTION, SET MASK, SET REPORTS and the two alert lines (O49). -/

namespace Sys2Proof.SupervisionSettings

open Sys2Proof.Machine Sys2Proof.Safety Sys2Proof.Laws Sys2Proof.LoafTrack

/-! ## The fault table -/

/-- A row of the tables of R146 and R93: the fault, its default action on the BL-340 and on the BL-320, the actions allowed. -/
abbrev FaultRow : Type := FaultKind × Action × Action × List Action

/-- The model gives the fault of a row the actions that the row states. -/
abbrev RowHolds (row : FaultRow) : Prop :=
  defaultAction .bl340 row.1 = row.2.1 ∧ defaultAction .bl320 row.1 = row.2.2.1 ∧ allowedActions row.1 = row.2.2.2

/-- The rows of R146's table, and those of the stations (R93). -/
def faultRows : List FaultRow :=
  [(.guardOpen, .halt, .halt, [.halt]), (.bladeStall, .halt, .halt, [.halt]), (.beltStall, .hold, .hold, [.hold, .halt]),
    (.jamInfeed, .halt, .halt, [.halt, .hold]), (.jamOutfeed, .hold, .hold, [.hold, .halt]), (.trackOverrun, .halt, .halt, [.halt]),
    (.rejectMissed, .halt, .halt, [.halt, .hold]), (.pusherFault, .halt, .halt, [.halt]), (.pusherOverload, .halt, .halt, [.halt]),
    (.bladeOverload, .halt, .halt, [.halt, .hold]), (.bladeHot, .hold, .hold, [.hold, .halt]),
    (.station .a, .nothing, .hold, [.nothing, .hold, .halt]), (.station .b, .nothing, .hold, [.nothing, .hold, .halt]),
    (.clipsOut .a, .nothing, .hold, [.nothing, .hold, .halt]), (.clipsOut .b, .nothing, .hold, [.nothing, .hold, .halt]),
    (.vacuumFail, .hold, .hold, [.hold, .halt]), (.trayFull, .hold, .hold, [.hold, .halt]), (.supplyLow, .halt, .halt, [.halt]),
    (.boardHot, .halt, .halt, [.halt])]

theorem faultRows_hold : ∀ row ∈ faultRows, RowHolds row := by decide

/-- The faults of station B are those that the BL-320 does not have (R143). -/
theorem faultExists_iff (m : Member) (k : FaultKind) :
    faultExists m k = true ↔ (k ≠ .station .b ∧ k ≠ .clipsOut .b) ∨ m = .bl340 := by
  cases k with
  | station x => cases m <;> cases x <;> decide
  | clipsOut x => cases m <;> cases x <;> decide
  | _ => exact ⟨fun _ => .inl ⟨nofun, nofun⟩, fun _ => rfl⟩

theorem powerOn_action (o : Straps) (s : State) (k : FaultKind) :
    (powerOnReset o s).member = s.member ∧ (faultEntry (powerOnReset o s) k).action = defaultAction s.member k := by
  obtain ⟨hn, -⟩ := present_quiet (mask := fun _ => false) (poweredOn_warn o s) (fun q => by rw [poweredOn_point]; rfl)
    (fun k => by rw [poweredOn_fault]; nofun)
  refine ⟨hn.member, ?_⟩
  rw [show faultEntry (powerOnReset o s) k = faultEntry (poweredOn o s) k from (Noticed.calm hn).entry k, poweredOn_fault]

/-- Past the name of the fault, the action is checked before the tier (R147). -/
theorem svcSetAction_known {k : FaultKind} (a : Action) {s : State} (hk : faultExists s.member k = true) :
    svcSetAction (some ⟨some k, some a⟩) s = require (fun _ => (allowedActions k).contains a) .range
      (needTier .engineer fun s => (setFault k { faultEntry s k with action := a } s,
        accepted "SET ACTION" [codes (faultText k), codes (actionText a)])) s :=
  require_pass (ok := fun s => faultExists s.member k) hk

theorem svcSetAction_taken {k : FaultKind} {a : Action} {s : State} (hk : faultExists s.member k = true)
    (ha : a ∈ allowedActions k) (ht : tierOk s .engineer = true) : svcSetAction (some ⟨some k, some a⟩) s =
      (setFault k { faultEntry s k with action := a } s, accepted "SET ACTION" [codes (faultText k), codes (actionText a)]) :=
  (svcSetAction_known a hk).trans ((require_pass (ok := fun _ => (allowedActions k).contains a) (List.contains_iff_mem.mpr ha)).trans
    (needTier_pass ht))

theorem svcSetAction_barred {k : FaultKind} {a : Action} {s : State} (hk : faultExists s.member k = true)
    (ha : a ∉ allowedActions k) : svcSetAction (some ⟨some k, some a⟩) s = (s, refusal .range) :=
  (svcSetAction_known a hk).trans (require_fail (Bool.eq_false_iff.mpr fun h => ha (List.contains_iff_mem.mp h)))

theorem svcSetAction_absent {k : FaultKind} (a : Option Action) {s : State} (hk : faultExists s.member k = false) :
    svcSetAction (some ⟨some k, a⟩) s = (s, refusal .notFitted) :=
  require_fail (ok := fun s => faultExists s.member k) hk

/-! ## SET MASK -/

theorem svcSetMask_taken {n : AlertName} (m : Bool) {s : State} (hn : alertExists s.member n = true) (ht : tierOk s .setter = true) :
    svcSetMask (some ⟨some n, if m then 1 else 0⟩) s =
      (setMask n m s, accepted "SET MASK" [codes (alertText n), decimal (if m then 1 else 0)]) := by
  have hw : within 0 1 (if m then 1 else 0) = true := by cases m <;> rfl
  have hm : decide ((if m then 1 else 0) = 1) = m := by cases m <;> rfl
  unfold svcSetMask withForm
  dsimp only
  rw [require_pass (by exact hw), require_pass (by exact hn), needTier_pass ht, hm]

/-! ## SET REPORTS -/

/-- What is said of the kept elements of a list, joined: each element says its part or nothing. -/
theorem flatten_map_filter {α : Type} (p : α → Bool) (f : α → Text) (l : List α) :
    ((l.filter p).map f).flatten = l.flatMap fun v => if p v then f v else [] := by
  induction l with
  | nil => rfl
  | cons v l ih => cases h : p v <;> simp [h, ih]

/-- The kinds that may be enabled, with their letters, in the order of the reply (R183). -/
def kindLetters : List (ReportKind × String) := [(.w, "W"), (.d, "D"), (.x, "X"), (.c, "C"), (.s, "S"), (.e, "E")]

/-- The reply joins the letters of the enabled kinds, or says NONE (R183). -/
theorem enablesText_eq (p : ReportKind → Bool) : enablesText ⟨p .w, p .d, p .x, p .c, p .s, p .e⟩ =
    if kindLetters.filter (fun v => p v.1) = [] then codes "NONE"
    else ((kindLetters.filter fun v => p v.1).map fun v => codes v.2).flatten := by
  have hall : enablesText ⟨p .w, p .d, p .x, p .c, p .s, p .e⟩ =
      if (kindLetters.flatMap fun v => if p v.1 then codes v.2 else []).isEmpty then codes "NONE"
      else kindLetters.flatMap fun v => if p v.1 then codes v.2 else [] := by
    simp only [enablesText, kindLetters, List.flatMap_cons, List.flatMap_nil, List.append_nil, List.append_assoc]
    rfl
  have hempty : (kindLetters.flatMap fun v => if p v.1 then codes v.2 else []) = [] ↔ kindLetters.filter (fun v => p v.1) = [] := by
    rw [List.flatMap_eq_nil_iff, List.filter_eq_nil_iff]
    have hletter : ∀ v ∈ kindLetters, codes v.2 ≠ [] := by decide
    refine forall₂_congr fun v hv => ?_
    simp [hletter v hv]
  rw [hall, flatten_map_filter]
  exact if_congr (by rw [List.isEmpty_iff, hempty]) rfl rfl

theorem enablesOf_eq (ks : List ReportKind) : enablesOf ks =
    ⟨decide (.w ∈ ks), decide (.d ∈ ks), decide (.x ∈ ks), decide (.c ∈ ks), decide (.s ∈ ks), decide (.e ∈ ks)⟩ := by
  simp only [enablesOf, List.contains_eq_mem]

theorem svcSetReports_twice {ks : List ReportKind} (h : ¬ks.Nodup) (s : State) :
    svcSetReports (some ks) s = (s, refusal .malformed) :=
  require_fail (ok := fun _ => decide ks.Nodup) (decide_eq_false h)

theorem svcSetReports_taken {ks : List ReportKind} {s : State} (h : ks.Nodup) (hf : .f ∉ ks) (hl : .l ∉ ks)
    (ht : tierOk s .setter = true) : svcSetReports (some ks) s =
      (s.setLink { s.link with enables := enablesOf ks }, accepted "SET REPORTS" [enablesText (enablesOf ks)]) := by
  have hfl : (!(ks.contains .f || ks.contains .l)) = true := by simp [hf, hl]
  unfold svcSetReports withForm
  dsimp only
  rw [require_pass (by exact decide_eq_true h), require_pass (by exact hfl), needTier_pass ht]

/-! ## The alert lines -/

theorem mem_allFaults (k : FaultKind) : k ∈ allFaults := by
  rw [← allFaults_faultIndex k, List.getD_eq_getElem _ _ (faultIndex k).isLt]
  exact List.getElem_mem _

theorem mem_allWarnings (w : WarnKind) : w ∈ allWarnings := by
  rw [← allWarnings_warnIndex w, List.getD_eq_getElem _ _ (warnIndex w).isLt]
  exact List.getElem_mem _

theorem faultLineLow_iff (s : State) : faultLineLow s = true ↔ ∃ k, (faultEntry s k).state ≠ .inactive ∧ (faultEntry s k).mask = false := by
  simp [faultLineLow, faultStands, mem_allFaults]

theorem warnLineLow_iff (s : State) : warnLineLow s = true ↔ ∃ w, (warnEntry s w).indication = true ∧ (warnEntry s w).mask = false := by
  simp [warnLineLow, mem_allWarnings]

/-- Settles O49: each row of the fault table, the masks, the report kinds and the two alert lines. -/
theorem supervisionSettings : Obligations.SupervisionSettings := by
  intro s hf ht
  refine ⟨fun row hrow => ?_, fun k m hk => taken hf (svcSetMask_taken (n := .fault k) m hk ht),
    fun w m hw => taken hf (svcSetMask_taken (n := .warning w) m hw ht), fun ks h => taken hf (svcSetReports_twice h s),
    fun ks hw hnf hnl => ?_, faultLineLow_iff s, warnLineLow_iff s⟩
  · obtain ⟨h340, h320, hall⟩ := faultRows_hold row hrow
    refine ⟨fun o => ⟨powerOnReset o s, rfl, ?_⟩, fun a hk => ?_, fun a hb hm => ?_⟩
    · obtain ⟨hm, ha⟩ := powerOn_action o s row.1
      rw [hm, ha]
      cases s.member with
      | bl340 => exact h340
      | bl320 => exact h320
    · have hk := (faultExists_iff s.member row.1).mpr hk
      rw [← hall]
      exact ⟨fun ha he => taken hf (svcSetAction_taken hk ha he), fun ha => taken hf (svcSetAction_barred hk ha)⟩
    · refine taken hf (svcSetAction_absent a (Bool.eq_false_iff.mpr fun hk => ?_))
      rcases (faultExists_iff _ _).mp hk with h | h
      · exact hb h
      · rw [hm] at h
        cases h
  · have hnodup : ks.Nodup := of_decide_eq_true hw
    refine (taken hf (svcSetReports_taken hnodup hnf hnl ht)).trans ?_
    rw [enablesOf_eq, enablesText_eq fun k => decide (k ∈ ks)]
    rfl

end Sys2Proof.SupervisionSettings
end

-- ==== The points, proofs: what a terminal hands on, and the levels ====
section
/-! A change at a terminal and who takes it, the levels of the points and what drives them, TAKE EDGES and WRITE OUT (O54). -/

namespace Sys2Proof.TerminalChanges

open Sys2Proof.Machine Sys2Proof.Safety Sys2Proof.Laws Sys2Proof.LoafTrack

/-! ## A change at a terminal -/

/-- A terminal that nothing drives reads high under its pull-up (R170). -/
theorem terminalLevel_eq (q : Point) : (if q.driven = false ∧ q.pullUp = true then true else q.signal) = terminalLevel q := by
  unfold terminalLevel
  cases q.driven <;> cases q.pullUp <;> rfl

/-- What stands at the terminal is all that the change moves, with the count of free values. -/
theorem setTerminal_eq (p : PointNo) (sig : Signal) (s : State) : setTerminal p sig s = { s with
    points := s.points.set p { s.points[p] with
      driven := decide (sig ≠ .undriven), signal := (setTerminal p sig s).points[p].signal }
    fresh := (setTerminal p sig s).fresh } := by
  rw [setTerminal_points, if_pos rfl]
  cases sig <;> rfl

theorem mode_setTerminal (p : PointNo) (sig : Signal) (s : State) : (setTerminal p sig s).points[p].mode = s.points[p].mode := by
  rw [setTerminal_points, if_pos rfl, setSignal_mode]

theorem setTerminal_link (p : PointNo) (sig : Signal) (s : State) : (setTerminal p sig s).link = s.link := by
  cases sig <;> rfl

/-- A change of level is taken by the edge select: at both, at a rise, at a fall (R174). -/
theorem edgeTaken_iff (e : EdgeSelect) (high : Bool) :
    edgeTaken e high = true ↔ e = .both ∨ (e = .rise ∧ high = true) ∨ (e = .fall ∧ high = false) := by
  cases e <;> simp [edgeTaken]

section
variable {p : PointNo} {sig : Signal} {s : State}

theorem terminalChanges_same (h : terminalLevel (setTerminal p sig s).points[p] = terminalLevel s.points[p]) :
    terminalChanges p sig s = setTerminal p sig s := if_pos h

theorem terminalChanges_moved (h : terminalLevel (setTerminal p sig s).points[p] ≠ terminalLevel s.points[p]) :
    terminalChanges p sig s =
      finish (levelChanged p (terminalLevel (setTerminal p sig s).points[p]) (setTerminal p sig s)) := if_neg h

/-- The points and the free values as a change at a terminal leaves them: a latch apart, they are those of the terminal's change. -/
structure Taken (p : PointNo) (u t : State) : Prop where
  point : ∃ latch, t.points[p] = { u.points[p] with latch := latch }
  fresh : t.fresh = u.fresh

theorem Taken.refl (p : PointNo) (u : State) : Taken p u u := ⟨⟨_, rfl⟩, rfl⟩

theorem Taken.level {u t : State} (h : Taken p u t) : terminalLevel t.points[p] = terminalLevel u.points[p] := by
  obtain ⟨_, hp⟩ := h.point
  rw [hp]
  rfl

theorem Taken.signal {u t : State} (h : Taken p u t) : t.points[p].signal = u.points[p].signal := by
  obtain ⟨_, hp⟩ := h.point
  rw [hp]

/-- The end of an event touches neither. -/
theorem Taken.noticed {u v t : State} (h : Taken p u v) (hn : Noticed v t) : Taken p u t :=
  ⟨by rw [hn.points]; exact h.point, by rw [hn.rest]; exact h.fresh⟩

theorem Taken.handed {u t : State} (h : Handed u t) : Taken p u t := ⟨⟨_, by rw [h.points]⟩, h.fresh⟩

end

/-! ### A plain input -/

/-- The latch of a point set (R174). -/
def latched (p : PointNo) (s : State) : State := s.setPoints (s.points.set p { s.points[p] with latch := true })

theorem latched_taken (p : PointNo) (s : State) : Taken p s (latched p s) :=
  ⟨⟨true, by simp [latched]⟩, rfl⟩

/-- An edge that is taken sets the latch, and is reported where the point's report is on (R174). -/
def edgeNoted (p : PointNo) (high : Bool) (s : State) : State :=
  if s.points[p].report then report (.edge p high high) (latched p s) else latched p s

theorem edgeNoted_noticed (p : PointNo) (high : Bool) (s : State) : Noticed (latched p s) (edgeNoted p high s) := by
  unfold edgeNoted
  split
  · exact report_noticed _ _
  · exact Noticed.refl _

theorem levelChanged_input {p : PointNo} {s : State} (high : Bool) (hm : s.points[p].mode = .input) :
    levelChanged p high s = if edgeTaken s.points[p].edge high then edgeNoted p high s else s := by
  unfold levelChanged
  rw [hm]
  rfl

/-- The edge reports that wait at the end of an event are those that waited before it, while the transmitter is busy. -/
theorem finish_edges {s : State} (hr : Room 1 s) (hb : s.link.sending ≠ none) (q : PointNo) (rise high : Bool) :
    Report.edge q rise high ∈ (finish s).link.queue ↔ Report.edge q rise high ∈ s.link.queue := by
  refine ⟨(finish_steady s).kept.edges q rise high, fun h => ?_⟩
  obtain ⟨rs, _, hl⟩ := evaluate_tells .noStation s hr
  have hb' : (evaluate .noStation s).link.sending ≠ none := by
    rw [hl]
    exact hb
  show _ ∈ (evaluate .noStation s).link.begin.queue
  rw [begin_busy hb', hl]
  exact List.mem_append_left _ h

/-- An edge that is taken queues the one #E of its point, where the report is on, and no other. -/
theorem edgeNoted_edges {s : State} (hs : Listening s) (p : PointNo) (after : Bool) (q : PointNo) (rise high : Bool) :
    Report.edge q rise high ∈ (finish (edgeNoted p after s)).link.queue ↔
      s.points[p].report = true ∧ q = p ∧ rise = after ∧ high = after := by
  have hl : ∃ rs, (edgeNoted p after s).link = { s.link with queue := rs } ∧ rs.length ≤ 1 ∧
      (Report.edge q rise high ∈ rs ↔ s.points[p].report = true ∧ q = p ∧ rise = after ∧ high = after) := by
    unfold edgeNoted
    split
    · rename_i hr
      have hk : (report (.edge p after after) (latched p s)).link = { s.link with queue := [.edge p after after] } := by
        unfold report Link.push
        rw [show (latched p s).link = s.link from rfl, if_pos (by rw [hs.every]; rfl), hs.empty, if_pos (by decide)]
        rfl
      exact ⟨_, hk, Nat.le_refl 1, by simpa using fun _ _ _ => hr⟩
    · rename_i hr
      exact ⟨[], by rw [← hs.empty]; rfl, Nat.zero_le 1, ⟨nofun, fun h => absurd h.1 hr⟩⟩
  obtain ⟨rs, hl, hn, hrs⟩ := hl
  have hroom : Room 1 (edgeNoted p after s) := ⟨by rw [hl]; exact hs.every, by rw [hl]; exact Nat.succ_le_succ (hn.trans (by decide))⟩
  rw [finish_edges hroom (by rw [hl]; exact hs.busy), hl]
  exact hrs

/-! ### The owner of an input function -/

/-- A point that holds a function is in neither plain mode. -/
theorem mode_of_function {p : PointNo} {s : State} {f : Func} (h : pointFunction s p = some f) :
    s.points[p].mode ≠ .input ∧ s.points[p].mode ≠ .output := by
  unfold pointFunction at h
  constructor <;> intro hm <;> rw [hm] at h <;> cases h

/-- The command of an edge is the edge of its function, taken by the owner (R171). -/
theorem exec_edgeCommand {f : Func} {high : Bool} {c : Instr} (h : edgeCommand f high = some c) (s : State) :
    isInput f = true ∧ exec c s = .next (inputEdge f high (inputChanged f high) s) := by
  cases f <;> cases high <;> cases h <;> exact ⟨rfl, rfl⟩

theorem holder_unique {p : PointNo} {s : State} {f : Func} (hf : pointFunction s p = some f)
    (hu : ∀ q, pointFunction s q = some f → q = p) : holder s f = some p := by
  cases h : holder s f with
  | none => exact absurd hf (by simpa using List.find?_eq_none.mp h p (List.mem_finRange p))
  | some q => rw [hu q (holder_function h)]

/-- A level that changes at the one point of a function is the function's edge. -/
theorem terminalChanges_edge {p : PointNo} {s : State} {f : Func} {high : Bool} (hf : pointFunction s p = some f)
    (hu : ∀ q, pointFunction s q = some f → q = p) (hi : isInput f = true) (hl : terminalLevel s.points[p] ≠ high) :
    terminalChanges p (if high then .high else .low) s = inputEdge f high (inputChanged f high) s := by
  have hp := holder_unique hf hu
  have hlevel : terminalLevel (setTerminal p (if high then .high else .low) s).points[p] = high := by
    rw [setTerminal_points, if_pos rfl]
    cases high <;> rfl
  have hmoved := terminalChanges_moved (p := p) (sig := if high then .high else .low) (s := s) (by rw [hlevel]; exact hl.symm)
  have hf' := (pointFunction_setTerminal p p (if high then .high else .low) s).trans hf
  have hdrive : driveInput f high s = setTerminal p (if high then .high else .low) s := by
    unfold driveInput
    rw [hp]
  rw [hmoved, hlevel, levelChanged_owner high (mode_of_function hf').1 hf' hi,
    inputEdge_held (show isHeld s f = true by unfold isHeld; rw [hp]; rfl), hdrive]

/-! ## The levels of the points -/

theorem pointLevel_input {p : PointNo} {s : State} (h : s.points[p].mode = .input) : pointLevel s p = terminalLevel s.points[p] := by
  unfold pointLevel pointFunction
  rw [h]
  rfl

theorem pointLevel_written {p : PointNo} {s : State} (h : s.points[p].mode = .output) : pointLevel s p = s.points[p].written := by
  unfold pointLevel
  rw [h]

/-- The level of an output function is its owner's (R171). -/
theorem pointLevel_output {p : PointNo} {s : State} {f : Func} (h : pointFunction s p = some f) (hi : isInput f = false) :
    pointLevel s p = outputLevel s f := by
  have hm := (mode_of_function h).2
  unfold pointLevel
  rw [h]
  split
  case h_1 e => exact absurd e hm
  case h_2 e _ =>
    cases e
    rw [if_neg (by rw [hi]; exact Bool.false_ne_true)]
  case h_3 e _ => cases e

/-- The part drives a point in OUT, and one that holds an output function (R170). -/
abbrev Drives (s : State) (p : PointNo) : Prop := s.points[p].mode = .output ∨ ∃ g ∈ pointFunction s p, isInput g = false

theorem drives_iff (s : State) (p : PointNo) :
    (decide (s.points[p].mode = .output) || (pointFunction s p).any fun f => !isInput f) = true ↔ Drives s p := by
  cases h : pointFunction s p <;> simp [h, Drives]

theorem terminalDrive_on {p : PointNo} {s : State} (h : Drives s p) : terminalDrive s p =
    match s.points[p].drive, pointLevel s p with
    | .pushPull, true => .drivenHigh
    | .pushPull, false => .drivenLow
    | .openDrain, true => .letGo
    | .openDrain, false => .pulledLow := by
  unfold terminalDrive
  simp only [(drives_iff s p).mpr h]
  rfl

theorem terminalDrive_off {p : PointNo} {s : State} (h : ¬Drives s p) : terminalDrive s p = .letGo := by
  unfold terminalDrive
  simp only [Bool.eq_false_iff.mpr fun k => h ((drives_iff s p).mp k)]
  rfl

theorem pointLevel_letGo {p : PointNo} {s : State} (h : ¬Drives s p) : pointLevel s p = terminalLevel s.points[p] := by
  obtain ⟨hm, hf⟩ := not_or.mp h
  unfold pointLevel
  split
  case h_1 e => exact absurd e hm
  case h_2 f e _ => rw [if_pos (by simpa using fun hi => hf ⟨f, e, hi⟩)]
  case h_3 => rfl

theorem blowerOn_eq (s : State) (x : Station) : blowerOn s x = decide (s.sup.line ≠ .halted ∧
    (((stationRec s x).state = .opening ∧ (stationRec s x).attempt ≠ none) ∨ (stationRec s x).state = .ready ∨
      (stationRec s x).state = .filling ∨ (stationRec s x).state = .tying)) := by
  unfold blowerOn
  cases h : (stationRec s x).state <;> cases ha : (stationRec s x).attempt <;> simp [h, ha]

theorem scoopOn_eq (s : State) (x : Station) :
    scoopOn s x = decide (s.sup.line ≠ .halted ∧ (stationRec s x).scoopTimer ≠ none) := by
  unfold scoopOn
  cases (stationRec s x).scoopTimer <;> simp

/-- The levels that stand in the owners' states as they are (R58, R59, R79, R85, R100, R112, R117). -/
theorem outputLevel_rows (s : State) : ∀ row ∈ ([(.infeedHold, s.track.infeedHold), (.knifeRun, s.head.knife),
      (.pusherEnable, decide (s.sup.line = .running ∨ s.sup.line = .draining)),
      (.rejectGate, decide ((∃ r ∈ s.track.loaves, r.zone = .reject) ∧ s.sup.line ≠ .halted)),
      (.stationGate, s.stations.stationGate), (.airKnife, s.crumb.airKnife),
      (.vacuum, decide (∃ w ∈ s.crumb.sweep, w.timerRunning = true)),
      (.tie .a, decide (s.tyers.a.stage ≠ none)), (.tie .b, decide (s.tyers.b.stage ≠ none))] : List (Func × Bool)),
    isInput row.1 = false ∧ outputLevel s row.1 = row.2 := by
  have hpusher : moving s = decide (s.sup.line = .running ∨ s.sup.line = .draining) := by simp [moving]
  have hgate : rejectGate s = decide ((∃ r ∈ s.track.loaves, r.zone = .reject) ∧ s.sup.line ≠ .halted) := by
    unfold rejectGate
    rw [← Option.not_isNone, none_in_zone, Bool.decide_and, ← decide_not]
    simp
  have hvacuum : vacuumOn s = decide (∃ w ∈ s.crumb.sweep, w.timerRunning = true) := by
    unfold vacuumOn
    cases s.crumb.sweep <;> simp
  have htie : ∀ x, tieOn s x = decide ((tyerOf s x).stage ≠ none) := fun x => by
    unfold tieOn
    cases (tyerOf s x).stage <;> simp
  simp only [List.forall_mem_cons]
  exact ⟨⟨rfl, rfl⟩, ⟨rfl, rfl⟩, ⟨rfl, hpusher⟩, ⟨rfl, hgate⟩, ⟨rfl, rfl⟩, ⟨rfl, rfl⟩, ⟨rfl, hvacuum⟩, ⟨rfl, htie .a⟩, ⟨rfl, htie .b⟩,
    nofun⟩

/-! ## TAKE EDGES and WRITE OUT -/

theorem svcTakeEdges_taken (s : State) : svcTakeEdges (some ()) s =
    (s.setPoints (s.points.map fun q => { q with latch := false }),
      accepted "TAKE EDGES" [listText ((latchedPoints s).map fun q => decimal q.val)]) := needTier_pass (operator_ok s)

theorem pointOf_val (p : PointNo) : pointOf p.val = p := by
  unfold pointOf
  exact Fin.ext (Nat.mod_eq_of_lt p.isLt)

/-- Past the range and the tier, WRITE OUT asks for the mode OUT (R176). -/
theorem svcWriteOut_known (p : PointNo) (level : Bool) {s : State} (ht : tierOk s .setter = true) :
    svcWriteOut (some ⟨p.val, if level then 1 else 0⟩) s =
      require (fun s => decide (s.points[p].mode = .output)) .state
        (fun s => (s.setPoints (s.points.set p { s.points[p] with written := level }),
          accepted "WRITE OUT" [decimal p.val, decimal (if level then 1 else 0)])) s := by
  have hw : (decide (p.val ≤ 23) && within 0 1 (if level then 1 else 0)) = true := by
    rw [decide_eq_true (Nat.le_of_lt_succ p.isLt)]
    cases level <;> rfl
  have hl : decide ((if level then 1 else 0) = 1) = level := by cases level <;> rfl
  unfold svcWriteOut withForm
  dsimp only
  rw [require_pass (by exact hw), needTier_pass ht]
  simp only [pointOf_val, hl]

/-! ## The statement -/

section
variable {p : PointNo} {sig : Signal} {s : State}

/-- A level that changes under a plain input is taken by its edge select; the state before the end of the event. -/
theorem terminalChanges_input (hm : s.points[p].mode = .input) (h : terminalLevel (setTerminal p sig s).points[p] ≠ terminalLevel s.points[p]) :
    let u := setTerminal p sig s
    let after := terminalLevel u.points[p]
    terminalChanges p sig s = finish (if edgeTaken s.points[p].edge after then edgeNoted p after u else u) := by
  have hu : (setTerminal p sig s).points[p].mode = .input ∧ (setTerminal p sig s).points[p].edge = s.points[p].edge := by
    rw [setTerminal_points, if_pos rfl]
    cases sig <;> exact ⟨hm, rfl⟩
  dsimp only
  rw [terminalChanges_moved h, levelChanged_input _ hu.1, hu.2]

/-- What the edge select makes of a change of level at a plain input: it is taken or it is not (R174). -/
theorem terminalChanges_plain (hm : s.points[p].mode = .input) :
    let u := setTerminal p sig s
    let after := terminalLevel u.points[p]
    let moved := terminalLevel s.points[p] ≠ after ∧ edgeTaken s.points[p].edge after = true
    (moved → terminalChanges p sig s = finish (edgeNoted p after u)) ∧
      (¬moved → terminalChanges p sig s = u ∨ terminalChanges p sig s = finish u) := by
  by_cases he : terminalLevel (setTerminal p sig s).points[p] = terminalLevel s.points[p]
  · exact ⟨fun h => absurd he.symm h.1, fun _ => .inl (terminalChanges_same he)⟩
  · dsimp only
    rw [terminalChanges_input hm he]
    exact ⟨fun h => by rw [if_pos h.2], fun h => .inr (by rw [if_neg fun k => h ⟨fun e => he e.symm, k⟩])⟩

/-- Outside IN, without an owner to take it, a change of level is noticed alone. -/
theorem terminalChanges_unowned (hm : s.points[p].mode ≠ .input)
    (h : terminalLevel s.points[p] = terminalLevel (setTerminal p sig s).points[p] ∨ ∀ f ∈ pointFunction s p, isInput f = false) :
    Noticed (setTerminal p sig s) (terminalChanges p sig s) := by
  by_cases he : terminalLevel (setTerminal p sig s).points[p] = terminalLevel s.points[p]
  · exact Noticed.of_eq (terminalChanges_same he).symm
  · rw [terminalChanges_moved he]
    suffices hl : levelChanged p (terminalLevel (setTerminal p sig s).points[p]) (setTerminal p sig s) = setTerminal p sig s by
      rw [hl]
      exact finish_noticed _
    unfold levelChanged
    split
    case h_1 hi => exact absurd hi (by rw [mode_setTerminal]; exact hm)
    case h_2 f hf _ =>
      rw [pointFunction_setTerminal] at hf
      rw [if_neg (by rw [(h.resolve_left fun e => he e.symm) f hf]; exact Bool.false_ne_true)]
    case h_3 => rfl

/-- Outside IN, the owner of an input function takes the change (R171). -/
theorem terminalChanges_owned {f : Func} (hm : s.points[p].mode ≠ .input) (hf : pointFunction s p = some f) (hi : isInput f = true)
    (h : terminalLevel (setTerminal p sig s).points[p] ≠ terminalLevel s.points[p]) : terminalChanges p sig s =
      finish (inputChanged f (terminalLevel (setTerminal p sig s).points[p]) (setTerminal p sig s)) := by
  rw [terminalChanges_moved h, levelChanged_owner _ (by rw [mode_setTerminal]; exact hm)
    ((pointFunction_setTerminal p p sig s).trans hf) hi]

/-- Outside IN neither a latch nor the queue's #E follows a terminal. -/
theorem terminalChanges_handed (hm : s.points[p].mode ≠ .input) : Handed (setTerminal p sig s) (terminalChanges p sig s) := by
  by_cases he : terminalLevel (setTerminal p sig s).points[p] = terminalLevel s.points[p]
  · rw [terminalChanges_same he]
    exact (Steady.refl _).handed
  · rw [terminalChanges_moved he]
    refine Handed.steady ?_ (finish_steady _)
    unfold levelChanged
    split
    case h_1 hi => exact absurd hi (by rw [mode_setTerminal]; exact hm)
    case h_2 =>
      split
      · exact inputChanged_handed _ _ _
      · exact (Steady.refl _).handed
    case h_3 => exact (Steady.refl _).handed

/-- A change at a terminal moves what stands there, and at most a latch beside it. -/
theorem terminalChanges_taken : Taken p (setTerminal p sig s) (terminalChanges p sig s) := by
  by_cases hm : s.points[p].mode = .input
  · by_cases he : terminalLevel (setTerminal p sig s).points[p] = terminalLevel s.points[p]
    · rw [terminalChanges_same he]
      exact Taken.refl p _
    · rw [terminalChanges_input hm he]
      refine Taken.noticed ?_ (finish_noticed _)
      split
      · exact (latched_taken p _).noticed (edgeNoted_noticed p _ _)
      · exact Taken.refl p _
  · exact Taken.handed (terminalChanges_handed hm)

end

/-- Settles O54: what a terminal's change moves and hands on, the levels and drives of the points, TAKE EDGES and WRITE OUT. -/
theorem edgesAndLevelsTaken : Obligations.EdgesAndLevelsTaken := by
  intro p s
  refine ⟨fun sig => ⟨terminalChanges p sig s, rfl, ?_⟩, fun f hf hu high hl c hc => ?_, ?_, fun x => ⟨fun h => ?_, fun h => ?_⟩,
    fun h => ?_, fun hfree => ⟨taken hfree (svcTakeEdges_taken s), fun ht level => ⟨fun hm => ⟨?_, ?_⟩, fun hm => ?_⟩⟩⟩
  · have htaken := terminalChanges_taken (p := p) (sig := sig) (s := s)
    intro level before after changed
    have hb : before = terminalLevel s.points[p] := terminalLevel_eq _
    have ha : after = terminalLevel (setTerminal p sig s).points[p] := (terminalLevel_eq _).trans htaken.level
    have hc : changed = setTerminal p sig s := by
      rw [setTerminal_eq, ← htaken.signal, ← htaken.fresh]
    have hlow : sig = .low → after = false := fun h => by rw [ha, setTerminal_points, if_pos rfl, h]; rfl
    have hhigh : sig = .high → after = true := fun h => by rw [ha, setTerminal_points, if_pos rfl, h]; rfl
    clear_value before after changed
    subst hb ha hc
    refine ⟨hlow, hhigh, fun h hp => ?_, fun h => ?_, fun hm => ?_, terminalChanges_unowned, fun hm h f hf hi => ?_,
      fun hm => ⟨(terminalChanges_handed hm).points, fun q rise high hq => ?_⟩⟩
    · rw [setTerminal_points, if_pos rfl, h]
      exact if_pos (by rw [show (s.points[p].setSignal .undriven s.fresh).pullUp = true from hp]; rfl)
    · rw [htaken.signal, htaken.fresh, setTerminal_points, if_pos rfl]
      cases sig with
      | undriven => exact absurd rfl h
      | low => exact ⟨rfl, rfl⟩
      | high => exact ⟨rfl, rfl⟩
    · intro taken v
      obtain ⟨hyes, hno⟩ := terminalChanges_plain (sig := sig) hm
      have hiff : taken ↔ _ := and_congr_right' (edgeTaken_iff _ _).symm
      have hlevel : pointLevel (terminalChanges p sig s) p = terminalLevel (setTerminal p sig s).points[p] := by
        obtain ⟨_, hp⟩ := htaken.point
        rw [pointLevel_input (by rw [hp]; exact (mode_setTerminal p sig s).trans hm), htaken.level]
      have hfields : (setTerminal p sig s).points[p].report = s.points[p].report ∧ (setTerminal p sig s).points[p].latch = s.points[p].latch := by
        rw [setTerminal_points, if_pos rfl]
        cases sig <;> exact ⟨rfl, rfl⟩
      refine ⟨hlevel, ?_⟩
      by_cases ht : taken
      · have hv : v = latched p (setTerminal p sig s) := by
          have hl : (s.points[p].latch || decide taken) = true := by rw [decide_eq_true ht, Bool.or_true]
          dsimp only [v]
          rw [hl]
          rfl
        rw [hyes (hiff.mp ht), hv, ← hfields.1]
        refine ⟨(Noticed.of_eq ?_).trans (finish_noticed _), fun hs q rise high => ?_⟩
        · unfold edgeNoted
          simp only [ht, true_and]
        · rw [edgeNoted_edges (listening_of_link (setTerminal_link p sig s) hs)]
          simp only [ht, true_and]
      · have hv : v = setTerminal p sig s := by
          dsimp only [v]
          rw [decide_eq_false ht, Bool.or_false, ← hfields.2]
          exact congrArg (fun w => { setTerminal p sig s with points := w }) (Vector.set_getElem_self _)
        have hsteady : Noticed (setTerminal p sig s) (terminalChanges p sig s) ∧ Steady (setTerminal p sig s) (terminalChanges p sig s) := by
          rcases hno fun h => ht (hiff.mpr h) with h | h
          · rw [h]
            exact ⟨Noticed.refl _, Steady.refl _⟩
          · rw [h]
            exact ⟨finish_noticed _, finish_steady _⟩
        rw [hv, if_neg fun h => ht h.1]
        refine ⟨hsteady.1, fun hs q rise high => ⟨fun h => ?_, fun h => absurd h.1 ht⟩⟩
        have hq := hsteady.2.kept.edges q rise high h
        rw [setTerminal_link, hs.empty] at hq
        cases hq
    · rw [terminalChanges_owned hm hf hi h.symm]
      exact finish_noticed _
    · rw [← setTerminal_link p sig s]
      exact (terminalChanges_handed hm).edges q rise high hq
  · obtain ⟨hi, he⟩ := exec_edgeCommand hc s
    rw [he, ← terminalChanges_edge hf hu hi (by rw [← terminalLevel_eq]; exact hl)]
    rfl
  · refine ⟨fun hd hk => ?_, fun hd hk => ?_, fun hd => ⟨terminalDrive_off hd, (pointLevel_letGo hd).trans (terminalLevel_eq _).symm⟩,
      pointLevel_written, fun row hrow hf => ?_⟩
    · rw [terminalDrive_on hd, hk]
      cases pointLevel s p <;> rfl
    · rw [terminalDrive_on hd, hk]
      cases pointLevel s p <;> rfl
    · obtain ⟨hi, hl⟩ := outputLevel_rows s row hrow
      exact (pointLevel_output hf hi).trans hl
  · exact (pointLevel_output h rfl).trans (blowerOn_eq s x)
  · exact (pointLevel_output h rfl).trans (scoopOn_eq s x)
  · have hl : pointLevel s p = trendLevel s := pointLevel_output h rfl
    exact ⟨fun hd => by rw [hl, trendLevel, if_pos hd], fun hd => by rw [hl, trendLevel, if_neg (by rw [hd]; decide), if_pos hd]⟩
  · refine (taken hfree ((svcWriteOut_known p level ht).trans (require_pass (by exact decide_eq_true hm)))).trans ?_
    cases level <;> rfl
  · rw [pointLevel_written (by simpa using hm)]
    simp
  · exact taken hfree ((svcWriteOut_known p level ht).trans (require_fail (by exact decide_eq_false hm)))

end Sys2Proof.TerminalChanges
end

-- ==== The stations, proofs: a draw, an opening and a release ====
section
/-! What a station's operations leave where no loaf waits for a station, and the release of a loaf under a clear bag eye. -/

namespace Sys2Proof.BaggingStations

open Sys2Proof.Machine Sys2Proof.Safety Sys2Proof.Laws Sys2Proof.LoafTrack Sys2Proof.SwitchInputs Sys2Proof.SlicingHead

/-! ## Writes to a station, a tyer and the counts -/

theorem setStation_setStation (x : Station) (r r' : StationRec) (s : State) : setStation x r (setStation x r' s) = setStation x r s := by
  cases x <;> rfl

theorem setStation_self (x : Station) (s : State) : setStation x (stationRec s x) s = s := by
  cases x <;> rfl

theorem setStation_countStation (x : Station) (r : StationRec) (f : StationCounts → StationCounts) (s : State) :
    setStation x r (countStation x f s) = countStation x f (setStation x r s) := rfl

theorem Noticed.setStation {s t : State} (h : Noticed s t) (x : Station) (r : StationRec) :
    Noticed (setStation x r s) (Machine.setStation x r t) :=
  ⟨congrArg (Machine.setStation x r) h.rest, h.buffer, h.enables, h.answer⟩

theorem Noticed.setTyer {s t : State} (h : Noticed s t) (x : Station) (k : Tyer) : Noticed (setTyer x k s) (Machine.setTyer x k t) :=
  ⟨congrArg (Machine.setTyer x k) h.rest, h.buffer, h.enables, h.answer⟩

theorem Noticed.countStation {s t : State} (h : Noticed s t) (x : Station) (f : StationCounts → StationCounts) :
    Noticed (countStation x f s) (Machine.countStation x f t) := Noticed.countShift h _

theorem Noticed.modifyLoaf {s t : State} (h : Noticed s t) (tag : Nat) (f : Loaf → Loaf) :
    Noticed (modifyLoaf tag f s) (Machine.modifyLoaf tag f t) :=
  ⟨congrArg (Machine.modifyLoaf tag f) h.rest, h.buffer, h.enables, h.answer⟩

theorem Noticed.stationRec {s t : State} (h : Noticed s t) (x : Station) : stationRec t x = Machine.stationRec s x := by
  rw [h.rest]
  rfl

theorem Noticed.tyerOf {s t : State} (h : Noticed s t) (x : Station) : tyerOf t x = Machine.tyerOf s x := by
  rw [h.rest]
  rfl

theorem Noticed.inputHigh {s t : State} (h : Noticed s t) (f : Func) : inputHigh t f = Machine.inputHigh s f := (inputs_same h.points f).2

/-! ## Nothing waits for a station -/

/-- No record waits in TRANSFER, and the pusher drives no loaf out. -/
structure Unrouted (s : State) : Prop where
  transfer : ∀ r ∈ s.track.loaves, r.zone ≠ .transfer
  ejecting : s.head.state ≠ .ejecting
  passing : s.head.state ≠ .passing

theorem Unrouted.of_same {s t : State} (h : Unrouted s) (ht : t.track = s.track) (hh : t.head = s.head) : Unrouted t :=
  ⟨by rw [ht]; exact h.transfer, by rw [hh]; exact h.ejecting, by rw [hh]; exact h.passing⟩

theorem Unrouted.noticed {s t : State} (h : Unrouted s) (hn : Noticed s t) : Unrouted t := h.of_same hn.track hn.head

/-- The gate decision has nothing to decide, and no stroke ends (R70, R84). -/
theorem route_idle {s : State} (h : Unrouted s) : route s = s := by
  have hgate : gateDecision s = s := by
    unfold gateDecision
    rw [(oldestIn_none_iff s .transfer).mpr h.transfer]
    exact ite_self s
  unfold route
  rw [hgate]
  exact endStroke_still (.inl ⟨h.ejecting, h.passing⟩)

theorem stationReady_idle {x : Station} {s : State} (h : Unrouted s) :
    stationReady x s = setStation x { stationRec s x with state := .ready, attempt := none, bagTimer := none } s :=
  route_idle (h.of_same rfl rfl)

/-! ## A draw -/

/-- The bag drawn is counted (R163). -/
abbrev countDrawn (x : Station) (s : State) : State := countStation x (fun c => { c with drawn := min (c.drawn + 1) 4294967295 }) s

theorem drawn_noticed (x : Station) (n : Nat) (s : State) : Noticed (countDrawn x (setStation x (drawnRec s x n) s)) (drawn s x n) :=
  evaluate_noticed _ _

section
variable {x : Station} {n : Nat} {s : State}

theorem drawBag_emptied (hm : (stationRec s x).magazine = 0) : drawBag x n s = stationEmpties x s := if_pos hm

theorem stationEmpties_noticed (x : Station) (s : State) : Noticed
    (setStation x { stationRec s x with state := .empty, attempt := none, held := false, bagTimer := none } s) (stationEmpties x s) :=
  evaluate_noticed _ _

/-- The bag drawn is awaited under a clear bag eye (R81). -/
theorem drawBag_awaits (hm : (stationRec s x).magazine ≠ 0) (he : inputHigh s (.bagEye x) = false) :
    Noticed (countDrawn x (setStation x (drawnRec s x n) s)) (drawBag x n s) := by
  have hn := drawn_noticed x n s
  rw [drawBag_eq, if_neg hm, Noticed.inputHigh hn, show inputHigh (countDrawn x (setStation x (drawnRec s x n) s)) (.bagEye x) = false from he]
  exact hn

/-- The bag drawn stands open at once under a covered bag eye (R81). -/
theorem drawBag_opens (hm : (stationRec s x).magazine ≠ 0) (he : inputHigh s (.bagEye x) = true) (hu : Unrouted s) :
    Noticed (countDrawn x (setStation x { stationRec s x with
      state := .ready, magazine := (stationRec s x).magazine - 1, attempt := none, bagTimer := none } s)) (drawBag x n s) := by
  have hn := drawn_noticed x n s
  rw [drawBag_eq, if_neg hm, Noticed.inputHigh hn, show inputHigh (countDrawn x (setStation x (drawnRec s x n) s)) (.bagEye x) = true from he,
    if_pos rfl, stationReady_idle (hu.of_same hn.track hn.head), Noticed.stationRec hn]
  refine (Noticed.of_eq ?_).trans (Noticed.setStation hn x _)
  cases x <;> rfl

/-! ## The entry into OPENING -/

theorem opened_noticed (x : Station) (s : State) :
    Noticed (setStation x (openingRec (decide (s.sup.line = .halted)) (stationRec s x)) s) (SlicingHead.opened x s) := evaluate_noticed _ _

theorem enterOpening_waits (h : openDraws s x = false) : enterOpening x s = SlicingHead.opened x s := by
  show (if drawDue (SlicingHead.opened x s) x then _ else _) = _
  rw [drawDue_opened, h]
  rfl

theorem enterOpening_draws (h : openDraws s x = true) : enterOpening x s = drawBag x 1 (SlicingHead.opened x s) := by
  show (if drawDue (SlicingHead.opened x s) x then _ else _) = _
  rw [drawDue_opened, h]
  rfl

theorem openDraws_iff : openDraws s x = true ↔
    (stationRec s x).held = false ∧ s.sup.line ≠ .halted ∧ Held s (.bagEye x) ∧ Held s (.blower x) := by
  unfold openDraws
  simp [and_assoc]

/-- A station that opens under a clear bag eye, or without a bag, is OPENING or EMPTY with no loaf and no wait. -/
structure Reopened (r : StationRec) : Prop where
  state : r.state = .opening ∨ r.state = .empty
  tag : r.tag = none
  wait : r.releaseTimer = none

theorem enterOpening_reopened (h : (stationRec s x).magazine = 0 ∨ inputHigh s (.bagEye x) = false) :
    Reopened (stationRec (enterOpening x s) x) := by
  rw [(enterOpening_unready h).record]
  cases openDraws s x with
  | false => exact ⟨.inl rfl, rfl, rfl⟩
  | true =>
    unfold drewRec
    rw [if_neg (by decide)]
    split
    · exact ⟨.inr rfl, rfl, rfl⟩
    · exact ⟨.inl rfl, rfl, rfl⟩

end

end Sys2Proof.BaggingStations
end

-- ==== The stations, proofs: a release, and a fault at a station ====
section
/-! The release of a loaf under a clear bag eye, and what a fault's action on the line leaves of the stations. -/

namespace Sys2Proof.BaggingStations

open Sys2Proof.Machine Sys2Proof.Safety Sys2Proof.Laws Sys2Proof.LoafTrack Sys2Proof.SwitchInputs Sys2Proof.SlicingHead

/-! ## The release -/

/-- What a draw and an opening keep of a station's record. -/
theorem drewRec_keeps (due eye : Bool) (timeout : Nat) (r : StationRec) :
    (drewRec due eye timeout r).inServiceFlag = r.inServiceFlag ∧ (drewRec due eye timeout r).bagClass = r.bagClass ∧
      (drewRec due eye timeout r).misties = r.misties := by
  unfold drewRec
  repeat' split
  all_goals exact ⟨rfl, rfl, rfl⟩

/-- What a draw keeps of a station's counts. -/
theorem drewCounts_keeps (due : Bool) (n : Nat) (c : StationCounts) : (drewCounts due n c).wasted = c.wasted ∧
    (drewCounts due n c).misties = c.misties ∧ (drewCounts due n c).untied = c.untied := by
  unfold drewCounts
  split <;> exact ⟨rfl, rfl, rfl⟩

/-- The station has given up its loaf, and opens its next bag or is out of service (R89, R90). -/
structure Freed (x : Station) (w t : State) : Prop where
  aloof : Aloof w t
  tag : (stationRec t x).tag = none
  wait : (stationRec t x).releaseTimer = none
  opens : inService w x = true → (stationRec t x).state = .opening ∨ (stationRec t x).state = .empty
  out : inService w x = false → (stationRec t x).state = .outOfService
  service : inService t x = inService w x
  tyer : tyerOf t x = tyerOf w x
  misties : (stationRec t x).misties = (stationRec w x).misties
  counts : (bagCounts t x).misties = (bagCounts w x).misties ∧ (bagCounts t x).untied = (bagCounts w x).untied

theorem afterRelease_freed {x : Station} {w : State} (he : inputHigh w (.bagEye x) = false) : Freed x w (afterRelease x w) := by
  unfold afterRelease
  cases hs : inService w x with
  | true =>
    have ho := enterOpening_unready (x := x) (s := w) (.inr he)
    obtain ⟨hstate, htag, hwait⟩ := enterOpening_reopened (x := x) (s := w) (.inr he)
    rw [if_pos rfl]
    obtain ⟨hflag, _, hmisties⟩ := drewRec_keeps (openDraws w x) false w.stations.times.openTimeout
      (openingRec (decide (w.sup.line = .halted)) (stationRec w x))
    obtain ⟨_, hcm, hcu⟩ := drewCounts_keeps (openDraws w x) (stationRec w x).magazine (bagCounts w x)
    exact ⟨ho.aloof, htag, hwait, fun _ => hstate, fun h => (nomatch hs.symm.trans h), ho.aloof.inService (by rw [ho.record]; exact hflag),
      ho.tyer, by rw [ho.record]; exact hmisties, by rw [ho.counts]; exact ⟨hcm, hcu⟩⟩
  | false =>
    have ho := stationOut_becomes x w
    rw [if_neg Bool.false_ne_true]
    exact ⟨ho.aloof, by rw [ho.record]; rfl, by rw [ho.record]; rfl, fun h => (nomatch hs.symm.trans h), fun _ => by rw [ho.record]; rfl,
      ho.aloof.inService (by rw [ho.record]; rfl), ho.tyer, by rw [ho.record]; rfl, by rw [ho.counts]; exact ⟨rfl, rfl⟩⟩

/-- The loaf of a station moved to OUTFEED, its EXIT check armed (R14, R89). -/
def outfed (x : Station) (n : Nat) (w : State) : State :=
  setStation x { stationRec w x with tag := none, releaseTimer := none }
    (moveLoaf (.station x) n (fun l => { l with zone := .outfeed, check := some (armedCheck w .exit) }) w)

theorem loafToOutfeed_eq {x : Station} {n : Nat} {w : State} (h : (stationRec w x).tag = some n) : loafToOutfeed x w = outfed x n w := by
  unfold loafToOutfeed
  dsimp only
  rw [h]
  rfl

theorem stationRec_outfed (x : Station) (n : Nat) (w : State) :
    stationRec (outfed x n w) x = { stationRec w x with tag := none, releaseTimer := none } := stationRec_setStation_self x _ _

theorem inService_outfed (x : Station) (n : Nat) (w : State) : inService (outfed x n w) x = inService w x := by
  unfold inService
  rw [stationRec_outfed]
  rfl

/-- A release, under a clear bag eye. -/
theorem releaseLoaf_freed {x : Station} {n : Nat} {w : State} (he : inputHigh w (.bagEye x) = false)
    (ht : (stationRec w x).tag = some n) : Freed x (outfed x n w) (releaseLoaf x w) := by
  unfold releaseLoaf
  rw [loafToOutfeed_eq ht]
  exact afterRelease_freed he

/-- The result of a tying stage in the record (R88). -/
abbrev tied (tie : TieResult) (code : Option ClipCode) (l : Loaf) : Loaf := { l with tie := some tie, clipCode := code }

/-- The records once the tied loaf has been released. -/
theorem outfed_loaves {x : Station} {r : Loaf} {s w : State} {tie : TieResult} {code : Option ClipCode}
    (hl : w.track.loaves = (modifyLoaf r.tag (tied tie code) s).track.loaves) (hg : w.track.geometry = s.track.geometry)
    (hr : findLoaf s r.tag = some r) (hz : r.zone = .station x) :
    (outfed x r.tag w).track.loaves = (modifyLoaf r.tag (releasedLoaf s.track.geometry tie code) s).track.loaves := by
  have hfind : findLoaf w r.tag = some (tied tie code r) := by
    have hm := findLoaf_modify (f := tied tie code) hr rfl
    unfold findLoaf at hm ⊢
    rw [hl]
    exact hm
  show (moveLoaf (.station x) r.tag _ w).track.loaves = _
  rw [moveLoaf_eq _ hfind hz]
  show modifyFirst _ _ w.track.loaves = _
  rw [hl]
  refine (modifyFirst_twice (f := tied tie code) (fun _ => rfl) _).trans ?_
  show modifyFirst _ (fun l => { tied tie code l with zone := .outfeed, check := some ⟨.exit, checkDistance w.track.geometry .exit⟩ }) _ = _
  rw [hg]
  rfl

/-- A station that releases its tied loaf at once (R89). -/
theorem releaseLoaf_atOnce {x : Station} {r : Loaf} {s w : State} {tie : TieResult} {code : Option ClipCode} (ha : Aside s w)
    (hl : w.track.loaves = (modifyLoaf r.tag (tied tie code) s).track.loaves) (hr : findLoaf s r.tag = some r)
    (hz : r.zone = .station x) (he : inputHigh w (.bagEye x) = false) (ht : (stationRec w x).tag = some r.tag) :
    ReleasedAtOnce x r tie code s (finish (releaseLoaf x w)) := by
  have hf := releaseLoaf_freed he ht
  have hn := finish_noticed (releaseLoaf x w)
  have hs : inService (finish (releaseLoaf x w)) x = inService (outfed x r.tag w) x :=
    ((noticed_aloof hn).inService (by rw [Noticed.stationRec hn])).trans hf.service
  refine ⟨Aside.trans ha ((releaseLoaf_steady x w).trans (finish_steady _)).aside, ?_, ?_, ?_, fun h => ?_, fun h => ?_⟩
  · rw [hn.track, hf.aloof.track]
    exact outfed_loaves hl ha.geometry hr hz
  · rw [Noticed.stationRec hn]
    exact hf.tag
  · rw [Noticed.stationRec hn]
    exact hf.wait
  · rw [Noticed.stationRec hn]
    exact hf.opens (hs.symm.trans h)
  · rw [Noticed.stationRec hn]
    exact hf.out (hs.symm.trans h)

/-! ## The entry into RELEASING -/

section
variable {x : Station} {w : State} (hs : (stationRec w x).state = .releasing)

theorem awaitRelease_held (hh : (stationRec w x).held = true) : awaitRelease x w = w := by
  unfold awaitRelease
  dsimp only
  rw [hh]
  simp

include hs

theorem awaitRelease_waits (hh : (stationRec w x).held = false) (he : inputHigh w (.bagEye x) = true) :
    awaitRelease x w = setStation x { stationRec w x with releaseTimer := some w.stations.times.openTimeout } w := by
  unfold awaitRelease
  dsimp only
  rw [hs, hh, he]
  rfl

theorem awaitRelease_releases (hh : (stationRec w x).held = false) (he : inputHigh w (.bagEye x) = false) :
    awaitRelease x w = releaseLoaf x w := by
  unfold awaitRelease
  dsimp only
  rw [hs, hh, he]
  rfl

end

/-- Whichever way the station takes, what else stands (R89, R94). -/
structure Awaited (x : Station) (w t : State) : Prop where
  faults : t.sup.faults = w.sup.faults
  line : t.sup.line = w.sup.line
  hold : t.track.infeedHold = w.track.infeedHold
  tyer : tyerOf t x = tyerOf w x
  counts : (bagCounts t x).misties = (bagCounts w x).misties ∧ (bagCounts t x).untied = (bagCounts w x).untied
  loaf : ∀ n l, findLoaf w n = some l → ∃ q, findLoaf t n = some q ∧ q.tie = l.tie ∧ q.clipCode = l.clipCode
  tells : Tells 2 w t

theorem Awaited.of_becomes {x : Station} {r : StationRec} {s t : State} (h : Becomes x r (tyerOf s x) (bagCounts s x) s t)
    (ht : Tells 2 s t) : Awaited x s t where
  faults := h.aloof.faults
  line := h.aloof.line
  hold := congrArg Track.infeedHold h.aloof.track
  tyer := h.tyer
  counts := by rw [h.counts]; exact ⟨rfl, rfl⟩
  loaf := fun n l hl => ⟨l, by unfold findLoaf at hl ⊢; rw [h.aloof.track]; exact hl, rfl, rfl⟩
  tells := ht

/-- A release moves a record, and writes neither its tie result nor its clip code. -/
theorem loafToOutfeed_find (x : Station) (w : State) (m : Nat) (l : Loaf) (hl : findLoaf w m = some l) :
    ∃ q, findLoaf (loafToOutfeed x w) m = some q ∧ q.tie = l.tie ∧ q.clipCode = l.clipCode := by
  cases ht : (stationRec w x).tag with
  | none =>
    refine ⟨l, ?_, rfl, rfl⟩
    unfold loafToOutfeed
    dsimp only
    rw [ht]
    exact hl
  | some n =>
    rw [loafToOutfeed_eq ht]
    exact find?_modifyFirst (f := fun l => { l with zone := .outfeed, check := some (armedCheck w .exit) })
      (P := fun l q => q.tie = l.tie ∧ q.clipCode = l.clipCode) m (fun _ => rfl) (fun _ => ⟨rfl, rfl⟩) (fun _ => ⟨rfl, rfl⟩)
      w.track.loaves l hl

theorem releaseLoaf_awaited {x : Station} {w : State} (he : inputHigh w (.bagEye x) = false) : Awaited x w (releaseLoaf x w) := by
  have hinputs : inputHigh (loafToOutfeed x w) (.bagEye x) = false := by
    refine (inputs_same ?_ _).2.trans he
    unfold loafToOutfeed
    dsimp only
    split <;> rfl
  have hf := afterRelease_freed hinputs
  have htells : Tells 2 w (releaseLoaf x w) := (releaseLoaf_restarted x w).tells
  have hrest : (loafToOutfeed x w).sup = w.sup ∧ tyerOf (loafToOutfeed x w) x = tyerOf w x ∧
      (loafToOutfeed x w).shift = w.shift ∧ (loafToOutfeed x w).track.infeedHold = w.track.infeedHold := by
    unfold loafToOutfeed
    dsimp only
    split <;> exact ⟨rfl, rfl, rfl, rfl⟩
  obtain ⟨hsup, htyer, hshift, hhold⟩ := hrest
  have hcounts : bagCounts (loafToOutfeed x w) x = bagCounts w x := congrArg (fun v : Shift => v.openRecord.stations.get x) hshift
  refine ⟨hf.aloof.faults.trans (congrArg Supervision.faults hsup), hf.aloof.line.trans (congrArg Supervision.line hsup), ?_,
    hf.tyer.trans htyer, ?_, fun m l hl => ?_, htells⟩
  · exact (congrArg Track.infeedHold hf.aloof.track).trans hhold
  · rw [← hcounts]
    exact hf.counts
  · obtain ⟨q, hq, hkept⟩ := loafToOutfeed_find x w m l hl
    refine ⟨q, ?_, hkept⟩
    unfold findLoaf at hq ⊢
    rw [show (releaseLoaf x w).track = _ from hf.aloof.track]
    exact hq

theorem awaitRelease_awaited (x : Station) (w : State) : Awaited x w (awaitRelease x w) := by
  unfold awaitRelease
  dsimp only
  split
  · split
    · exact Awaited.of_becomes (setStation_becomes x _ w) (Tells.of_link rfl 2)
    · rename_i he
      exact releaseLoaf_awaited (Bool.eq_false_iff.mpr he)
  · exact Awaited.of_becomes (Stays.refl x w) (Tells.refl w 2)

/-! ## A fault's action on the line, as the stations see it -/

/-- A tyer after a reaction of the line: as it was, or with its stage cut short (R103). -/
def CutShort (k k' : Tyer) : Prop := k' = k ∨ k' = { k with stage := none, codeHeld := none }

theorem CutShort.trans {k k' k'' : Tyer} (h : CutShort k k') (j : CutShort k' k'') : CutShort k k'' := by
  rcases h with rfl | rfl
  · exact j
  · exact .inr (j.elim id id)

theorem CutShort.stock {k k' : Tyer} (h : CutShort k k') : k'.spool = k.spool ∧ k'.clipsOut = k.clipsOut := by
  rcases h with rfl | rfl <;> exact ⟨rfl, rfl⟩

theorem CutShort.stage {k k' : Tyer} (h : CutShort k k') (hk : k.stage = none) : k'.stage = none := by
  rcases h with rfl | rfl
  · exact hk
  · rfl

theorem haltedTyer_cut (r : StationRec) (k : Tyer) : CutShort k (haltedTyer r k) := by
  unfold haltedTyer
  split
  · exact .inr rfl
  · exact .inl rfl

theorem enterStopped_cut (s : State) (x : Station) : CutShort (tyerOf s x) (tyerOf (enterStopped false s) x) := by
  obtain ⟨_, _, _, _, _, _, _, _, htyers⟩ := bothStopped_spec s
  rw [show tyerOf (enterStopped false s) x = _ from htyers x]
  exact haltedTyer_cut _ _

/-- An action on the line cuts a tying stage short at most (R103). -/
theorem applyToLine_cut (a : Action) (s : State) (x : Station) : CutShort (tyerOf s x) (tyerOf (applyToLine a s) x) := by
  unfold applyToLine
  cases a with
  | nothing => exact .inl rfl
  | halt =>
    dsimp only
    split
    · exact .inl rfl
    · rw [(enterHalted_from s).tyers]
      exact haltedTyer_cut _ _
  | hold =>
    dsimp only
    split
    · have hbegun : tyerOf (drainBegun s) x = tyerOf s x := by
        obtain ⟨c, link, hd⟩ := drainBegun_eq s
        rw [hd]
        rfl
      by_cases he : s.track.loaves = []
      · rw [enterDraining_empty he, ← hbegun]
        exact enterStopped_cut _ _
      · rw [enterDraining_held he, hbegun]
        exact .inl rfl
    · exact .inl rfl

theorem faultActs_cut (k : FaultKind) (s : State) (x : Station) : CutShort (tyerOf s x) (tyerOf (faultActs k s) x) := by
  refine (applyToLine_cut (faultEntry s k).action s x).trans ?_
  show CutShort _ (tyerOf (settleBelt (applyToLine (faultEntry s k).action s)) x)
  unfold settleBelt
  dsimp only
  split
  · refine CutShort.trans (.inl ?_) (applyToLine_cut _ _ x)
    exact congrArg (fun v : PerStation Tyer => v.get x) (faultMoves_flagged .beltStall .latched _).tyers
  · exact .inl rfl

/-- A reaction that leaves the stations, the tyers, the records, the context and the counts as they stand. -/
def Undisturbed (u w : State) : Prop :=
  w = { u with track := { u.track with infeedHold := w.track.infeedHold }, crumb := w.crumb, sup := w.sup, link := w.link }

theorem Undisturbed.refl (u : State) : Undisturbed u u := rfl

theorem Undisturbed.trans {u v w : State} (h : Undisturbed u v) (k : Undisturbed v w) : Undisturbed u w := by
  unfold Undisturbed at h k ⊢
  rw [k]
  conv => lhs; rw [h]

theorem flagged_undisturbed {u w : State} (h : Flagged u w) : Undisturbed u w := by
  unfold Undisturbed
  rw [h]

/-- Over a track that holds a record, an action other than the entry into HALTED stops at DRAINING (R142, R146). -/
theorem applyToLine_undisturbed {a : Action} {u : State} (hne : u.track.loaves ≠ []) (ha : a ≠ .halt ∨ u.sup.line = .halted) :
    Undisturbed u (applyToLine a u) := by
  unfold applyToLine
  cases a with
  | nothing => exact Undisturbed.refl u
  | halt =>
    rw [show (if u.sup.line = .halted then u else enterHalted u) = u from if_pos (ha.resolve_left fun h => h rfl)]
    exact Undisturbed.refl u
  | hold =>
    dsimp only
    split
    · obtain ⟨c, link, hd⟩ := drainBegun_eq u
      rw [enterDraining_held hne, hd]
      rfl
    · exact Undisturbed.refl u

section
variable {k : FaultKind} {e : FaultEntry} {r : Report} {u v : State}

theorem faultOccurs_latched (k : FaultKind) (loaf : Option Nat) (u : State) :
    Turned k { faultEntry u k with
        state := .latched, count := min ((faultEntry u k).count + 1) 255, lastStamp := some (eventStamp u), lastLoaf := loaf }
      (.fault k .latched (min ((faultEntry u k).count + 1) 255)) u (faultOccurs k .latched loaf u) :=
  ⟨faultOccurs_flagged k .latched loaf u, faultOccurs_entry k .latched loaf u,
    fun j h => faultOccurs_other k j .latched loaf u (Ne.symm h), faultOccurs_hears k .latched loaf u⟩

theorem Turned.acts_entry (h : Turned k e r u v) (hk : k ≠ .beltStall) : faultEntry (faultActs k v) k = e :=
  (faultActs_entry k k v hk).trans h.entry

theorem Turned.acts_cut (h : Turned k e r u v) (x : Station) : CutShort (tyerOf u x) (tyerOf (faultActs k v) x) := by
  have hv : tyerOf v x = tyerOf u x := congrArg (fun p : PerStation Tyer => p.get x) h.flagged.tyers
  rw [← hv]
  exact faultActs_cut k v x

theorem Turned.acts_hears (h : Turned k e r u v) : Hears r 6 u (faultActs k v) := h.hears.trans (faultActs_reacts k v).tells

theorem Turned.acts_counts (h : Turned k e r u v) (x : Station) : bagCounts (faultActs k v) x = bagCounts u x := by
  obtain ⟨_, _, hrecord⟩ := (faultActs_reacts k v).record
  unfold bagCounts
  rw [hrecord, h.flagged.shift]

theorem Turned.acts_loaves (h : Turned k e r u v) : (faultActs k v).track.loaves.map unmarked = u.track.loaves.map unmarked := by
  rw [(faultActs_raised k v).loaves, h.flagged.track]

theorem Turned.acts_undisturbed (h : Turned k e r u v) (hk : k ≠ .beltStall) (hb : BeltRuns u) (hne : u.track.loaves ≠ [])
    (ha : e.action ≠ .halt ∨ u.sup.line = .halted) : Undisturbed u (faultActs k v) := by
  rw [h.acts_runs hk hb]
  refine (flagged_undisturbed h.flagged).trans (applyToLine_undisturbed ?_ ?_)
  · rw [h.flagged.track]
    exact hne
  · rw [h.flagged.line]
    exact ha

/-- A fault's action has been applied to the line, and what follows at the same event moves neither the line nor the hold: `u` stands
before the fault and `w` at the end. -/
theorem Turned.acted {s w : State} {m n : Nat} (h : Turned k e r u v) (hk : k ≠ .beltStall) (hb : BeltRuns u) (hl : u.sup.line = s.sup.line)
    (hp : u.track.loaves = [] ↔ s.track.loaves = []) (hm : Tells m s u) (hline : w.sup.line = (faultActs k v).sup.line)
    (hhold : w.track.infeedHold = (faultActs k v).track.infeedHold) (hn : Tells n (faultActs k v) w) (hmn : m + n ≤ 12) :
    ActedOnLine e.action s (finish w) := by
  rw [h.acts_runs hk hb] at hline hhold hn
  have hv : v.sup.line = s.sup.line := h.flagged.line.trans hl
  have hacted : ActedOnLine e.action s (finish (applyToLine e.action v)) :=
    actedOnLine_of hv (by rw [h.flagged.track]; exact hp) (hm.trans h.hears.toTells) (Flagged.refl _) (Tells.refl _ 0) (by omega)
  have hfinish : (finish w).sup.line = (finish (applyToLine e.action v)).sup.line ∧
      (finish w).track.infeedHold = (finish (applyToLine e.action v)).track.infeedHold := by
    rw [(finish_noticed w).line, (finish_noticed w).track, (finish_noticed (applyToLine _ v)).line, (finish_noticed (applyToLine _ v)).track]
    exact ⟨hline, hhold⟩
  obtain ⟨hwl, hwh⟩ := hfinish
  refine ⟨fun ha => hwl.trans (hacted.halts ha), fun ha hr => ?_, fun ha => hwl.trans (hacted.stays ha), fun hs hne => ?_⟩
  · rw [hwl, hwh]
    exact hacted.drains ha hr
  · rw [(finish_noticed w).line, hline] at hne ⊢
    have hmoved : (applyToLine e.action v).sup.line ≠ v.sup.line := by rwa [hv]
    exact Hears.finished (((hm.trans h.hears.toTells).hears (applyToLine_hears hmoved)).trans hn) (by omega) hs

end

/-- An event at which nothing is applied to the line. -/
theorem actedOnLine_nothing {s w : State} (hl : w.sup.line = s.sup.line) : ActedOnLine .nothing s (finish w) :=
  ⟨nofun, nofun, fun _ => (finish_noticed w).line.trans hl, fun _ hne => absurd ((finish_noticed w).line.trans hl) hne⟩

/-- The line that the transmitter begins at the end of an event is left to the reply of a request. -/
theorem ActedOnLine.unsent {a : Action} {s w : State} (h : ActedOnLine a s (finish w)) : ActedOnLine a s (evaluate .noStation w) :=
  ⟨h.halts, h.drains, h.stays, fun hs hne => (begin_queue _).subset (h.told hs hne)⟩

end Sys2Proof.BaggingStations
end

-- ==== The stations, proofs: LOAD BAGS and LOAD CLIPS ====
section
/-! LOAD BAGS and LOAD CLIPS (O33). -/

namespace Sys2Proof.BaggingStations

open Sys2Proof.Machine Sys2Proof.Safety Sys2Proof.Laws Sys2Proof.LoafTrack Sys2Proof.SwitchInputs Sys2Proof.SlicingHead

theorem clampTo_zero (high n : Nat) : clampTo 0 high n = min high n := Nat.zero_max _

/-- The end of a request that may have given a waiting loaf its station, where none waits. -/
theorem rerouted_noticed {u : State} (h : Unrouted u) : Noticed u (evaluate .noStation (route u)) := by
  rw [route_idle h]
  exact evaluate_noticed _ u

/-! ## An opening that draws -/

section
variable {x : Station} {s : State} (hd : openDraws s x = true)
include hd

/-- The record of a station that is about to draw. -/
theorem stationRec_opened_draws : stationRec (SlicingHead.opened x s) x = openingRec false (stationRec s x) ∧
    (SlicingHead.opened x s).stations.times = s.stations.times ∧ Noticed (setStation x (openingRec false (stationRec s x)) s)
      (SlicingHead.opened x s) := by
  have hline := (openDraws_iff.mp hd).2.1
  have hn := opened_noticed x s
  rw [decide_eq_false hline] at hn
  refine ⟨(Noticed.stationRec hn x).trans (stationRec_setStation_self x _ s), ?_, hn⟩
  rw [hn.stations]
  rfl

/-- A station that opens and draws under a clear bag eye awaits its bag (R80, R81). -/
theorem enterOpening_awaits (hm : (stationRec s x).magazine ≠ 0) (he : inputHigh s (.bagEye x) = false) :
    Noticed (countDrawn x (setStation x { openingRec false (stationRec s x) with
      magazine := (stationRec s x).magazine - 1, attempt := some 1, bagTimer := some s.stations.times.openTimeout } s))
      (enterOpening x s) := by
  obtain ⟨hrec, htimes, hn⟩ := stationRec_opened_draws hd
  have hdrawn : drawnRec (SlicingHead.opened x s) x 1 = { openingRec false (stationRec s x) with
      magazine := (stationRec s x).magazine - 1, attempt := some 1, bagTimer := some s.stations.times.openTimeout } := by
    unfold drawnRec
    rw [hrec, htimes]
    rfl
  have hbag := drawBag_awaits (n := 1) (by rw [hrec]; exact hm) ((Noticed.inputHigh hn _).trans he)
  rw [hdrawn] at hbag
  rw [enterOpening_draws hd]
  refine Noticed.trans ?_ hbag
  have hset := Noticed.countStation (Noticed.setStation hn x { openingRec false (stationRec s x) with
    magazine := (stationRec s x).magazine - 1, attempt := some 1, bagTimer := some s.stations.times.openTimeout }) x
    (fun c => { c with drawn := min (c.drawn + 1) 4294967295 })
  rwa [setStation_setStation] at hset

end

/-! ## LOAD BAGS -/

section
variable {x : Station} {m : Nat} {s : State}

theorem svcLoadBags_taken (n : Nat) (hx : stationFitted s.member x = true) : svcLoadBags (some ⟨x, n⟩) s =
    (loadBags x (min 9999 n) s, accepted "LOAD BAGS" [codes (stationText x), decimal (min 9999 n),
      codes (stationStateText (stationRec (loadBags x (min 9999 n) s) x).state)]) := by
  unfold svcLoadBags withForm needStation
  dsimp only
  rw [require_pass (by exact hx), needTier_pass (operator_ok s), clampTo_zero]

/-- The magazine as it has been loaded (R83). -/
abbrev magazineLoaded (x : Station) (m : Nat) (s : State) : State := setStation x { stationRec s x with magazine := m } s

/-- The magazine is loaded, with its warning. -/
abbrev loadedBags (x : Station) (m : Nat) (s : State) : State := evaluate (.bagsLow x) (magazineLoaded x m s)

theorem stationRec_loadedBags (x : Station) (m : Nat) (s : State) : stationRec (loadedBags x m s) x = { stationRec s x with magazine := m } :=
  (Noticed.stationRec (evaluate_noticed (.bagsLow x) (magazineLoaded x m s)) x).trans (stationRec_setStation_self x _ s)

theorem loadBags_eq : loadBags x m s = evaluate .noStation (route
    (if (stationRec s x).state = .empty ∧ 1 ≤ m then enterOpening x (loadedBags x m s) else loadedBags x m s)) := by
  unfold loadBags
  dsimp only
  rw [stationRec_loadedBags]
  simp only [Bool.and_eq_true, decide_eq_true_eq]

theorem loadBags_stays (hu : Unrouted s) (h : (stationRec s x).state ≠ .empty ∨ m = 0) :
    Noticed (magazineLoaded x m s) (loadBags x m s) := by
  have hn := evaluate_noticed (.bagsLow x) (magazineLoaded x m s)
  rw [loadBags_eq, if_neg fun k => h.elim (fun j => j k.1) (fun j => by omega)]
  exact hn.trans (rerouted_noticed (hu.of_same hn.track hn.head))

/-- An EMPTY station given bags opens and draws (R80, R83). -/
theorem loadBags_draws (hu : Unrouted s) (he : (stationRec s x).state = .empty) (hm : 1 ≤ m) (hh : (stationRec s x).held = false)
    (hl : s.sup.line ≠ .halted) (hbag : Held s (.bagEye x)) (hblow : Held s (.blower x)) (heye : inputHigh s (.bagEye x) = false) :
    Noticed (countDrawn x (setStation x { stationRec s x with
      state := .opening, magazine := m - 1, attempt := some 1, tag := none, travel := none
      bagTimer := some s.stations.times.openTimeout, scoopTimer := none, releaseTimer := none } s)) (loadBags x m s) := by
  have hload := evaluate_noticed (.bagsLow x) (magazineLoaded x m s)
  have hrec := stationRec_loadedBags x m s
  have hdraws : openDraws (loadedBags x m s) x = true := openDraws_iff.mpr
    ⟨by rw [hrec]; exact hh, by rw [hload.line]; exact hl, (inputs_same (s := s) hload.points _).1.trans hbag,
      (inputs_same (s := s) hload.points _).1.trans hblow⟩
  have hopen := enterOpening_awaits hdraws (by rw [hrec]; exact Nat.one_le_iff_ne_zero.mp hm)
    ((inputs_same (s := s) hload.points _).2.trans heye)
  have hset := (Noticed.countStation (Noticed.setStation hload x { stationRec s x with
    state := .opening, magazine := m - 1, attempt := some 1, tag := none, travel := none
    bagTimer := some s.stations.times.openTimeout, scoopTimer := none, releaseTimer := none }) x
    (fun c => { c with drawn := min (c.drawn + 1) 4294967295 }))
  rw [setStation_setStation] at hset
  have hrec' : { openingRec false (stationRec (loadedBags x m s) x) with
      magazine := (stationRec (loadedBags x m s) x).magazine - 1, attempt := some 1
      bagTimer := some (loadedBags x m s).stations.times.openTimeout } = { stationRec s x with
      state := .opening, magazine := m - 1, attempt := some 1, tag := none, travel := none
      bagTimer := some s.stations.times.openTimeout, scoopTimer := none, releaseTimer := none } := by
    rw [hrec, hload.stations]
    simp [openingRec, hh]
    rfl
  rw [hrec'] at hopen
  have hall := hset.trans hopen
  rw [loadBags_eq, if_pos ⟨he, hm⟩]
  exact hall.trans (rerouted_noticed ((hu.of_same (t := countDrawn x (magazineLoaded x m s)) rfl rfl).of_same hall.track hall.head))

end

/-! ## LOAD CLIPS -/

section
variable {x : Station} {mm : Nat} {s : State}

theorem svcLoadClips_taken (n : Nat) (hx : stationFitted s.member x = true) (ht : tyerFitted s x = true) :
    svcLoadClips (some ⟨x, n⟩) s =
      (loadClips x (min 999999 n) s, accepted "LOAD CLIPS" [codes (stationText x), decimal (min 999999 n)]) := by
  unfold svcLoadClips withForm needStation
  dsimp only
  rw [require_pass (by exact hx), require_pass (by exact ht), needTier_pass (operator_ok s), clampTo_zero]

/-- The spool as it has been loaded (R105). -/
abbrev spoolLoaded (x : Station) (mm : Nat) (s : State) : State := setTyer x { tyerOf s x with spool := mm, clipsOut := false } s

/-- Where CLIPS_OUT_x does not stand ACTIVE, the spool is all that moves. -/
theorem loadClips_quiet (h : (faultEntry s (.clipsOut x)).state ≠ .active) : Noticed (spoolLoaded x mm s) (loadClips x mm s) := by
  unfold loadClips
  dsimp only
  rw [setCondition_absent (s := spoolLoaded x mm s) h]
  exact (evaluate_noticed _ _).trans (evaluate_noticed _ _)

/-- An ACTIVE CLIPS_OUT_x becomes LATCHED, with its action (R105, R146). -/
theorem loadClips_latches (h : (faultEntry s (.clipsOut x)).state = .active) :
    (faultEntry (loadClips x mm s) (.clipsOut x)).state = .latched ∧ (tyerOf (loadClips x mm s) x).spool = mm ∧
      (tyerOf (loadClips x mm s) x).clipsOut = false ∧
      (BeltRuns s → ActedOnLine (faultEntry s (.clipsOut x)).action s (loadClips x mm s)) := by
  have hturn := faultMoves_turned (.clipsOut x) (spoolLoaded x mm s)
  have hloads : loadClips x mm s = evaluate .noStation (evaluate (.clipsLow x) (faultActs (.clipsOut x)
      (faultMoves (.clipsOut x) .latched (spoolLoaded x mm s)))) := by
    unfold loadClips
    dsimp only
    rw [setCondition_leaves (s := spoolLoaded x mm s) h]
  have hlow := evaluate_noticed (.clipsLow x) (faultActs (.clipsOut x) (faultMoves (.clipsOut x) .latched (spoolLoaded x mm s)))
  have hn := hlow.trans (evaluate_noticed .noStation _)
  obtain ⟨hspool, hout⟩ := (Turned.acts_cut hturn x).stock
  have htyer : tyerOf (spoolLoaded x mm s) x = { tyerOf s x with spool := mm, clipsOut := false } := tyerOf_setTyer_self x _ s
  rw [htyer] at hspool hout
  have hk : FaultKind.clipsOut x ≠ .beltStall := nofun
  rw [hloads, (Noticed.calm hn).entry, Noticed.tyerOf hn, Turned.acts_entry hturn hk]
  refine ⟨rfl, hspool, hout, fun hb => ActedOnLine.unsent ?_⟩
  have hm : Tells 0 s (spoolLoaded x mm s) := Tells.of_link rfl 0
  have hacted := Turned.acted (s := s) hturn hk hb rfl Iff.rfl hm hlow.line
    (congrArg Track.infeedHold hlow.track) (evaluate_tells _ _) (by decide)
  exact hacted

end

/-- Settles O33: the magazine and the spool loaded, an EMPTY station that draws, and a CLIPS_OUT that is ended. -/
theorem loadsReplaceStock : Obligations.LoadsReplaceStock := by
  intro x n s hf hx htransfer heject hpass
  have hu : Unrouted s := ⟨htransfer, heject, hpass⟩
  refine ⟨fun h => ?_, fun he hn hh hl hbag hblow heye => ?_, fun ht => ?_⟩
  · have hm : (stationRec s x).state ≠ .empty ∨ min 9999 n = 0 := h.imp_right fun h => by omega
    have hnote := loadBags_stays hu hm
    refine ⟨_, taken hf ((svcLoadBags_taken n hx).trans ?_), hnote⟩
    rw [Noticed.stationRec hnote, stationRec_setStation_self]
  · have hnote := loadBags_draws hu he (m := min 9999 n) (by omega) hh hl hbag hblow heye
    have hstate : (stationRec (loadBags x (min 9999 n) s) x).state = .opening := by
      rw [Noticed.stationRec hnote]
      exact congrArg StationRec.state (stationRec_setStation_self x _ s)
    refine ⟨_, taken hf ((svcLoadBags_taken n hx).trans ?_), hnote⟩
    rw [hstate]
    rfl
  · refine ⟨_, taken hf (svcLoadClips_taken n hx ht), loadClips_quiet, fun h => ?_⟩
    exact ⟨(loadClips_steady x _ s).aside, loadClips_latches h⟩

end Sys2Proof.BaggingStations
end

-- ==== The stations, proofs: the bag eyes ====
section
/-! The bag eye covered and clear (O35). -/

namespace Sys2Proof.BaggingStations

open Sys2Proof.Machine Sys2Proof.Safety Sys2Proof.Laws Sys2Proof.LoafTrack Sys2Proof.SwitchInputs Sys2Proof.SlicingHead

/-! ## The bag eye covered -/

section
variable {x : Station} {d : State}

theorem bagCovered_ready (hs : (stationRec d x).state = .opening) (ha : (stationRec d x).attempt ≠ none) (hl : d.sup.line ≠ .halted) :
    bagCovered x d = stationReady x d := by
  unfold bagCovered
  rw [hs, decide_eq_true hl, Option.isSome_iff_ne_none.mpr ha]
  rfl

/-- No station but one that awaits its bag takes a bag eye that is covered, and none in HALTED (R81, R94). -/
theorem bagCovered_idle (h : (stationRec d x).state ≠ .opening ∨ (stationRec d x).attempt = none ∨ d.sup.line = .halted) :
    bagCovered x d = d := by
  refine if_neg fun k => ?_
  simp only [Bool.and_eq_true, decide_eq_true_eq] at k
  obtain ⟨⟨hs, ha⟩, hl⟩ := k
  rcases h with h | h | h
  · exact h hs
  · rw [h] at ha
    cases ha
  · exact hl h

/-! ## The bag eye clear -/

theorem bagCleared_releases (hs : (stationRec d x).state = .releasing) (hl : d.sup.line ≠ .halted) : bagCleared x d = releaseLoaf x d := by
  unfold bagCleared
  rw [if_neg hl, hs]

theorem bagCleared_wastes (hs : (stationRec d x).state = .ready) (hl : d.sup.line ≠ .halted) :
    bagCleared x d = enterOpening x (wasteBag x d) := by
  unfold bagCleared
  rw [if_neg hl, hs]

/-- No other station takes a bag eye that is clear, and none in HALTED (R89, R94). -/
theorem bagCleared_idle (h : ((stationRec d x).state ≠ .releasing ∧ (stationRec d x).state ≠ .ready) ∨ d.sup.line = .halted) :
    bagCleared x d = d := by
  unfold bagCleared
  split
  · rfl
  · rename_i hl
    obtain ⟨hr, hb⟩ := h.resolve_right hl
    split
    · exact absurd ‹_› hr
    · exact absurd ‹_› hb
    · rfl

/-- A bag lost at a READY station is counted, and the next is opened (R81). -/
theorem wasteBag_reopens (he : inputHigh d (.bagEye x) = false) : let t := enterOpening x (wasteBag x d)
    Aloof d t ∧ Reopened (stationRec t x) ∧ (bagCounts t x).wasted = min ((bagCounts d x).wasted + 1) 4294967295 := by
  have hw := wasteBag_becomes x d
  have ho := enterOpening_unready (x := x) (s := wasteBag x d) (.inr he)
  refine ⟨hw.aloof.trans ho.aloof, enterOpening_reopened (.inr he), ?_⟩
  rw [ho.counts, (drewCounts_keeps _ _ _).1, hw.counts]

end

/-- The record of the released loaf, and no other, has moved (R14, R89). -/
theorem outfed_track {x : Station} {r : Loaf} {d : State} (hr : findLoaf d r.tag = some r) (hz : r.zone = .station x) :
    (outfed x r.tag d).track = (modifyLoaf r.tag (fun l => { l with
      zone := .outfeed, check := some ⟨.exit, (d.track.geometry.dExit + 200) * d.track.geometry.k / 100⟩ }) d).track :=
  have hmove := moveLoaf_eq (fun l => { l with zone := .outfeed, check := some (armedCheck d .exit) }) hr hz
  have htrack := congrArg State.track hmove
  htrack

theorem stationLoaf_find {x : Station} {s : State} {r : Loaf} (h : stationLoaf s x = some r) :
    (stationRec s x).tag = some r.tag ∧ findLoaf s r.tag = some r := by
  obtain ⟨n, hn, hr⟩ := Option.bind_eq_some_iff.mp h
  rw [findLoaf_tag hr]
  exact ⟨hn, hr⟩

/-- Settles O35: each edge of a bag eye by the state of its station. -/
theorem bagEyeEdges : Obligations.BagEyeEdges := by
  intro x s hheld
  have hlead : exec (.bagEyeLeadingEdge x) s = .next (finish (bagCovered x (driveInput (.bagEye x) true s))) :=
    congrArg Host.Outcome.next (inputEdge_held hheld)
  have htrail : exec (.bagEyeTrailingEdge x) s = .next (finish (bagCleared x (driveInput (.bagEye x) false s))) :=
    congrArg Host.Outcome.next (inputEdge_held hheld)
  have hclear : inputHigh (driveInput (.bagEye x) false s) (.bagEye x) = false := inputHigh_driven false hheld
  rw [hlead, htrail]
  obtain ⟨ps, n, hdriven⟩ := driveInput_driven (.bagEye x) true s
  obtain ⟨qs, m, hdropped⟩ := driveInput_driven (.bagEye x) false s
  have hd : Aside s (driveInput (.bagEye x) false s) := driveInput_steady _ _ s
  have hsteady := (bagCleared_steady x (driveInput (.bagEye x) false s)).trans (finish_steady _)
  rw [hdropped] at hclear hd hsteady ⊢
  rw [hdriven]
  have hn := finish_noticed (bagCleared x { s with points := qs, fresh := m })
  refine ⟨fun hs ha hl hz he hp => ⟨_, rfl, ?_⟩, fun h => ⟨_, rfl, ?_⟩, fun r hs hl hr hz => ⟨_, rfl, Aside.trans hd hsteady.aside, ?_⟩,
    fun hs hl => ⟨_, rfl, Aside.trans hd hsteady.aside, ?_⟩, fun h => ⟨_, rfl, ?_⟩⟩
  · have hu : Unrouted { s with points := ps, fresh := n } := ⟨hz, he, hp⟩
    have hready := bagCovered_ready (x := x) (d := { s with points := ps, fresh := n }) hs ha hl
    rw [hready, stationReady_idle hu]
    exact finish_noticed _
  · rw [bagCovered_idle (d := { s with points := ps, fresh := n }) h]
    exact finish_noticed _
  · obtain ⟨htag, hfind⟩ := stationLoaf_find hr
    have hfree := releaseLoaf_freed (w := { s with points := qs, fresh := m }) hclear htag
    have htrack := outfed_track (x := x) (d := { s with points := qs, fresh := m }) hfind hz
    have hin : inService (outfed x r.tag { s with points := qs, fresh := m }) x = inService s x := inService_outfed x r.tag _
    rw [bagCleared_releases (d := { s with points := qs, fresh := m }) hs hl] at hn ⊢
    rw [hn.track, Noticed.stationRec hn, hfree.aloof.track]
    exact ⟨htrack, hfree.tag, hfree.wait, fun h => hfree.opens (hin.trans h), fun h => hfree.out (hin.trans h)⟩
  · obtain ⟨haloof, hopen, hwasted⟩ := wasteBag_reopens hclear
    rw [bagCleared_wastes (d := { s with points := qs, fresh := m }) hs hl] at hn ⊢
    rw [hn.track, hn.shift, Noticed.stationRec hn, haloof.track]
    exact ⟨rfl, hwasted, hopen.state⟩
  · rw [bagCleared_idle (d := { s with points := qs, fresh := m }) h]
    exact finish_noticed _

end Sys2Proof.BaggingStations
end

-- ==== The stations, proofs: SET STATION and the other settings ====
section
/-! SET DISTRIBUTION, SET STATION, SET BAGGING and SET TYER (O34). -/

namespace Sys2Proof.BaggingStations

open Sys2Proof.Machine Sys2Proof.Safety Sys2Proof.Laws Sys2Proof.LoafTrack Sys2Proof.SwitchInputs Sys2Proof.SlicingHead

/-! ## An opening, with nothing waiting -/

section
variable {x : Station} {s : State}

/-- A station that opens and draws under a covered bag eye is READY at once (R80, R81). -/
theorem enterOpening_opens (hd : openDraws s x = true) (hm : (stationRec s x).magazine ≠ 0) (he : inputHigh s (.bagEye x) = true)
    (hu : Unrouted s) : Noticed (countDrawn x (setStation x { openingRec false (stationRec s x) with
      state := .ready, magazine := (stationRec s x).magazine - 1 } s)) (enterOpening x s) := by
  obtain ⟨hrec, _, hn⟩ := stationRec_opened_draws hd
  have hbag := drawBag_opens (n := 1) (by rw [hrec]; exact hm) ((Noticed.inputHigh hn _).trans he)
    (hu.of_same (t := SlicingHead.opened x s) hn.track hn.head)
  rw [hrec] at hbag
  rw [enterOpening_draws hd]
  refine Noticed.trans ?_ hbag
  have hset := Noticed.countStation (Noticed.setStation hn x { openingRec false (stationRec s x) with
    state := .ready, magazine := (stationRec s x).magazine - 1 }) x (fun c => { c with drawn := min (c.drawn + 1) 4294967295 })
  rwa [setStation_setStation] at hset

/-- A station as an opening leaves it: it does not draw, awaits its bag, or is READY. -/
structure OpenedTo (x : Station) (s t : State) : Prop where
  track : t.track = s.track
  head : t.head = s.head
  waits : openDraws s x = false → stationRec t x = openingRec (decide (s.sup.line = .halted)) (stationRec s x)
  draws : openDraws s x = true → (stationRec s x).magazine ≠ 0 → (stationRec t x).magazine = (stationRec s x).magazine - 1 ∧
    (inputHigh s (.bagEye x) = true → (stationRec t x).state = .ready) ∧
    (inputHigh s (.bagEye x) = false → (stationRec t x).state = .opening ∧ (stationRec t x).attempt = some 1)
  kept : (stationRec s x).magazine ≠ 0 ∨ s.sup.line = .halted → (stationRec t x).bagClass = (stationRec s x).bagClass ∧
    (stationRec t x).inServiceFlag = (stationRec s x).inServiceFlag ∧ (stationRec t x).misties = (stationRec s x).misties

theorem enterOpening_openedTo (hu : Unrouted s) (hm : (stationRec s x).magazine ≠ 0 ∨ s.sup.line = .halted) :
    OpenedTo x s (enterOpening x s) := by
  cases hd : openDraws s x with
  | false =>
    have hn := opened_noticed x s
    have hrec := (Noticed.stationRec hn x).trans (stationRec_setStation_self x _ s)
    rw [enterOpening_waits hd]
    exact ⟨hn.track, hn.head, fun _ => hrec, fun h => (nomatch hd.symm.trans h), fun _ => by rw [hrec]; exact ⟨rfl, rfl, rfl⟩⟩
  | true =>
    have hm := hm.resolve_right (openDraws_iff.mp hd).2.1
    cases he : inputHigh s (.bagEye x) with
    | false =>
      have hn := enterOpening_awaits hd hm he
      have hrec := (Noticed.stationRec hn x).trans (stationRec_setStation_self x _ s)
      refine ⟨hn.track, hn.head, fun h => (nomatch hd.symm.trans h), fun _ _ => ?_, fun _ => by rw [hrec]; exact ⟨rfl, rfl, rfl⟩⟩
      rw [hrec]
      exact ⟨rfl, fun h => (nomatch he.symm.trans h), fun _ => ⟨rfl, rfl⟩⟩
    | true =>
      have hn := enterOpening_opens hd hm he hu
      have hrec := (Noticed.stationRec hn x).trans (stationRec_setStation_self x _ s)
      refine ⟨hn.track, hn.head, fun h => (nomatch hd.symm.trans h), fun _ _ => ?_, fun _ => by rw [hrec]; exact ⟨rfl, rfl, rfl⟩⟩
      rw [hrec]
      exact ⟨rfl, fun _ => rfl, fun h => (nomatch he.symm.trans h)⟩

end

/-! ## SET DISTRIBUTION, SET BAGGING and SET TYER -/

section
variable {s : State}

theorem svcSetDistribution_taken (p : Policy) (hm : s.member = .bl340) (ht : tierOk s .setter = true) :
    svcSetDistribution (some (some p)) s =
      (evaluate .noStation (route (s.setStations { s.stations with policy := p })), accepted "SET DISTRIBUTION" [codes (policyText p)]) := by
  unfold svcSetDistribution withForm
  dsimp only
  rw [require_pass (by exact decide_eq_true hm), needTier_pass ht]

theorem svcSetDistribution_absent (p : Option Policy) (hm : s.member = .bl320) : svcSetDistribution (some p) s = (s, refusal .notFitted) := by
  unfold svcSetDistribution withForm
  dsimp only
  rw [require_fail (by rw [hm]; rfl)]
  rfl

theorem svcSetBagging_taken (a b : Nat) (ht : tierOk s .setter = true) : svcSetBagging (some ⟨a, b⟩) s =
    (s.setStations { s.stations with times := ⟨clampTo 100 1000 a, clampTo 50 500 b⟩ },
      accepted "SET BAGGING" [decimal (clampTo 100 1000 a), decimal (clampTo 50 500 b)]) := by
  unfold svcSetBagging withForm
  dsimp only
  rw [needTier_pass ht]

/-- An unfitted tyer keeps its stored values, and the reply gives zeros (R98, R106). -/
theorem svcSetTyer_taken {x : Station} (v : TyerSettings) (hx : stationFitted s.member x = true) (ht : tierOk s .setter = true) :
    svcSetTyer (some ⟨x, v⟩) s = if tyerFitted s x then
      (evaluate (.clipsLow x) (setTyer x { tyerOf s x with settings := clampTyer v } s), accepted "SET TYER" (tyerFields (clampTyer v)))
    else (s, accepted "SET TYER" (List.replicate 5 (decimal 0))) := by
  unfold svcSetTyer withForm needStation
  dsimp only
  rw [require_pass (by exact hx), needTier_pass ht]
  rfl

end

/-! ## The loss of service, and the return -/

section
variable {x : Station} {s : State}

theorem serviceLost_ready (h : (stationRec s x).state = .ready) : serviceLost x s = stationOut x (wasteBag x s) := by
  unfold serviceLost
  dsimp only
  rw [h]

/-- A station that awaits its bag, or has none, is out of service at once; the bag drawn is wasted (R90). -/
theorem serviceLost_empty (h : (stationRec s x).state = .opening ∨ (stationRec s x).state = .empty) : serviceLost x s =
    stationOut x (if (stationRec s x).state = .opening ∧ (stationRec s x).attempt ≠ none then wasteBag x s else s) := by
  unfold serviceLost
  dsimp only
  rcases h with h | h
  · rw [h]
    cases (stationRec s x).attempt <;> rfl
  · rw [h]
    simp

/-- A station with a loaf keeps its cycle up to the release (R90). -/
theorem serviceLost_keeps (h : (stationRec s x).state = .filling ∨ (stationRec s x).state = .tying ∨ (stationRec s x).state = .releasing) :
    serviceLost x s = s := by
  unfold serviceLost
  dsimp only
  rcases h with h | h | h <;> rw [h]

/-- The count of misties begins again (R102). -/
abbrev forgiven (x : Station) (s : State) : State := setStation x { stationRec s x with misties := 0 } s

theorem stationRec_forgiven (x : Station) (s : State) : stationRec (forgiven x s) x = { stationRec s x with misties := 0 } :=
  stationRec_setStation_self x _ s

theorem serviceBack_keeps (h : (stationRec s x).state ≠ .outOfService) : serviceBack x s = forgiven x s := by
  unfold serviceBack
  dsimp only
  rw [stationRec_forgiven]
  split
  · exact absurd ‹_› h
  · rfl

theorem serviceBack_out (h : (stationRec s x).state = .outOfService) : serviceBack x s =
    if (stationRec s x).magazine = 0 ∧ s.sup.line ≠ .halted then stationEmpties x (forgiven x s) else enterOpening x (forgiven x s) := by
  unfold serviceBack
  dsimp only
  rw [stationRec_forgiven]
  split
  · simp only [Bool.and_eq_true, decide_eq_true_eq]
  · exact absurd h ‹_›

end

/-! ## SET STATION -/

section
variable {x : Station} {cls : Nat} {s : State}

theorem svcSetStation_taken (flag : Bool) (hx : stationFitted s.member x = true) (hc : cls ≤ 3) (ht : tierOk s .setter = true) :
    svcSetStation (some ⟨x, cls, if flag then 1 else 0⟩) s = (setStationService x cls flag s, accepted "SET STATION"
      [codes (stationText x), decimal cls, decimal (if flag then 1 else 0),
        codes (stationStateText (stationRec (setStationService x cls flag s) x).state)]) := by
  have hw : (within 0 3 cls && within 0 1 (if flag then 1 else 0)) = true := by
    rw [within_iff.mpr ⟨Nat.zero_le _, hc⟩]
    cases flag <;> rfl
  have hflag : decide ((if flag then 1 else 0) = 1) = flag := by cases flag <;> rfl
  unfold svcSetStation withForm needStation
  dsimp only
  rw [require_pass (by exact hx), require_pass (by exact hw), needTier_pass ht, hflag]

/-- The class and the flag as they have been set (R92). -/
abbrev serviceSet (x : Station) (cls : Nat) (flag : Bool) (s : State) : State :=
  setStation x { stationRec s x with bagClass := cls, inServiceFlag := flag } s

theorem stationRec_serviceSet (x : Station) (cls : Nat) (flag : Bool) (s : State) :
    stationRec (serviceSet x cls flag s) x = { stationRec s x with bagClass := cls, inServiceFlag := flag } :=
  stationRec_setStation_self x _ s

section
variable (hu : Unrouted s)
include hu

/-- What the change of the flag makes of the station, where nothing else waits. -/
theorem setStationService_ends {flag : Bool} {u : State} (ht : u.track = s.track) (hh : u.head = s.head)
    (h : setStationService x cls flag s = evaluate .noStation (route u)) : Noticed u (setStationService x cls flag s) := by
  rw [h]
  exact rerouted_noticed (hu.of_same ht hh)

/-- Without a change of the flag, or under a fault hold, the settings are all that change. -/
theorem setStationService_settings {flag : Bool}
    (h : flag = (stationRec s x).inServiceFlag ∨ (flag = true ∧ faultHold s x = true)) :
    Noticed (serviceSet x cls flag s) (setStationService x cls flag s) := by
  refine setStationService_ends hu rfl rfl ?_
  have hhold : faultHold (serviceSet x cls flag s) x = faultHold s x := rfl
  unfold setStationService
  dsimp only
  rw [hhold]
  rcases h with h | ⟨h, hf⟩
  · rw [h]
    simp
  · rw [h, hf]
    simp

theorem setStationService_loses (hflag : (stationRec s x).inServiceFlag = true) {u : State}
    (h : serviceLost x (serviceSet x cls false s) = u) (ht : u.track = s.track) (hh : u.head = s.head) :
    Noticed u (setStationService x cls false s) := by
  refine setStationService_ends hu ht hh ?_
  unfold setStationService
  dsimp only
  rw [hflag, ← h]
  rfl

theorem setStationService_returns (hflag : (stationRec s x).inServiceFlag = false) (hf : faultHold s x = false) {u : State}
    (h : serviceBack x (serviceSet x cls true s) = u) (ht : u.track = s.track) (hh : u.head = s.head) :
    Noticed u (setStationService x cls true s) := by
  refine setStationService_ends hu ht hh ?_
  have hhold : faultHold (serviceSet x cls true s) x = false := hf
  unfold setStationService
  dsimp only
  rw [hflag, hhold, ← h]
  rfl

end

end

/-! ### The flag cleared -/

section
variable {x : Station} {cls : Nat} {s : State} (hu : Unrouted s) (hflag : (stationRec s x).inServiceFlag = true)
include hu hflag

theorem setStation_clears_ready (h : (stationRec s x).state = .ready) :
    Noticed (countStation x (fun c => { c with wasted := min (c.wasted + 1) 4294967295 })
      (setStation x (outRec { stationRec s x with bagClass := cls, inServiceFlag := false }) s)) (setStationService x cls false s) := by
  have hrec := stationRec_serviceSet x cls false s
  have hout : Noticed (setStation x (outRec (stationRec (wasteBag x (serviceSet x cls false s)) x)) (wasteBag x (serviceSet x cls false s)))
      (stationOut x (wasteBag x (serviceSet x cls false s))) := evaluate_noticed _ _
  have hend := setStationService_loses hu hflag (serviceLost_ready (by rw [hrec]; exact h)) hout.track hout.head
  rw [(wasteBag_becomes x _).record, hrec] at hout
  refine Noticed.trans (Noticed.of_eq ?_) (hout.trans hend)
  cases x <;> rfl

theorem setStation_clears_empty (h : (stationRec s x).state = .opening ∨ (stationRec s x).state = .empty) :
    let t := setStationService x cls false s
    (stationRec t x).state = .outOfService ∧ (stationRec t x).held = false ∧ (stationRec t x).attempt = none ∧
      (bagCounts t x).wasted = if (stationRec s x).state = .opening ∧ (stationRec s x).attempt ≠ none then
        min ((bagCounts s x).wasted + 1) 4294967295 else (bagCounts s x).wasted := by
  have hrec := stationRec_serviceSet x cls false s
  have hlost := serviceLost_empty (x := x) (s := serviceSet x cls false s) (by rw [hrec]; exact h)
  simp only [hrec] at hlost
  have hwaste : Aloof s (if (stationRec s x).state = .opening ∧ (stationRec s x).attempt ≠ none then wasteBag x (serviceSet x cls false s)
      else serviceSet x cls false s) ∧ (bagCounts (if (stationRec s x).state = .opening ∧ (stationRec s x).attempt ≠ none then
        wasteBag x (serviceSet x cls false s) else serviceSet x cls false s) x).wasted =
      if (stationRec s x).state = .opening ∧ (stationRec s x).attempt ≠ none then
        min ((bagCounts s x).wasted + 1) 4294967295 else (bagCounts s x).wasted := by
    have hset := setStation_becomes x { stationRec s x with bagClass := cls, inServiceFlag := false } s
    have hw := wasteBag_becomes x (serviceSet x cls false s)
    split
    · exact ⟨hset.aloof.trans hw.aloof, by rw [hw.counts, hset.counts]⟩
    · exact ⟨hset.aloof, by rw [hset.counts]⟩
  obtain ⟨haloof, hcount⟩ := hwaste
  have hout := stationOut_becomes x (if (stationRec s x).state = .opening ∧ (stationRec s x).attempt ≠ none then
    wasteBag x (serviceSet x cls false s) else serviceSet x cls false s)
  have hall := haloof.trans hout.aloof
  have hend := setStationService_loses hu hflag hlost hall.track hall.head
  intro t
  rw [Noticed.stationRec hend, show bagCounts t x = _ from congrArg (fun v : Shift => v.openRecord.stations.get x) hend.shift, hout.record]
  exact ⟨rfl, rfl, rfl, by rw [← hcount]; exact congrArg StationCounts.wasted hout.counts⟩

theorem setStation_clears_loaf (h : (stationRec s x).state = .filling ∨ (stationRec s x).state = .tying ∨
      (stationRec s x).state = .releasing) : Noticed (serviceSet x cls false s) (setStationService x cls false s) :=
  setStationService_loses hu hflag (serviceLost_keeps (by rw [stationRec_serviceSet]; exact h)) rfl rfl

end

/-! ### The flag set -/

/-- The station whose flag has been set, its misties forgotten, before it opens (R92, R102). -/
abbrev regained (x : Station) (cls : Nat) (s : State) : State :=
  setStation x { stationRec s x with bagClass := cls, inServiceFlag := true, misties := 0 } s

theorem stationRec_regained (x : Station) (cls : Nat) (s : State) :
    stationRec (regained x cls s) x = { stationRec s x with bagClass := cls, inServiceFlag := true, misties := 0 } :=
  stationRec_setStation_self x _ s

section
variable {x : Station} {cls : Nat} {s : State} (hu : Unrouted s) (hflag : (stationRec s x).inServiceFlag = false)
  (hf : faultHold s x = false)
include hu hflag hf

theorem setStation_sets_loaf (h : (stationRec s x).state ≠ .outOfService) :
    Noticed (regained x cls s) (setStationService x cls true s) := by
  have hrec := stationRec_serviceSet x cls true s
  have hback := serviceBack_keeps (x := x) (s := serviceSet x cls true s) (by rw [hrec]; exact h)
  rw [forgiven, hrec, setStation_setStation] at hback
  exact setStationService_returns hu hflag hf hback rfl rfl

/-- The station that returns opens, or is EMPTY without bags where the line is not HALTED (R91). -/
theorem setStation_sets_out (h : (stationRec s x).state = .outOfService) :
    Noticed (if (stationRec s x).magazine = 0 ∧ s.sup.line ≠ .halted then stationEmpties x (regained x cls s)
      else enterOpening x (regained x cls s))
      (setStationService x cls true s) := by
  have hrec := stationRec_serviceSet x cls true s
  have hback := serviceBack_out (x := x) (s := serviceSet x cls true s) (by rw [hrec]; exact h)
  rw [forgiven, hrec, setStation_setStation] at hback
  have hub : Unrouted (regained x cls s) := hu.of_same rfl rfl
  have hrecb := stationRec_regained x cls s
  refine setStationService_returns hu hflag hf hback ?_ ?_
  · split
    · exact (stationEmpties_noticed x _).track
    · refine (enterOpening_openedTo hub ?_).track
      rw [hrecb]
      tauto
  · split
    · exact (stationEmpties_noticed x _).head
    · refine (enterOpening_openedTo hub ?_).head
      rw [hrecb]
      tauto

/-- The station as it stands after its return from OUT_OF_SERVICE (R80, R81, R91, R94). -/
theorem setStation_returned (h : (stationRec s x).state = .outOfService) : let t := setStationService x cls true s
    let held := Held s (.bagEye x) ∧ Held s (.blower x)
    (stationRec t x).bagClass = cls ∧ (stationRec t x).inServiceFlag = true ∧ (stationRec t x).misties = 0 ∧
      (s.sup.line = .halted → (stationRec t x).state = .opening ∧ (stationRec t x).held = true ∧ (stationRec t x).attempt = none ∧
        (stationRec t x).magazine = (stationRec s x).magazine) ∧
      (s.sup.line ≠ .halted → (stationRec s x).magazine = 0 → (stationRec t x).state = .empty) ∧
      (s.sup.line ≠ .halted → 1 ≤ (stationRec s x).magazine → (stationRec s x).held = false →
        (¬held → (stationRec t x).state = .opening ∧ (stationRec t x).attempt = none) ∧
        (held → (stationRec t x).magazine = (stationRec s x).magazine - 1 ∧
          (inputHigh s (.bagEye x) = true → (stationRec t x).state = .ready) ∧
          (inputHigh s (.bagEye x) = false → (stationRec t x).state = .opening ∧ (stationRec t x).attempt = some 1))) := by
  have hrec := stationRec_regained x cls s
  have hreturn := setStation_sets_out (cls := cls) hu hflag hf h
  have hub : Unrouted (regained x cls s) := hu.of_same rfl rfl
  intro t held
  have ht : ∀ u, Noticed u t → stationRec t x = stationRec u x := fun u hn => Noticed.stationRec hn x
  by_cases he : (stationRec s x).magazine = 0 ∧ s.sup.line ≠ .halted
  · rw [if_pos he] at hreturn
    rw [ht _ hreturn, (stationEmpties_becomes x _).record, hrec]
    exact ⟨rfl, rfl, rfl, fun hl => absurd hl he.2, fun _ _ => rfl, fun _ hm => absurd he.1 (Nat.one_le_iff_ne_zero.mp hm)⟩
  · rw [if_neg he] at hreturn
    have hmag : (stationRec s x).magazine ≠ 0 ∨ s.sup.line = .halted := by tauto
    obtain ⟨-, -, hwaits, hdraws, hkept⟩ := enterOpening_openedTo hub (x := x) (by rw [hrec]; exact hmag)
    simp only [hrec] at hwaits hdraws hkept
    obtain ⟨hclass, hservice, hmisties⟩ := hkept hmag
    have hdue : openDraws (regained x cls s) x = true ↔
        (stationRec s x).held = false ∧ s.sup.line ≠ .halted ∧ held := by
      rw [openDraws_iff, hrec]
      exact Iff.rfl
    rw [ht _ hreturn]
    refine ⟨hclass, hservice, hmisties, fun hl => ?_, fun hl hm => absurd ⟨hm, hl⟩ he, fun hl hm hh => ⟨fun hn => ?_, fun hd => ?_⟩⟩
    · rw [hwaits (Bool.eq_false_iff.mpr fun k => (hdue.mp k).2.1 hl)]
      refine ⟨rfl, ?_, rfl, rfl⟩
      show (_ || decide (s.sup.line = .halted)) = true
      rw [decide_eq_true hl, Bool.or_true]
    · rw [hwaits (Bool.eq_false_iff.mpr fun k => hn (hdue.mp k).2.2)]
      exact ⟨rfl, rfl⟩
    · exact hdraws (hdue.mpr ⟨hh, hl, hd⟩) (Nat.one_le_iff_ne_zero.mp hm)

end

/-- Settles O34: the settings taken, a station whose flag is cleared and one whose flag is set, and the tyer's settings. -/
theorem stationSettings : Obligations.StationSettings := by
  intro s hfree ht hz he hp
  have hu : Unrouted s := ⟨hz, he, hp⟩
  refine ⟨fun hm p => ⟨_, taken hfree (svcSetDistribution_taken p hm ht), rerouted_noticed (hu.of_same rfl rfl)⟩,
    fun hm p => taken hfree (svcSetDistribution_absent p hm), fun x cls hx hc => ?_, fun a b => taken hfree (svcSetBagging_taken a b ht),
    fun x v hx => ⟨fun hy => ?_, fun hy => ?_⟩⟩
  · have hreply := fun flag => svcSetStation_taken (cls := cls) flag hx hc ht
    have hstate : ∀ {u : State} {flag : Bool}, Noticed u (setStationService x cls flag s) →
        (stationRec (setStationService x cls flag s) x).state = (stationRec u x).state := fun hn => by rw [Noticed.stationRec hn]
    refine ⟨?_, fun hflag => ⟨fun h => ?_, fun h => ?_, fun h => ?_⟩, fun hflag => ?_⟩
    · have hn := setStationService_settings (x := x) (cls := cls) hu (.inl rfl)
      refine ⟨_, taken hfree ((hreply _).trans ?_), hn⟩
      rw [hstate hn, stationRec_serviceSet]
    · have hn := setStation_clears_ready (cls := cls) hu hflag h
      have hout : (stationRec (setStationService x cls false s) x).state = .outOfService := by
        rw [hstate hn]
        exact congrArg StationRec.state (stationRec_setStation_self x _ s)
      refine ⟨_, taken hfree ((hreply false).trans ?_), hn⟩
      rw [hout]
      rfl
    · have hout := setStation_clears_empty (cls := cls) hu hflag h
      refine ⟨_, taken hfree ((hreply false).trans ?_), hout⟩
      rw [hout.1]
      rfl
    · have hn := setStation_clears_loaf (cls := cls) hu hflag h
      refine ⟨_, taken hfree ((hreply false).trans ?_), hn⟩
      rw [hstate hn, stationRec_serviceSet]
      rfl
    · exact ⟨_, taken hfree (hreply true), fun hf => setStationService_settings hu (.inr ⟨rfl, hf⟩),
        fun hf h => setStation_sets_loaf hu hflag hf h, fun hf h => setStation_returned hu hflag hf h⟩
  · exact ⟨_, taken hfree ((svcSetTyer_taken v hx ht).trans (if_pos hy)), evaluate_noticed _ _⟩
  · exact taken hfree ((svcSetTyer_taken v hx ht).trans (if_neg (by rw [hy]; exact Bool.false_ne_true)))

end Sys2Proof.BaggingStations
end

-- ==== The stations, proofs: the station timers ====
section
/-! The bag-open timer and the release wait that run out (O36). -/

namespace Sys2Proof.BaggingStations

open Sys2Proof.Machine Sys2Proof.Safety Sys2Proof.Laws Sys2Proof.LoafTrack Sys2Proof.SwitchInputs Sys2Proof.SlicingHead

/-! ## STATION_x raised over a station that goes out of service -/

theorem inService_faulted {x : Station} {k : FaultKind} {w : State} (hk : k = .station x ∨ k = .clipsOut x)
    (h : (faultEntry w k).state ≠ .inactive) : inService w x = false := by
  have hhold : faultHold w x = true := by
    unfold faultHold faultStands
    rcases hk with rfl | rfl <;> simp [h]
  unfold inService
  rw [hhold]
  exact Bool.and_false _

theorem aloof_entry {s t : State} (h : Aloof s t) (k : FaultKind) : faultEntry t k = faultEntry s k := by
  unfold faultEntry
  rw [h.faults]

/-- A station that goes out of service at the event at which its fault is raised: `u` stands before the fault. -/
structure RaisedOut (x : Station) (loaf : Option Nat) (s u t : State) : Prop where
  state : (stationRec t x).state = .outOfService
  tag : (stationRec t x).tag = none
  counts : bagCounts t x = bagCounts u x
  loaves : t.track.loaves.map unmarked = u.track.loaves.map unmarked
  latched : (faultEntry t (.station x)).state = .latched
  loaf : (faultEntry t (.station x)).lastLoaf = loaf
  acted : BeltRuns s → ActedOnLine (faultEntry s (.station x)).action s t
  told : Listening s → Report.fault (.station x) .latched (min ((faultEntry s (.station x)).count + 1) 255) ∈ t.link.queue

theorem raiseFault_raisedOut {x : Station} (loaf : Option Nat) {s u : State} (hsup : u.sup = s.sup) (hlink : u.link = s.link)
    (hp : u.track.loaves = [] ↔ s.track.loaves = []) : RaisedOut x loaf s u (finish (stationOut x (raiseFault (.station x) loaf u))) := by
  have hk : FaultKind.station x ≠ .beltStall := nofun
  have hentry : faultEntry u (.station x) = faultEntry s (.station x) := faultEntry_of_sup hsup _
  have hturn := faultOccurs_latched (.station x) loaf u
  rw [hentry] at hturn
  show RaisedOut x loaf s u (finish (stationOut x (faultActs (.station x) (faultOccurs (.station x) .latched loaf u))))
  generalize faultOccurs (.station x) .latched loaf u = v at hturn
  have hout := stationOut_becomes x (faultActs (.station x) v)
  have htells : Tells 1 _ _ := (stationOut_restarted x (faultActs (.station x) v)).tells
  have hn := finish_noticed (stationOut x (faultActs (.station x) v))
  have hlatched := ((Noticed.calm hn).entry (.station x)).trans ((aloof_entry hout.aloof _).trans (Turned.acts_entry hturn hk))
  refine ⟨?_, ?_, ?_, ?_, by rw [hlatched], by rw [hlatched], fun hb => ?_, fun hs => ?_⟩
  · rw [Noticed.stationRec hn, hout.record]
    rfl
  · rw [Noticed.stationRec hn, hout.record]
    rfl
  · exact (congrArg (fun v : Shift => v.openRecord.stations.get x) hn.shift).trans (hout.counts.trans (Turned.acts_counts hturn x))
  · rw [hn.track, hout.aloof.track]
    exact Turned.acts_loaves hturn
  · have hbu : BeltRuns u := by
      unfold BeltRuns
      rw [faultEntry_of_sup hsup]
      exact hb
    have hacted := Turned.acted (s := s) hturn hk hbu (congrArg Supervision.line hsup) hp (Tells.of_link hlink 0) hout.aloof.line
      (congrArg Track.infeedHold hout.aloof.track) htells (by decide)
    exact hacted
  · exact (Hears.of_same ((Turned.acts_hears hturn).trans htells) hlink).finished (by decide) hs

/-! ## The bag-open timer -/

section
variable {x : Station} {s : State}

theorem openTimeout_first (ht : (stationRec s x).bagTimer ≠ none) (ha : (stationRec s x).attempt = some 1) :
    openTimeout x s = finish (drawBag x 2 (wasteBag x s)) := by
  obtain ⟨n, hn⟩ := Option.ne_none_iff_exists'.mp ht
  unfold openTimeout
  rw [hn]
  dsimp only
  rw [if_pos ha, drawBag_stopped]

theorem openTimeout_second (ht : (stationRec s x).bagTimer ≠ none) (ha : (stationRec s x).attempt ≠ some 1) :
    openTimeout x s = finish (stationOut x (raiseFault (.station x) none (wasteBag x s))) := by
  obtain ⟨n, hn⟩ := Option.ne_none_iff_exists'.mp ht
  unfold openTimeout
  rw [hn]
  dsimp only
  rw [if_neg ha]

/-- The first bag is wasted, and the second awaited (R81). -/
theorem openTimeout_redraws (ht : (stationRec s x).bagTimer ≠ none) (ha : (stationRec s x).attempt = some 1)
    (hm : 1 ≤ (stationRec s x).magazine) (he : inputHigh s (.bagEye x) = false) : Noticed (countStation x (fun c => { c with
        wasted := min (c.wasted + 1) 4294967295, drawn := min (c.drawn + 1) 4294967295 })
      (setStation x { stationRec s x with
        magazine := (stationRec s x).magazine - 1, attempt := some 2, bagTimer := some s.stations.times.openTimeout } s))
      (openTimeout x s) := by
  have hdraw := drawBag_awaits (x := x) (n := 2) (s := wasteBag x s) (Nat.one_le_iff_ne_zero.mp hm) he
  rw [openTimeout_first ht ha]
  refine (Noticed.of_eq ?_).trans (hdraw.trans (finish_noticed _))
  cases x <;> rfl

/-- Without a second bag the station is EMPTY, with its warning (R81, R82). -/
theorem openTimeout_empties (ht : (stationRec s x).bagTimer ≠ none) (ha : (stationRec s x).attempt = some 1)
    (hm : (stationRec s x).magazine = 0) :
    Noticed (countStation x (fun c => { c with wasted := min (c.wasted + 1) 4294967295 })
      (setStation x { stationRec s x with state := .empty, attempt := none, held := false, bagTimer := none } s)) (openTimeout x s) ∧
    (stationFitted s.member x = true → (warnEntry (openTimeout x s) (.bagsEmpty x)).present = true) := by
  have hempty := stationEmpties_noticed x (wasteBag x s)
  rw [openTimeout_first ht ha, drawBag_emptied (x := x) (s := wasteBag x s) hm]
  refine ⟨(Noticed.of_eq ?_).trans (hempty.trans (finish_noticed _)), fun hx => ?_⟩
  · cases x <;> rfl
  · have hw : WarnKind.bagsEmpty x ≠ .noStation := nofun
    rw [finish_warnEntry hw]
    unfold stationEmpties evaluate
    dsimp only
    rw [warn_entry]
    show (stationFitted s.member x && decide _) = true
    rw [hx, stationRec_setStation_self]
    rfl

end

/-! ## The release wait -/

/-- The fault takes the station out of service, its loaf released all the same (R89). -/
theorem releaseTimeout_eq {x : Station} {s : State} {n : Nat} (hw : (stationRec s x).releaseTimer ≠ none)
    (ht : (stationRec s x).tag = some n) :
    releaseTimeout x s = finish (stationOut x (raiseFault (.station x) (some n) (outfed x n s))) := by
  obtain ⟨m, hm⟩ := Option.ne_none_iff_exists'.mp hw
  have hk : FaultKind.station x ≠ .beltStall := nofun
  have hservice : inService (raiseFault (.station x) (some n) (outfed x n s)) x = false :=
    inService_faulted (.inl rfl) (by rw [raiseFault_entry _ _ _ hk]; nofun)
  unfold releaseTimeout
  rw [hm]
  dsimp only
  rw [loafToOutfeed_eq ht, ht]
  unfold afterRelease
  rw [if_neg (by rw [hservice]; exact Bool.false_ne_true)]

/-- Settles O36: the bag-open timer of either attempt, and the release wait. -/
theorem stationTimeouts : Obligations.StationTimeouts := by
  intro x s
  have hopen : exec (.bagOpenTimeout x) s = .next (openTimeout x s) := rfl
  have hwait : exec (.releaseTimeout x) s = .next (releaseTimeout x s) := rfl
  rw [hopen, hwait]
  refine ⟨fun h => ?_, fun h => ?_, fun ht ha hm he => ⟨_, rfl, openTimeout_redraws ht ha hm he⟩,
    fun ht ha hm => ⟨_, rfl, openTimeout_empties ht ha hm⟩, fun ht ha => ⟨_, rfl, (openTimeout_steady x s).aside, ?_⟩,
    fun r hw hr hz => ⟨_, rfl, (releaseTimeout_steady x s).aside, ?_⟩⟩
  · unfold openTimeout
    rw [h]
  · unfold releaseTimeout
    rw [h]
  · have hraised := raiseFault_raisedOut (x := x) none (s := s) (u := wasteBag x s) rfl rfl Iff.rfl
    rw [openTimeout_second ht ha]
    refine ⟨hraised.state, ?_, hraised.latched, hraised.loaf, hraised.acted, hraised.told⟩
    exact congrArg StationCounts.wasted (hraised.counts.trans (wasteBag_becomes x s).counts)
  · obtain ⟨htag, hfind⟩ := stationLoaf_find hr
    have htrack := outfed_track hfind hz
    have hraised := raiseFault_raisedOut (x := x) (some r.tag) (s := s) (u := outfed x r.tag s) rfl rfl
      (by rw [htrack]; exact modifyLoaf_nil _ _ s)
    have hout := findLoaf_modify (f := fun l => { l with
      zone := .outfeed, check := some ⟨.exit, (s.track.geometry.dExit + 200) * s.track.geometry.k / 100⟩ }) hfind rfl
    unfold findLoaf at hout
    rw [← htrack] at hout
    obtain ⟨q, hq, hsame⟩ := findLoaf_unmarked hraised.loaves hout
    rw [releaseTimeout_eq hw htag]
    exact ⟨hraised.state, hraised.tag, ⟨q, List.mem_of_find?_eq_some hq, (congrArg Loaf.tag hsame :), (congrArg Loaf.zone hsame :),
      (congrArg Loaf.check hsame :)⟩, hraised.latched, hraised.loaf, hraised.acted, hraised.told⟩

end Sys2Proof.BaggingStations
end

-- ==== The stations, proofs: a station that enters RELEASING under a fault ====
section
/-! What becomes of a station whose tying stage ends at an event at which a fault of its own or of its tyer is taken (R89, R90, R94). -/

namespace Sys2Proof.BaggingStations

open Sys2Proof.Machine Sys2Proof.Safety Sys2Proof.Laws Sys2Proof.LoafTrack Sys2Proof.SwitchInputs Sys2Proof.SlicingHead

/-! ## A fault taken -/

/-- What a fault of a station or of its tyer leaves, whose action at this event is `a`: `u` stands before it and `w` after it. -/
structure FaultTaken (k : FaultKind) (a : Action) (u w : State) : Prop where
  stands : (faultEntry w k).state ≠ .inactive
  aside : Aside u w
  points : w.points = u.points
  cut : ∀ x, CutShort (tyerOf u x) (tyerOf w x)
  counts : ∀ x, bagCounts w x = bagCounts u x
  loaves : w.track.loaves.map unmarked = u.track.loaves.map unmarked
  rests : BeltRuns u → u.track.loaves ≠ [] → a ≠ .halt ∨ u.sup.line = .halted → Undisturbed u w
  halts : a = .halt → u.sup.line ≠ .halted → HaltedFrom u w
  acted : ∀ (s z : State) (m n : Nat), BeltRuns u → u.sup.line = s.sup.line → (u.track.loaves = [] ↔ s.track.loaves = []) → Tells m s u →
    z.sup.line = w.sup.line → z.track.infeedHold = w.track.infeedHold → Tells n w z → m + n ≤ 12 → ActedOnLine a s (finish z)

/-- A fault whose entry has turned is taken with the action in force. -/
theorem FaultTaken.of_turned {k : FaultKind} {e : FaultEntry} {a : Action} {r : Report} {u v : State} (h : Turned k e r u v)
    (hk : k ≠ .beltStall) (he : e.state ≠ .inactive) (ha : e.action = a) (hs : Steady u (faultActs k v)) :
    FaultTaken k a u (faultActs k v) := by
  subst ha
  exact {
    stands := by rw [Turned.acts_entry h hk]; exact he
    aside := hs.aside
    points := hs.kept.points
    cut := Turned.acts_cut h
    counts := Turned.acts_counts h
    loaves := Turned.acts_loaves h
    rests := Turned.acts_undisturbed h hk
    halts := h.halts_from
    acted := fun _ _ _ _ hb hl hp hm hline hhold hn hmn => Turned.acted h hk hb hl hp hm hline hhold hn hmn }

/-- A fault that stands already is not taken again. -/
theorem FaultTaken.of_standing {k : FaultKind} {u : State} (h : (faultEntry u k).state ≠ .inactive) : FaultTaken k .nothing u u where
  stands := h
  aside := (Steady.refl u).aside
  points := rfl
  cut := fun _ => .inl rfl
  counts := fun _ => rfl
  loaves := rfl
  rests := fun _ _ _ => Undisturbed.refl u
  halts := nofun
  acted := fun _ _ _ _ _ hl _ _ hline _ _ _ => actedOnLine_nothing (hline.trans hl)

/-- An event fault raised is taken (R145). -/
theorem raiseFault_taken {k : FaultKind} (loaf : Option Nat) (u : State) (hk : k ≠ .beltStall) :
    FaultTaken k (faultEntry u k).action u (raiseFault k loaf u) :=
  FaultTaken.of_turned (faultOccurs_latched k loaf u) hk nofun rfl (raiseFault_steady k loaf u)

/-- A condition fault whose condition is found present is taken, unless it stands ACTIVE already (R144). -/
theorem setCondition_taken {k : FaultKind} (u : State) (hk : k ≠ .beltStall) (he : eventFault k = false) :
    (faultEntry (setCondition k true u) k).state = .active ∧
      FaultTaken k (if (faultEntry u k).state = .active then .nothing else (faultEntry u k).action) u (setCondition k true u) := by
  by_cases hs : (faultEntry u k).state = .active
  · have hsame : setCondition k true u = u := by
      unfold setCondition
      rw [hs]
    rw [hsame, if_pos hs]
    exact ⟨hs, FaultTaken.of_standing (by rw [hs]; nofun)⟩
  · have hturn := faultOccurs_turned k u
    have hsteady := setCondition_steady k true u he
    rw [if_neg hs]
    rw [setCondition_comes hs] at hsteady ⊢
    exact ⟨by rw [Turned.acts_entry hturn hk], FaultTaken.of_turned hturn hk nofun rfl hsteady⟩

/-! ## The tied loaf, and its release -/

/-- The tying stage of the station has ended, and its result stands in the record: the state before a fault is taken and the release awaited. -/
structure TyingEnded (x : Station) (r : Loaf) (tie : TieResult) (code : Option ClipCode) (s u : State) : Prop where
  aside : Aside s u
  line : u.sup.line = s.sup.line
  points : u.points = s.points
  faults : u.sup.faults = s.sup.faults
  times : u.stations.times = s.stations.times
  loaves : u.track.loaves = (modifyLoaf r.tag (tied tie code) s).track.loaves
  state : (stationRec u x).state = .releasing
  tag : (stationRec u x).tag = some r.tag
  held : (stationRec u x).held = (stationRec s x).held

section
variable {x : Station} {r : Loaf} {tie : TieResult} {code : Option ClipCode} {s u w : State} {k : FaultKind} {a : Action}
  (he : TyingEnded x r tie code s u) (hr : stationLoaf s x = some r)
include he

theorem TyingEnded.beltRuns (hb : BeltRuns s) : BeltRuns u := by
  unfold BeltRuns faultEntry
  rw [he.faults]
  exact hb

theorem TyingEnded.nil_iff : u.track.loaves = [] ↔ s.track.loaves = [] := by
  rw [he.loaves]
  exact modifyLoaf_nil _ _ s

include hr

theorem TyingEnded.find : findLoaf u r.tag = some (tied tie code r) := by
  have hm := findLoaf_modify (f := tied tie code) (stationLoaf_find hr).2 rfl
  unfold findLoaf at hm ⊢
  rw [he.loaves]
  exact hm

theorem TyingEnded.nonempty : u.track.loaves ≠ [] := fun h => by
  have hf := TyingEnded.find he hr
  unfold findLoaf at hf
  rw [h] at hf
  cases hf

/-- The record keeps its tie result and its clip code through the fault and the release. -/
theorem TyingEnded.record (ht : FaultTaken k a u w) :
    ∃ q ∈ (finish (awaitRelease x w)).track.loaves, q.tag = r.tag ∧ q.tie = some tie ∧ q.clipCode = code := by
  obtain ⟨l, hl, hsame⟩ := findLoaf_unmarked ht.loaves (TyingEnded.find he hr)
  obtain ⟨q, hq, htie, hcode⟩ := (awaitRelease_awaited x w).loaf _ l hl
  rw [(finish_noticed (awaitRelease x w)).track]
  exact ⟨q, List.mem_of_find?_eq_some hq, findLoaf_tag hq, htie.trans (congrArg Loaf.tie hsame :), hcode.trans (congrArg Loaf.clipCode hsame :)⟩

/-- Under the fault the station keeps its loaf, held, waits, or releases it and is out of service. -/
theorem TyingEnded.releasing (ht : FaultTaken k a u w) (hk : k = .station x ∨ k = .clipsOut x) (hb : BeltRuns s)
    (hz : r.zone = .station x) (hh : (stationRec s x).held = false) :
    ReleasingUnderFault a x r tie code s (finish (awaitRelease x w)) := by
  have hn := finish_noticed (awaitRelease x w)
  have hloaves := TyingEnded.loaves he
  have hheld : (stationRec u x).held = false := he.held.trans hh
  have heye : inputHigh w (.bagEye x) = inputHigh s (.bagEye x) := (inputs_same (ht.points.trans he.points) _).2
  have hrests : a ≠ .halt ∨ s.sup.line = .halted → w.stations = u.stations ∧ w.track.loaves = u.track.loaves := fun ha => by
    have hw := ht.rests (TyingEnded.beltRuns he hb) (TyingEnded.nonempty he hr) (by rw [he.line]; exact ha)
    rw [show w = _ from hw]
    exact ⟨rfl, rfl⟩
  have hrec : w.stations = u.stations → stationRec w x = stationRec u x := fun h => congrArg (fun v : Stations => v.recs.get x) h
  refine ⟨fun ha hl => ?_, fun ha hi => ?_, fun ha hi => ?_⟩
  · have hhalt := (ht.halts ha (by rw [he.line]; exact hl)).stations x
    rw [he.state, if_pos (show holdsAtHalt .releasing = true from rfl)] at hhalt
    have hwheld : (stationRec w x).held = true := by rw [hhalt]
    obtain ⟨l, hl, hsame⟩ := findLoaf_unmarked ht.loaves (TyingEnded.find he hr)
    rw [Noticed.stationRec hn, hn.track, awaitRelease_held hwheld, hhalt]
    exact ⟨he.state, rfl, he.tag, rfl, l, List.mem_of_find?_eq_some hl, findLoaf_tag hl, (congrArg Loaf.zone hsame :).trans hz,
      (congrArg Loaf.tie hsame :), (congrArg Loaf.clipCode hsame :)⟩
  · obtain ⟨hs, hloaf⟩ := hrests ha
    have hwait := awaitRelease_waits (x := x) (w := w) (by rw [hrec hs]; exact he.state) (by rw [hrec hs]; exact hheld) (heye.trans hi)
    rw [Noticed.stationRec hn, hn.track, hwait, stationRec_setStation_self, hrec hs, hs, he.times]
    exact ⟨he.state, he.tag, rfl, hloaf.trans hloaves⟩
  · obtain ⟨hs, hloaf⟩ := hrests ha
    have hlow := heye.trans hi
    have hrelease := awaitRelease_releases (x := x) (w := w) (by rw [hrec hs]; exact he.state) (by rw [hrec hs]; exact hheld) hlow
    have hfaults : faultEntry (finish (awaitRelease x w)) k = faultEntry w k := by
      rw [(Noticed.calm hn).entry]
      unfold faultEntry
      rw [(awaitRelease_awaited x w).faults]
    have hout : inService (finish (awaitRelease x w)) x = false := inService_faulted hk (by rw [hfaults]; exact ht.stands)
    rw [hrelease] at hout ⊢
    have hdone := releaseLoaf_atOnce (Aside.trans he.aside ht.aside) (hloaf.trans hloaves) (stationLoaf_find hr).2 hz hlow
      (by rw [hrec hs]; exact he.tag)
    exact ⟨hdone, hdone.out hout⟩

end

end Sys2Proof.BaggingStations
end

-- ==== The stations, proofs: the travel count, the scoop and the tying stage ====
section
/-! The travel count used up, the end of the scoop pulse, and the clip code (O37). -/

namespace Sys2Proof.BaggingStations

open Sys2Proof.Machine Sys2Proof.Safety Sys2Proof.Laws Sys2Proof.LoafTrack Sys2Proof.SwitchInputs Sys2Proof.SlicingHead

/-! ## The end of a tying stage in the record -/

/-- The result of the stage written into the record of the loaf, the station in RELEASING (R88). -/
abbrev tieWritten (x : Station) (r : Loaf) (tie : TieResult) (code : Option ClipCode) (s : State) : State :=
  setStation x { stationRec s x with state := .releasing, scoopTimer := none } (modifyLoaf r.tag (tied tie code) s)

theorem writeTie_eq {x : Station} {r : Loaf} {tie : TieResult} {code : Option ClipCode} {s : State}
    (h : (stationRec s x).tag = some r.tag) : writeTie x tie code s = tieWritten x r tie code s := by
  unfold writeTie tieWritten
  dsimp only
  rw [h]

theorem stationRec_tieWritten (x : Station) (r : Loaf) (tie : TieResult) (code : Option ClipCode) (s : State) :
    stationRec (tieWritten x r tie code s) x = { stationRec s x with state := .releasing, scoopTimer := none } :=
  stationRec_setStation_self x _ _

theorem tieWritten_ended {x : Station} {r : Loaf} (tie : TieResult) (code : Option ClipCode) {s : State}
    (h : (stationRec s x).tag = some r.tag) : TyingEnded x r tie code s (tieWritten x r tie code s) where
  aside := ⟨rfl, rfl, rfl, rfl, rfl, rfl, rfl, rfl, rfl, rfl⟩
  line := rfl
  points := rfl
  faults := rfl
  times := rfl
  loaves := rfl
  state := by rw [stationRec_tieWritten]
  tag := by rw [stationRec_tieWritten]; exact h
  held := by rw [stationRec_tieWritten]

/-! ## The scoop -/

section
variable {x : Station} {s : State}

theorem scoopEnds_runs (h : (stationRec s x).scoopTimer ≠ none) : scoopEnds x s = finish (scoopComplete x s) := by
  obtain ⟨n, hn⟩ := Option.ne_none_iff_exists'.mp h
  unfold scoopEnds
  rw [hn]

theorem scoopComplete_fitted (h : tyerFitted s x = true) : scoopComplete x s = beginTying x s := if_pos h

theorem scoopComplete_bare (h : tyerFitted s x = false) : scoopComplete x s = awaitRelease x (writeTie x .notTied none s) :=
  if_neg (by rw [h]; exact Bool.false_ne_true)

/-- The strike begins (R100). -/
theorem beginTying_noticed (h : SpoolSuffices s x) : Noticed (countStation x (fun c => { c with
      clipMm := min (c.clipMm + clipLength (tyerOf s x).settings (tieClass s x)) 4294967295 })
    (setTyer x (struckTyer s x (clipLength (tyerOf s x).settings (tieClass s x))) (setStation x (tyingBegun (stationRec s x)) s)))
    (beginTying x s) := by
  have hdays : tieShelfDays (setStation x (tyingBegun (stationRec s x)) s) x = tieShelfDays s x := by
    unfold tieShelfDays stationLoaf
    rw [stationRec_setStation_self]
    rfl
  have hstruck : struckTyer (setStation x (tyingBegun (stationRec s x)) s) x (clipLength (tyerOf s x).settings (tieClass s x)) =
      struckTyer s x (clipLength (tyerOf s x).settings (tieClass s x)) := by
    unfold struckTyer
    rw [hdays]
    rfl
  rw [beginTying_strikes h, ← hstruck]
  exact evaluate_noticed _ _

/-! ### A short spool -/

/-- The tie has been skipped, before CLIPS_OUT_x is taken (R99). -/
def tieSkipped (x : Station) (r : Loaf) (s : State) : State :=
  setTyer x { tyerOf s x with clipsOut := true }
    (tieWritten x r .untied none (countStation x (fun c => { c with untied := raiseCount c.untied 1 })
      (setStation x (tyingBegun (stationRec s x)) s)))

theorem beginTying_skips {r : Loaf} (h : (tyerOf s x).spool < clipLength (tyerOf s x).settings (tieClass s x))
    (ht : (stationRec s x).tag = some r.tag) :
    beginTying x s = awaitRelease x (setCondition (.clipsOut x) true (tieSkipped x r s)) := by
  have hclass : tieClass (setStation x (tyingBegun (stationRec s x)) s) x = tieClass s x := tieClass_setStation rfl rfl
  have hrec : (stationRec (countStation x (fun c => { c with untied := raiseCount c.untied 1 })
      (setStation x (tyingBegun (stationRec s x)) s)) x).tag = some r.tag :=
    (congrArg StationRec.tag (stationRec_setStation_self x _ s)).trans ht
  unfold beginTying
  dsimp only
  rw [hclass]
  refine (if_neg (Nat.not_le.mpr h)).trans ?_
  unfold skipTie
  dsimp only
  rw [writeTie_eq hrec]
  rfl

theorem stationRec_tieSkipped (x : Station) (r : Loaf) (s : State) :
    stationRec (tieSkipped x r s) x = { stationRec s x with state := .releasing, scoopTimer := none } := by
  cases x <;> rfl

theorem tieSkipped_ended {r : Loaf} (ht : (stationRec s x).tag = some r.tag) : TyingEnded x r .untied none s (tieSkipped x r s) where
  aside := ⟨rfl, rfl, rfl, rfl, rfl, rfl, rfl, rfl, rfl, rfl⟩
  line := rfl
  points := rfl
  faults := rfl
  times := rfl
  loaves := rfl
  state := by rw [stationRec_tieSkipped]
  tag := by rw [stationRec_tieSkipped]; exact ht
  held := by rw [stationRec_tieSkipped]

theorem tyerOf_tieSkipped (x : Station) (r : Loaf) (s : State) : tyerOf (tieSkipped x r s) x = { tyerOf s x with clipsOut := true } :=
  tyerOf_setTyer_self x _ _

theorem bagCounts_tieSkipped (x : Station) (r : Loaf) (s : State) :
    (bagCounts (tieSkipped x r s) x).untied = min ((bagCounts s x).untied + 1) 4294967295 := by
  cases x <;> rfl

/-- What the skipped tie leaves at the end of the event (R99). -/
theorem beginTying_untied {r : Loaf} (h : (tyerOf s x).spool < clipLength (tyerOf s x).settings (tieClass s x))
    (hr : stationLoaf s x = some r) :
    let acts := if (faultEntry s (.clipsOut x)).state = .active then Action.nothing else (faultEntry s (.clipsOut x)).action
    let t := finish (beginTying x s)
    (∃ q ∈ t.track.loaves, q.tag = r.tag ∧ q.tie = some .untied ∧ q.clipCode = none) ∧
      (tyerOf t x).spool = (tyerOf s x).spool ∧ (tyerOf t x).clipsOut = true ∧ (faultEntry t (.clipsOut x)).state = .active ∧
      (BeltRuns s → ActedOnLine acts s t) ∧
      (BeltRuns s → r.zone = .station x → (stationRec s x).held = false → ReleasingUnderFault acts x r .untied none s t) ∧
      (bagCounts t x).untied = min ((bagCounts s x).untied + 1) 4294967295 := by
  obtain ⟨htag, hfind⟩ := stationLoaf_find hr
  have hended := tieSkipped_ended (x := x) (s := s) htag
  have hk : FaultKind.clipsOut x ≠ .beltStall := nofun
  obtain ⟨hactive, htaken⟩ := setCondition_taken (tieSkipped x r s) hk rfl
  have hentry : faultEntry (tieSkipped x r s) (.clipsOut x) = faultEntry s (.clipsOut x) := rfl
  rw [hentry] at htaken
  have hawait := awaitRelease_awaited x (setCondition (.clipsOut x) true (tieSkipped x r s))
  have hn := finish_noticed (awaitRelease x (setCondition (.clipsOut x) true (tieSkipped x r s)))
  obtain ⟨hspool, hclips⟩ := (htaken.cut x).stock
  rw [beginTying_skips h htag]
  refine ⟨TyingEnded.record hended hr htaken, ?_, ?_, ?_, fun hb => ?_, fun hb hz hh => ?_, ?_⟩
  · rw [Noticed.tyerOf hn, hawait.tyer, hspool, tyerOf_tieSkipped]
  · rw [Noticed.tyerOf hn, hawait.tyer, hclips, tyerOf_tieSkipped]
  · rw [(Noticed.calm hn).entry]
    unfold faultEntry at hactive ⊢
    rw [hawait.faults]
    exact hactive
  · exact htaken.acted s _ 0 2 (TyingEnded.beltRuns hended hb) hended.line (TyingEnded.nil_iff hended) (Tells.of_link rfl 0) hawait.line
      hawait.hold hawait.tells (by decide)
  · exact TyingEnded.releasing hended hr htaken (.inr rfl) hb hz hh
  · rw [show bagCounts (finish _) x = _ from congrArg (fun v : Shift => v.openRecord.stations.get x) hn.shift]
    exact hawait.counts.2.trans ((congrArg StationCounts.untied (htaken.counts x)).trans (bagCounts_tieSkipped x r s))

/-! ### No tyer -/

/-- Without a tyer the loaf is released, or waits for its release (R88, R89). -/
theorem scoopComplete_waits {r : Loaf} (h : tyerFitted s x = false) (hr : stationLoaf s x = some r) (hh : (stationRec s x).held = false)
    (he : inputHigh s (.bagEye x) = true) : Noticed (modifyLoaf r.tag (tied .notTied none) (setStation x { stationRec s x with
      state := .releasing, scoopTimer := none, releaseTimer := some s.stations.times.openTimeout } s)) (finish (scoopComplete x s)) := by
  obtain ⟨htag, hfind⟩ := stationLoaf_find hr
  have hwait := awaitRelease_waits (x := x) (w := tieWritten x r .notTied none s) (by rw [stationRec_tieWritten])
    (by rw [stationRec_tieWritten]; exact hh) he
  rw [scoopComplete_bare h, writeTie_eq htag, hwait, stationRec_tieWritten, setStation_setStation]
  exact finish_noticed _

theorem scoopComplete_releases {r : Loaf} (h : tyerFitted s x = false) (hr : stationLoaf s x = some r) (hh : (stationRec s x).held = false)
    (he : inputHigh s (.bagEye x) = false) (hz : r.zone = .station x) : ReleasedAtOnce x r .notTied none s (finish (scoopComplete x s)) := by
  obtain ⟨htag, hfind⟩ := stationLoaf_find hr
  have hended := tieWritten_ended .notTied none htag
  have hrelease := awaitRelease_releases (x := x) (w := tieWritten x r .notTied none s) hended.state (hended.held.trans hh) he
  rw [scoopComplete_bare h, writeTie_eq htag, hrelease]
  exact releaseLoaf_atOnce hended.aside hended.loaves hfind hz he hended.tag

end

/-! ## The clip code -/

/-- A clip code from the start minute of the first shift, the clock, the shelf days and the letter (R107 to R109). -/
def codeOf (first clock days : Nat) (letter : Byte) : ClipCode :=
  ⟨(bestBefore first clock days).day, (bestBefore first clock days).month, letter⟩

theorem clipCodeNow_eq {s : State} {first clock : Nat} {letter : Byte} (hf : s.shift.schedule.head?.map ShiftEntry.startMinute = some first)
    (hc : s.shift.clock = clock) (hl : s.shift.openRecord.letter = letter) (days : Nat) :
    clipCodeNow s days = codeOf first clock days letter := by
  unfold clipCodeNow firstStart
  rw [hf, hc, hl]
  rfl

/-- The rows of the table of section 6.7: the start minute, the clock, the shelf days, the letter and the print. -/
def printRows : List (Nat × Nat × Nat × Nat × String) :=
  [(1320, 888621000, 4, 0x4E, "03.03 N"), (1320, 888616740, 4, 0x4C, "02.03 L"), (1320, 917906400, 0, 0x4E, "01.02 N"),
    (1320, 3155758200, 5, 0x4E, "31.12 N"), (360, 857183400, 1, 0x41, "01.03 A"), (360, 888805800, 0, 0x41, "29.02 A"),
    (360, 988624800, 30, 0x41, "30.05 A"), (360, 18000, 0, 0x41, "01.01 A")]

theorem printRows_hold : ∀ v ∈ printRows, printedCode (codeOf v.1 v.2.1 v.2.2.1 (BitVec.ofNat 8 v.2.2.2.1)) = codes v.2.2.2.2 := by
  decide +kernel

/-- Settles O37: the travel count, the scoop pulse to the strike, the skipped tie or the release, and the printed code. -/
theorem scoopLeadsToTying : Obligations.ScoopLeadsToTying := by
  intro x s
  have htravel : exec (.travelCountExpiry x) s = .next (travelExpires x s) := rfl
  have hscoop : exec (.scoopEnd x) s = .next (scoopEnds x s) := rfl
  rw [htravel, hscoop]
  refine ⟨fun h => ?_, fun h => ?_, fun h => ?_, fun h => ⟨fun ht hl => ?_, fun r ht hl hr => ?_, fun r ht hr hh => ?_⟩,
    fun v hv hrow => ?_⟩
  · exact congrArg Host.Outcome.next (if_neg h)
  · exact congrArg Host.Outcome.next (if_pos h)
  · unfold scoopEnds
    rw [h]
  · have hn := (beginTying_noticed hl).trans (finish_noticed _)
    have hcode : (tyerOf (finish (beginTying x s)) x).codeHeld = if s.options.printer then some (clipCodeNow s (tieShelfDays s x)) else none := by
      rw [Noticed.tyerOf hn]
      exact congrArg Tyer.codeHeld (tyerOf_setTyer_self x _ _)
    rw [scoopEnds_runs h, scoopComplete_fitted ht]
    refine ⟨_, rfl, hn, ?_⟩
    unfold clipPrinted
    rw [hcode]
    cases s.options.printer <;> rfl
  · have hsteady := scoopEnds_steady x s
    rw [scoopEnds_runs h, scoopComplete_fitted ht] at hsteady ⊢
    exact ⟨_, rfl, hsteady.aside, beginTying_untied hl hr⟩
  · rw [scoopEnds_runs h]
    exact ⟨_, rfl, scoopComplete_waits ht hr hh, scoopComplete_releases ht hr hh⟩
  · obtain ⟨hfirst, hclock, hletter⟩ := hrow
    rw [clipCodeNow_eq hfirst hclock hletter]
    exact printRows_hold v hv

end Sys2Proof.BaggingStations
end

-- ==== The stations, proofs: the strike and its sample ====
section
/-! The half strike, the tension sample and the judgement at the end of the strike (O38). -/

namespace Sys2Proof.BaggingStations

open Sys2Proof.Machine Sys2Proof.Safety Sys2Proof.Laws Sys2Proof.LoafTrack Sys2Proof.SwitchInputs Sys2Proof.SlicingHead

/-! ## The half strike -/

section
variable {x : Station} {k : Strike} {s : State}

theorem strikeMiddle_due (hk : (tyerOf s x).stage = some k) (hd : k.midpointDue = true) : strikeMiddle x s =
    askConversion (.station x) (setTyer x { tyerOf s x with stage := some { k with midpointDue := false } } s) := by
  unfold strikeMiddle
  rw [hk]
  exact if_pos hd

theorem strikeMiddle_past (hk : (tyerOf s x).stage = some k) (hd : k.midpointDue = false) : strikeMiddle x s = s := by
  unfold strikeMiddle
  rw [hk]
  exact if_neg (by rw [hd]; exact Bool.false_ne_true)

/-- A free converter takes the request at once (R126). -/
theorem askConversion_free {who : Requester} (hc : s.meas.converter = none) (hr : s.meas.requests = []) :
    askConversion who s = s.setMeas { s.meas with
      converter := some ⟨requestChannel who, s.head.stamp, .request, some ⟨who, true⟩⟩ } := by
  have h := arbitrate_request (s := s.setMeas { s.meas with requests := s.meas.requests ++ [⟨who, true⟩] }) (q := ⟨who, true⟩) hc
    (by rw [State.setMeas_meas, hr]; rfl)
  refine h.trans ?_
  show s.setMeas { s.meas with requests := [], converter := _ } = _
  rw [← hr]
  rfl

/-- A busy converter leaves the request waiting (R126). -/
theorem askConversion_busy {who : Requester} (hc : s.meas.converter ≠ none) :
    askConversion who s = s.setMeas { s.meas with requests := s.meas.requests ++ [⟨who, true⟩] } := arbitrate_busy hc

/-- The channel that judges a station's tie (R101). -/
theorem requestChannel_station (x : Station) : requestChannel (.station x) = if x = .a then 4 else 5 := by cases x <;> rfl

end

/-! ## The sample -/

/-- No bound limit takes a tension sample (R133). -/
theorem takeBounds_tension (x : Station) (value : Nat) (s : State) : takeBounds (requestChannel (.station x)) value s = s := by
  have hnone : (allBounds.filter fun b => decide (boundChannel b = requestChannel (.station x))) = [] := by cases x <;> decide
  unfold takeBounds
  rw [hnone]
  rfl

/-- A tension sample reaches the tyers through its requester alone. -/
theorem tyerOf_conversionDone {x : Station} {s : State} {v : Conversion} (hv : s.meas.converter = some v)
    (hc : v.channel = requestChannel (.station x)) (value : Raw) : ∃ m, m.limits = s.meas.limits ∧
      tyerOf (conversionDone value s) x = tyerOf (handToRequester v.channel value.toNat v.request (s.setMeas m)) x := by
  obtain ⟨c, stamp, phase, request⟩ := v
  obtain rfl : c = requestChannel (.station x) := hc
  let m : Meas := { s.meas with
    converter := none, samples := s.meas.samples.set (requestChannel (.station x)) ⟨value.toNat, stamp, phase⟩ }
  have hpressure : requestChannel (.station x) ≠ 3 := by cases x <;> decide
  obtain ⟨m', hm'⟩ := sampleTaken_meas (requestChannel (.station x))
    (handToRequester (requestChannel (.station x)) value.toNat request (s.setMeas m))
  have hdone : conversionDone value s =
      finish ((handToRequester (requestChannel (.station x)) value.toNat request (s.setMeas m)).setMeas m') := by
    unfold conversionDone
    rw [hv]
    dsimp only
    rw [takeBounds_tension, if_neg hpressure]
    exact congrArg finish hm'
  exact ⟨m, rfl, by rw [hdone, Noticed.tyerOf (finish_noticed _)]; rfl⟩

theorem judgeStrike_judges {x : Station} {k : Strike} {s : State} (hk : (tyerOf s x).stage = some k) (c : Channel) (value : Nat) :
    tyerOf (judgeStrike x c value s) x = { tyerOf s x with
      stage := some { k with judged := some (if value < (s.meas.limits[c]).warnLow then .mistie else .tied) } } := by
  unfold judgeStrike
  rw [hk]
  exact tyerOf_setTyer_self x _ s

/-! ## The end of the strike -/

/-- The stage has ended with the result `tie`: `n` misties in a row, the counts moved by `f`, and neither the fault nor the release yet. -/
def strikeJudged (x : Station) (r : Loaf) (tie : TieResult) (n : Nat) (f : StationCounts → StationCounts) (s : State) : State :=
  countStation x f (setStation x { stationRec s x with state := .releasing, scoopTimer := none, misties := n }
    (setTyer x { tyerOf s x with stage := none, codeHeld := none } (modifyLoaf r.tag (tied tie (tyerOf s x).codeHeld) s)))

/-- The mistie is counted (R102). -/
abbrev countMistie (c : StationCounts) : StationCounts := { c with misties := min (c.misties + 1) 4294967295 }

/-- The end of a stage up to its warning, the fault and the release to come. -/
abbrev strikeTied (x : Station) (r : Loaf) (s : State) : State := warn .mistie false (strikeJudged x r .tied 0 id s)

abbrev strikeMistied (x : Station) (r : Loaf) (s : State) : State :=
  countStation x countMistie (warn .mistie true (strikeJudged x r .mistie (min ((stationRec s x).misties + 1) 3) id s))

section
variable {x : Station} {r : Loaf} {tie : TieResult} {n : Nat} {f : StationCounts → StationCounts} {s u : State}

theorem stationRec_strikeJudged (x : Station) (r : Loaf) (tie : TieResult) (n : Nat) (f : StationCounts → StationCounts) (s : State) :
    stationRec (strikeJudged x r tie n f s) x = { stationRec s x with state := .releasing, scoopTimer := none, misties := n } :=
  stationRec_setStation_self x _ _

theorem tyerOf_strikeJudged (x : Station) (r : Loaf) (tie : TieResult) (n : Nat) (f : StationCounts → StationCounts) (s : State) :
    tyerOf (strikeJudged x r tie n f s) x = { tyerOf s x with stage := none, codeHeld := none } := tyerOf_setTyer_self x _ _

theorem bagCounts_strikeJudged (x : Station) (r : Loaf) (tie : TieResult) (n : Nat) (f : StationCounts → StationCounts) (s : State) :
    bagCounts (strikeJudged x r tie n f s) x = f (bagCounts s x) := by cases x <;> rfl

theorem endTying_tied (ht : (stationRec s x).tag = some r.tag) : endTying x .tied s = awaitRelease x (strikeTied x r s) := by
  unfold endTying
  dsimp only
  rw [writeTie_eq ht]
  refine congrArg (fun w => awaitRelease x (warn .mistie false w)) ?_
  cases x <;> rfl

theorem endTying_mistied (ht : (stationRec s x).tag = some r.tag) : endTying x .mistie s = awaitRelease x
    (if 3 ≤ (stationRec s x).misties + 1 then raiseFault (.station x) (some r.tag) (strikeMistied x r s) else strikeMistied x r s) := by
  have hrec : ∀ k, (stationRec (setTyer x k (tieWritten x r .mistie (tyerOf s x).codeHeld s)) x).misties = (stationRec s x).misties :=
    fun k =>
    (congrArg StationRec.misties (stationRec_tieWritten x r .mistie (tyerOf s x).codeHeld s) :)
  have hbase : setStation x
      { stationRec (setTyer x { tyerOf s x with stage := none, codeHeld := none } (tieWritten x r .mistie (tyerOf s x).codeHeld s)) x with
        misties := min ((stationRec s x).misties + 1) 3 }
      (setTyer x { tyerOf s x with stage := none, codeHeld := none } (tieWritten x r .mistie (tyerOf s x).codeHeld s)) =
      strikeJudged x r .mistie (min ((stationRec s x).misties + 1) 3) id s := by
    cases x <;> rfl
  unfold endTying
  dsimp only
  rw [writeTie_eq ht, hrec, hbase, ht]
  rfl

theorem strikeTied_noticed (x : Station) (r : Loaf) (s : State) : Noticed (strikeJudged x r .tied 0 id s) (strikeTied x r s) :=
  warn_noticed _ _ _

theorem strikeMistied_noticed (x : Station) (r : Loaf) (s : State) :
    Noticed (strikeJudged x r .mistie (min ((stationRec s x).misties + 1) 3) countMistie s) (strikeMistied x r s) := by
  refine (Noticed.of_eq ?_).trans (Noticed.countStation (warn_noticed _ _ _) x countMistie)
  cases x <;> rfl

/-- The judged stage is a tying stage that has ended. -/
theorem strikeJudged_ended (ht : (stationRec s x).tag = some r.tag) (hn : Noticed (strikeJudged x r tie n f s) u) :
    TyingEnded x r tie (tyerOf s x).codeHeld s u where
  aside :=
    have hjudged : Aside s (strikeJudged x r tie n f s) := ⟨rfl, rfl, rfl, rfl, rfl, rfl, rfl, rfl, rfl, rfl⟩
    Aside.trans hjudged (Noticed.aside hn)
  line := hn.line
  points := hn.points
  faults := (noticed_aloof hn).faults
  times := (congrArg Stations.times hn.stations :)
  loaves := congrArg Track.loaves hn.track
  state := by rw [Noticed.stationRec hn, stationRec_strikeJudged]
  tag := by rw [Noticed.stationRec hn, stationRec_strikeJudged]; exact ht
  held := by rw [Noticed.stationRec hn, stationRec_strikeJudged]

/-- Under a covered bag eye the wait runs (R89). -/
theorem strikeJudged_waits (hn : Noticed (strikeJudged x r tie n f s) u) (hh : (stationRec s x).held = false)
    (he : inputHigh s (.bagEye x) = true) : Noticed (countStation x f (modifyLoaf r.tag (tied tie (tyerOf s x).codeHeld)
      (setTyer x { tyerOf s x with stage := none, codeHeld := none }
        (setStation x { stationRec s x with
          state := .releasing, scoopTimer := none, misties := n, releaseTimer := some s.stations.times.openTimeout } s))))
      (finish (awaitRelease x u)) := by
  have hrec : stationRec u x = { stationRec s x with state := .releasing, scoopTimer := none, misties := n } :=
    (Noticed.stationRec hn x).trans (stationRec_strikeJudged x r tie n f s)
  have hwait := awaitRelease_waits (x := x) (w := u) (by rw [hrec]) (by rw [hrec]; exact hh) ((Noticed.inputHigh hn _).trans he)
  rw [hwait, hrec, show u.stations.times = s.stations.times from (congrArg Stations.times hn.stations :)]
  refine (Noticed.of_eq ?_).trans ((Noticed.setStation hn x _).trans (finish_noticed _))
  cases x <;> rfl

/-- With the bag eye clear the loaf is released at once, and the station's next bag opens (R89). -/
theorem strikeJudged_releases (hr : stationLoaf s x = some r) (hn : Noticed (strikeJudged x r tie n f s) u)
    (hh : (stationRec s x).held = false) (he : inputHigh s (.bagEye x) = false) (hz : r.zone = .station x) :
    let t := finish (awaitRelease x u)
    (ReleasedAtOnce x r tie (tyerOf s x).codeHeld s t ∧ tyerOf t x = { tyerOf s x with stage := none, codeHeld := none } ∧
      (stationRec t x).misties = n) ∧ (bagCounts t x).misties = (f (bagCounts s x)).misties := by
  obtain ⟨htag, hfind⟩ := stationLoaf_find hr
  have hended := strikeJudged_ended htag hn
  have hlow : inputHigh u (.bagEye x) = false := (Noticed.inputHigh hn _).trans he
  have hf := releaseLoaf_freed hlow hended.tag
  have hdone := finish_noticed (releaseLoaf x u)
  have hcounts : ∀ {v w : State}, Noticed v w → bagCounts w x = bagCounts v x := fun h =>
    congrArg (fun c : Shift => c.openRecord.stations.get x) h.shift
  rw [awaitRelease_releases hended.state (hended.held.trans hh) hlow]
  refine ⟨⟨releaseLoaf_atOnce hended.aside hended.loaves hfind hz hlow hended.tag, ?_, ?_⟩, ?_⟩
  · rw [Noticed.tyerOf hdone, hf.tyer]
    exact (Noticed.tyerOf hn x).trans (tyerOf_strikeJudged x r tie n f s)
  · rw [Noticed.stationRec hdone, hf.misties, stationRec_outfed, Noticed.stationRec hn, stationRec_strikeJudged]
  · rw [hcounts hdone, hf.counts.1]
    exact congrArg StationCounts.misties ((hcounts hn).trans (bagCounts_strikeJudged x r tie n f s))

end

/-! ## The warning of a mistie -/

section
variable {x : Station} {w : State}

theorem enterOpening_mistie (he : inputHigh w (.bagEye x) = false) : warnEntry (enterOpening x w) .mistie = warnEntry w .mistie := by
  have hopened : warnEntry (SlicingHead.opened x w) .mistie = warnEntry w .mistie := warn_other (by nofun) _ _
  have hlow : inputHigh (SlicingHead.opened x w) (.bagEye x) = false := (opened_becomes x w).aloof.inputHigh _ |>.trans he
  cases hd : openDraws w x with
  | false => rw [enterOpening_waits hd, hopened]
  | true =>
    rw [enterOpening_draws hd, drawBag_eq, (drawn_becomes x 1 _).aloof.inputHigh, hlow, if_neg Bool.false_ne_true, ← hopened]
    split
    · exact warn_other (by nofun) _ _
    · exact warn_other (by nofun) _ _

/-- The entry into RELEASING leaves the warning of a mistie, released or not. -/
theorem awaitRelease_mistie (x : Station) (w : State) : warnEntry (awaitRelease x w) .mistie = warnEntry w .mistie := by
  have hfree : (loafToOutfeed x w).sup = w.sup ∧ (loafToOutfeed x w).points = w.points := by
    unfold loafToOutfeed
    dsimp only
    split <;> exact ⟨rfl, rfl⟩
  obtain ⟨hsup, hpoints⟩ := hfree
  have hentry : warnEntry (loafToOutfeed x w) .mistie = warnEntry w .mistie := warnEntry_of_warnings (by rw [hsup]) _
  unfold awaitRelease
  dsimp only
  split
  · split
    · rfl
    · rename_i he
      unfold releaseLoaf afterRelease
      rw [← hentry]
      split
      · exact enterOpening_mistie ((inputs_same hpoints _).2.trans (Bool.eq_false_iff.mpr he))
      · exact warn_other (by nofun) _ _
  · rfl

theorem strikeEnded_warning {p : Bool} {w : State} (h : (warnEntry w .mistie).present = p) :
    (warnEntry (finish (awaitRelease x w)) .mistie).present = p := by
  rw [finish_warnEntry (by decide), awaitRelease_mistie]
  exact h

end

theorem strikeTied_warning (x : Station) (r : Loaf) (s : State) : (warnEntry (strikeTied x r s) .mistie).present = false := by rw [warn_entry]

theorem strikeMistied_warning (x : Station) (r : Loaf) (s : State) : (warnEntry (strikeMistied x r s) .mistie).present = true := by
  show (warnEntry (warn .mistie true _) .mistie).present = true
  rw [warn_entry]

/-! ## The third mistie in a row -/

/-- What the third mistie leaves at the end of the event (R102). -/
theorem thirdMistie_leaves {x : Station} {r : Loaf} {s : State} (hr : stationLoaf s x = some r) :
    let a := (faultEntry s (.station x)).action
    let t := finish (awaitRelease x (raiseFault (.station x) (some r.tag) (strikeMistied x r s)))
    (tyerOf t x).stage = none ∧ (faultEntry t (.station x)).state = .latched ∧ (BeltRuns s → ActedOnLine a s t) ∧
      (BeltRuns s → r.zone = .station x → (stationRec s x).held = false →
        ReleasingUnderFault a x r .mistie (tyerOf s x).codeHeld s t) ∧
      (faultEntry t (.station x)).lastLoaf = some r.tag ∧ (warnEntry t .mistie).present = true ∧
      (Listening s → Report.fault (.station x) .latched (min ((faultEntry s (.station x)).count + 1) 255) ∈ t.link.queue) ∧
      (∃ q ∈ t.track.loaves, q.tag = r.tag ∧ q.tie = some .mistie) := by
  obtain ⟨htag, hfind⟩ := stationLoaf_find hr
  have hended := strikeJudged_ended htag (strikeMistied_noticed x r s)
  have hk : FaultKind.station x ≠ .beltStall := nofun
  have hentry : faultEntry (strikeMistied x r s) (.station x) = faultEntry s (.station x) := by
    unfold faultEntry
    rw [hended.faults]
  have htaken := raiseFault_taken (some r.tag) (strikeMistied x r s) hk
  have hturned := faultOccurs_latched (.station x) (some r.tag) (strikeMistied x r s)
  rw [hentry] at htaken hturned
  have hawait := awaitRelease_awaited x (raiseFault (.station x) (some r.tag) (strikeMistied x r s))
  have hn := finish_noticed (awaitRelease x (raiseFault (.station x) (some r.tag) (strikeMistied x r s)))
  have hfault : faultEntry (finish (awaitRelease x (raiseFault (.station x) (some r.tag) (strikeMistied x r s)))) (.station x) =
      faultEntry (raiseFault (.station x) (some r.tag) (strikeMistied x r s)) (.station x) := by
    rw [(Noticed.calm hn).entry]
    unfold faultEntry
    rw [hawait.faults]
  have hlatched : faultEntry (raiseFault (.station x) (some r.tag) (strikeMistied x r s)) (.station x) = _ :=
    Turned.acts_entry hturned hk
  have htells : Tells 1 s (strikeMistied x r s) :=
    (warn_tells .mistie true (strikeJudged x r .mistie (min ((stationRec s x).misties + 1) 3) id s)).of_same rfl
  dsimp only
  rw [hfault, hlatched]
  refine ⟨?_, rfl, fun hb => ?_, fun hb hz hh => ?_, rfl, ?_, fun hs => ?_, ?_⟩
  · rw [Noticed.tyerOf hn, hawait.tyer]
    refine (htaken.cut x).stage ?_
    rw [Noticed.tyerOf (strikeMistied_noticed x r s), tyerOf_strikeJudged]
  · exact htaken.acted s _ 1 2 (TyingEnded.beltRuns hended hb) hended.line (TyingEnded.nil_iff hended) htells hawait.line hawait.hold
      hawait.tells (by decide)
  · exact TyingEnded.releasing hended hr htaken (.inl rfl) hb hz hh
  · refine strikeEnded_warning ?_
    rw [(raiseFault_reacts _ _ _).warn]
    exact strikeMistied_warning x r s
  · exact ((htells.hears (Turned.acts_hears hturned)).trans hawait.tells).finished (by decide) hs
  · obtain ⟨q, hq, hqtag, hqtie, _⟩ := TyingEnded.record hended hr htaken
    exact ⟨q, hq, hqtag, hqtie⟩

/-! ## The obligation -/

theorem strikeEnds_unjudged {x : Station} {k : Strike} {s : State} (hk : (tyerOf s x).stage = some k) (hj : k.judged = none) :
    strikeEnds x s = s := by
  unfold strikeEnds
  rw [hk, Option.bind_some, hj]

theorem strikeEnds_judged {x : Station} {k : Strike} {s : State} {tie : TieResult} (hk : (tyerOf s x).stage = some k)
    (hj : k.judged = some tie) : strikeEnds x s = finish (endTying x tie s) := by
  unfold strikeEnds
  rw [hk, Option.bind_some, hj]

/-- Settles O38: the request at the half strike, the judgement of the sample, and the end of the strike in its three outcomes. -/
theorem strikeJudgesTension : Obligations.StrikeJudgesTension := by
  intro x k s hk
  have hmiddle : exec (.strikeMidpoint x) s = .next (strikeMiddle x s) := rfl
  have hend : exec (.strikeEnd x) s = .next (strikeEnds x s) := rfl
  have hchannel := requestChannel_station x
  rw [hmiddle, hend, ← hchannel]
  refine ⟨fun hd hc hq => ?_, fun hd hc => ?_, fun hd => ?_, fun v hv value hvc => ?_, fun hj => ?_, fun r hr hh => ⟨fun hj => ?_,
    fun hj hm => ?_⟩, fun r hr hj hm => ?_⟩
  · rw [strikeMiddle_due hk hd]
    exact congrArg Host.Outcome.next (askConversion_free (s := setTyer x _ s) hc hq)
  · rw [strikeMiddle_due hk hd]
    exact congrArg Host.Outcome.next (askConversion_busy (s := setTyer x _ s) hc)
  · rw [strikeMiddle_past hk hd]
  · obtain ⟨m, hlimits, htyer⟩ := tyerOf_conversionDone hv hvc value
    refine ⟨_, rfl, fun hq => ?_, fun hq => ?_⟩
    · rw [htyer, hq, ← hlimits]
      exact judgeStrike_judges (s := s.setMeas m) hk v.channel value.toNat
    · rw [htyer, hq]
      rfl
  · rw [strikeEnds_unjudged hk hj]
  · obtain ⟨htag, _⟩ := stationLoaf_find hr
    rw [strikeEnds_judged hk hj, endTying_tied htag]
    refine ⟨_, rfl, strikeEnded_warning (strikeTied_warning x r s), fun he => ?_, fun he hz => ?_⟩
    · refine (Noticed.of_eq ?_).trans (strikeJudged_waits (strikeTied_noticed x r s) hh he)
      cases x <;> rfl
    · exact (strikeJudged_releases hr (strikeTied_noticed x r s) hh he hz).1
  · obtain ⟨htag, _⟩ := stationLoaf_find hr
    have hcount : min ((stationRec s x).misties + 1) 3 = (stationRec s x).misties + 1 := min_eq_left (by omega)
    have hn := strikeMistied_noticed x r s
    rw [hcount] at hn
    rw [strikeEnds_judged hk hj, endTying_mistied htag, if_neg (by omega)]
    exact ⟨_, rfl, strikeEnded_warning (strikeMistied_warning x r s), strikeJudged_waits hn hh, strikeJudged_releases hr hn hh⟩
  · obtain ⟨htag, _⟩ := stationLoaf_find hr
    have hsteady := strikeEnds_steady x s
    rw [strikeEnds_judged hk hj, endTying_mistied htag, if_pos (by omega)] at hsteady ⊢
    exact ⟨_, rfl, hsteady.aside, thirdMistie_leaves hr⟩

end Sys2Proof.BaggingStations
end

-- ==== The stations, proofs: CLEAR FAULTS ====
section
/-! The latched faults cleared, the stations that return, the sweep that may start and the line that leaves HALTED (O48). -/

namespace Sys2Proof.BaggingStations

open Sys2Proof.Machine Sys2Proof.Safety Sys2Proof.Laws Sys2Proof.LoafTrack Sys2Proof.SwitchInputs Sys2Proof.SlicingHead

/-! ## The latched faults -/

/-- What the clearing of the faults of a list leaves: their entries INACTIVE, and a report of each. -/
structure Cleared (ks : List FaultKind) (s t : State) : Prop where
  flagged : Flagged s t
  first : t.sup.firstFault = s.sup.firstFault
  entry : ∀ k, faultEntry t k = { faultEntry s k with state := if k ∈ ks then .inactive else (faultEntry s k).state }
  tells : Tells ks.length s t
  hears : ∀ k ∈ ks, Hears (.fault k .inactive (faultEntry s k).count) ks.length s t

theorem Cleared.nil (s : State) : Cleared [] s s :=
  ⟨Flagged.refl s, rfl, fun _ => rfl, Tells.refl s 0, fun _ h => (nomatch h)⟩

theorem faultMoves_hears (k : FaultKind) (st : FaultState) (s : State) :
    Hears (.fault k st (faultEntry s k).count) 1 s (faultMoves k st s) :=
  (report_hears (.fault k st (faultEntry s k).count) (setFault k { faultEntry s k with state := st } s)).of_same rfl

theorem Cleared.cons {k : FaultKind} {ks : List FaultKind} {s t : State} (h : Cleared ks (faultMoves k .inactive s) t) :
    Cleared (k :: ks) s t := by
  have hlength : 1 + ks.length = (k :: ks).length := Nat.add_comm _ _
  have hself := faultMoves_entry k .inactive s
  have hother : ∀ j, k ≠ j → faultEntry (faultMoves k .inactive s) j = faultEntry s j := fun j hj => faultMoves_other k j .inactive s hj
  have hcount : ∀ j, (faultEntry (faultMoves k .inactive s) j).count = (faultEntry s j).count := fun j => by
    by_cases hj : k = j
    · subst hj
      rw [hself]
    · rw [hother j hj]
  refine ⟨(faultMoves_flagged k .inactive s).trans h.flagged, h.first.trans (faultMoves_raised k .inactive s).first, fun j => ?_, ?_,
    fun j hj => ?_⟩
  · rw [h.entry]
    by_cases hj : k = j
    · subst hj
      rw [hself, if_pos (List.mem_cons_self ..), ite_self]
    · rw [hother j hj]
      simp only [List.mem_cons, Ne.symm hj, false_or]
  · rw [← hlength]
    exact (faultMoves_hears k .inactive s).toTells.trans h.tells
  · rw [← hlength]
    rcases List.mem_cons.mp hj with rfl | hj
    · exact (faultMoves_hears j .inactive s).trans h.tells
    · have hj := h.hears j hj
      rw [hcount] at hj
      exact (faultMoves_hears k .inactive s).toTells.hears hj

theorem foldl_cleared (ks : List FaultKind) (s : State) : Cleared ks s (ks.foldl (fun t k => faultMoves k .inactive t) s) := by
  induction ks generalizing s with
  | nil => exact Cleared.nil s
  | cons k ks ih => exact Cleared.cons (ih _)

/-- An entry after CLEAR FAULTS (R148). -/
abbrev clearedEntry (e : FaultEntry) : FaultEntry := { e with state := if e.state = .latched then .inactive else e.state }

theorem mem_latchedFaults (s : State) (k : FaultKind) : k ∈ latchedFaults s ↔ (faultEntry s k).state = .latched := by
  unfold latchedFaults
  rw [List.mem_filter, decide_eq_true_eq]
  exact and_iff_right (Sys2Proof.SupervisionSettings.mem_allFaults k)

theorem clearLatched_cleared (s : State) : Cleared (latchedFaults s) s (clearLatched s) := foldl_cleared _ s

theorem clearLatched_entry (s : State) (k : FaultKind) : faultEntry (clearLatched s) k = clearedEntry (faultEntry s k) := by
  rw [(clearLatched_cleared s).entry]
  simp only [mem_latchedFaults]

/-- Once the latched faults are cleared, those that are ACTIVE stand. -/
theorem faultStands_cleared {s u : State} {k : FaultKind} (h : faultEntry u k = clearedEntry (faultEntry s k)) :
    faultStands u k = decide ((faultEntry s k).state = .active) := by
  unfold faultStands
  rw [h]
  dsimp only
  cases (faultEntry s k).state <;> rfl

/-! ## Beside the stations -/

/-- What a station's operation and the routing after it leave of what is not a station's, the head's or the track's; nor does a record come
to the slicer. -/
structure Beside (s t : State) : Prop where
  first : t.sup.firstFault = s.sup.firstFault
  crumb : t.crumb = s.crumb
  points : t.points = s.points
  member : t.member = s.member
  times : t.stations.times = s.stations.times
  slicer : (∀ q ∈ s.track.loaves, q.zone ≠ .slicer) → ∀ q ∈ t.track.loaves, q.zone ≠ .slicer

theorem Beside.refl (s : State) : Beside s s := ⟨rfl, rfl, rfl, rfl, rfl, id⟩

theorem Beside.trans {s t u : State} (h : Beside s t) (k : Beside t u) : Beside s u :=
  ⟨k.first.trans h.first, k.crumb.trans h.crumb, k.points.trans h.points, k.member.trans h.member, k.times.trans h.times,
    fun hs => k.slicer (h.slicer hs)⟩

theorem Beside.of_aloof {s t : State} (h : Aloof s t) : Beside s t := by
  refine ⟨?_, h.crumb, h.points, h.member, h.times, by rw [h.track]; exact id⟩
  rw [h]

theorem moveLoaf_beside (z : Zone) (tag : Nat) {f : Loaf → Loaf} (hf : ∀ r, (f r).zone ≠ .slicer) (s : State) :
    Beside s (moveLoaf z tag f s) := by
  refine ⟨rfl, rfl, rfl, rfl, rfl, fun hs q hq => ?_⟩
  rcases mem_modifyFirst hq with h | ⟨r, _, rfl⟩
  · exact hs q h
  · exact hf r

theorem gateDecision_beside (s : State) : Beside s (gateDecision s) := by
  rcases gateDecision_cases s with h | ⟨tag, h⟩ | ⟨x, tag, _, h⟩
  · rw [h]
    exact Beside.refl s
  · rw [h]
    exact moveLoaf_beside .transfer tag (fun _ => by nofun) s
  · have hmoved : Beside s (moveLoaf .transfer tag (fun r => { r with zone := .station x, station := some x }) s) :=
      moveLoaf_beside .transfer tag (fun _ => by nofun) s
    rw [h]
    exact hmoved.trans ⟨rfl, rfl, rfl, rfl, rfl, id⟩

theorem endStroke_beside (s : State) : Beside s (endStroke s) := by
  rcases endStroke_cases s with h | ⟨_, tag, k, stall, h⟩
  · rw [h]
    exact Beside.refl s
  · have hmoved : Beside s (moveLoaf .slicer tag (fun r => { r with zone := .transfer, ejectCount := some s.track.beltCount }) s) :=
      moveLoaf_beside .slicer tag (fun _ => by nofun) s
    have hleft : Beside s ((leftSlicer tag s).setHead { (leftSlicer tag s).head with knife := k, stallTimer := stall }) :=
      hmoved.trans ⟨rfl, rfl, rfl, rfl, rfl, id⟩
    rw [h]
    exact hleft.trans (gateDecision_beside _)

theorem route_beside (s : State) : Beside s (route s) := (gateDecision_beside s).trans (endStroke_beside _)

theorem drawBag_beside (x : Station) (n : Nat) (s : State) : Beside s (drawBag x n s) := by
  have hdrawn := Beside.of_aloof (drawn_becomes x n s).aloof
  rw [drawBag_eq]
  split
  · exact Beside.of_aloof (stationEmpties_becomes x s).aloof
  split
  · exact hdrawn.trans ((Beside.of_aloof (setStation_becomes x _ _).aloof).trans (route_beside _))
  · exact hdrawn

theorem tryDraw_beside (x : Station) (s : State) : Beside s (tryDraw x s) := by
  unfold tryDraw
  split
  · exact drawBag_beside x 1 s
  · exact Beside.refl s

theorem enterOpening_beside (x : Station) (s : State) : Beside s (enterOpening x s) :=
  (Beside.of_aloof (opened_becomes x s).aloof).trans (tryDraw_beside x _)

/-! ## The return of a station -/

/-- A station returns, or not: what either leaves. -/
structure Attended (x : Station) (s t : State) : Prop where
  restarted : Restarted x 2 s t
  beside : Beside s t

theorem forgiven_attended (x : Station) (s : State) : Attended x s (forgiven x s) :=
  ⟨(setStation_restarted x _ s).mono (by omega), Beside.of_aloof (setStation_becomes x _ s).aloof⟩

theorem serviceBack_attended (x : Station) (s : State) : Attended x s (serviceBack x s) := by
  have hf := forgiven_attended x s
  have hset : Restarted x 0 s (forgiven x s) := setStation_restarted x _ s
  by_cases h : (stationRec s x).state = .outOfService
  · rw [serviceBack_out h]
    split
    · have he := stationEmpties_becomes x (forgiven x s)
      have htells : Tells 1 (forgiven x s) (stationEmpties x (forgiven x s)) := (evaluate_tells (.bagsEmpty x) _).of_same rfl
      exact ⟨(hset.trans (Restarted.of_becomes he htells)).mono (by omega), hf.beside.trans (Beside.of_aloof he.aloof)⟩
    · exact ⟨hset.trans (enterOpening_restarted x _), hf.beside.trans (enterOpening_beside x _)⟩
  · rw [serviceBack_keeps h]
    exact hf

theorem holdEnded_attended (s : State) (x : Station) (u : State) : Attended x u (holdEnded s x u) := by
  unfold holdEnded
  split
  · exact serviceBack_attended x u
  · exact ⟨(Restarted.refl x u).mono (by omega), Beside.refl u⟩

/-- The fault hold of a fitted station ends while its flag is set (R91). -/
structure Returns (s : State) (x : Station) : Prop where
  fitted : stationFitted s.member x = true
  flag : (stationRec s x).inServiceFlag = true
  latched : (faultEntry s (.station x)).state = .latched ∨ (faultEntry s (.clipsOut x)).state = .latched
  station : (faultEntry s (.station x)).state ≠ .active
  clips : (faultEntry s (.clipsOut x)).state ≠ .active

theorem holdEnded_returns {s u : State} {x : Station} (h : Returns s x) (hr : stationRec u x = stationRec s x) (hm : u.member = s.member)
    (he : ∀ k, faultEntry u k = clearedEntry (faultEntry s k)) : holdEnded s x u = serviceBack x u := by
  have hbefore : faultHold s x = true := by
    unfold faultHold faultStands
    rcases h.latched with hl | hl <;> rw [hl] <;> simp
  have hafter : faultHold u x = false := by
    unfold faultHold
    rw [faultStands_cleared (he _), faultStands_cleared (he _), decide_eq_false h.station, decide_eq_false h.clips]
    rfl
  have hflag : (stationRec u x).inServiceFlag = true := by rw [hr]; exact h.flag
  have hfitted : stationFitted u.member x = true := by rw [hm]; exact h.fitted
  unfold holdEnded
  rw [hbefore, hafter, hflag, hfitted]
  rfl

/-- The state in which the stations have returned. -/
abbrev bothBack (s : State) : State := holdEnded s .b (holdEnded s .a (clearLatched s))

/-- What stands for the return of a station: `u` is where it returns. -/
structure ReturnsFrom (s : State) (x : Station) (u : State) : Prop where
  record : stationRec u x = stationRec s x
  line : u.sup.line = s.sup.line
  points : u.points = s.points
  times : u.stations.times = s.stations.times

theorem clearLatched_beside (s : State) : Beside s (clearLatched s) := by
  have hc := clearLatched_cleared s
  have hf := hc.flagged
  exact ⟨hc.first, hf.crumb, by rw [hf], by rw [hf], by rw [hf], by rw [hf]; exact id⟩

theorem faultEntry_of_faults {s t : State} (h : t.sup.faults = s.sup.faults) (k : FaultKind) : faultEntry t k = faultEntry s k := by
  unfold faultEntry
  rw [h]

/-- A station that returns is what its return makes of it, unless that is READY. -/
theorem bothBack_returns {s : State} {x : Station} (h : Returns s x) (hr : (stationRec s x).state ≠ .ready) :
    ∃ u, ReturnsFrom s x u ∧ ((stationRec (serviceBack x u) x).state ≠ .ready →
      stationRec (bothBack s) x = stationRec (serviceBack x u) x) := by
  have hf := (clearLatched_cleared s).flagged
  have hbeside := clearLatched_beside s
  have hrec : ∀ y, stationRec (clearLatched s) y = stationRec s y := fun y => congrArg (fun p : Stations => p.recs.get y) hf.stations
  cases x with
  | a =>
    have hback := holdEnded_returns h (hrec .a) hbeside.member (clearLatched_entry s)
    refine ⟨clearLatched s, ⟨hrec .a, hf.line, hbeside.points, hbeside.times⟩, fun hnot => ?_⟩
    have hother := (holdEnded_attended s .b (holdEnded s .a (clearLatched s))).restarted.recs .a nofun
    rw [← hback] at hnot ⊢
    exact hother.resolve_right fun e => hnot e.1
  | b =>
    have hfirst := holdEnded_attended s .a (clearLatched s)
    have hsame : stationRec (holdEnded s .a (clearLatched s)) .b = stationRec s .b := by
      rw [← hrec .b]
      refine (hfirst.restarted.recs .b nofun).resolve_right fun e => hr ?_
      rw [← hrec .b]
      exact e.1
    refine ⟨holdEnded s .a (clearLatched s), ⟨hsame, hfirst.restarted.line.trans hf.line, hfirst.beside.points.trans hbeside.points,
      hfirst.beside.times.trans hbeside.times⟩, fun _ => ?_⟩
    have hback := holdEnded_returns h hsame (hfirst.beside.member.trans hbeside.member)
      (fun k => (faultEntry_of_faults hfirst.restarted.faults k).trans (clearLatched_entry s k))
    exact congrArg (fun t => stationRec t .b) hback

/-! ## The line that leaves HALTED -/

/-- The line STOPPED, TREND with its last sample. -/
abbrev lineStopped (u : State) : State := trendTakes (setLine .stopped u).meas.trend.channel (setLine .stopped u)

theorem leaveHalted_eq (u : State) : leaveHalted u = route (tryDraw .b (tryDraw .a (lineStopped u))) := rfl

theorem lineStopped_eq (u : State) :
    ∃ m, lineStopped u = { u with sup := { u.sup with line := .stopped }, meas := m, link := (setLine .stopped u).link } := by
  obtain ⟨link, h⟩ := setLine_linked .stopped u
  have hlink : (setLine .stopped u).link = link := by rw [h]
  rw [hlink]
  unfold lineStopped trendTakes
  rw [h, if_neg (by nofun)]
  exact ⟨_, rfl⟩

/-- What the line leaves when it leaves HALTED. -/
structure Unhalted (u t : State) : Prop where
  line : t.sup.line = .stopped
  faults : t.sup.faults = u.sup.faults
  first : t.sup.firstFault = u.sup.firstFault
  hears : Hears (.line .stopped) 3 u t
  recs : ∀ x, (stationRec u x).state ≠ .ready → (stationRec u x).state ≠ .opening ∨ (stationRec u x).held = true →
    stationRec t x = stationRec u x

/-- A draw leaves a station that is not READY and has none to make. -/
theorem tryDraw_keeps {x : Station} (y : Station) {u : State} (hr : (stationRec u x).state ≠ .ready)
    (hd : (stationRec u x).state ≠ .opening ∨ (stationRec u x).held = true) : stationRec (tryDraw y u) x = stationRec u x := by
  by_cases hy : x = y
  · subst hy
    have hnot : drawDue u x = false := by
      unfold drawDue
      rcases hd with hd | hd
      · rw [decide_eq_false hd]
        rfl
      · rw [hd]
        simp
    unfold tryDraw
    rw [hnot]
    rfl
  · exact ((tryDraw_restarted y u).recs x hy).resolve_right fun e => hr e.1

theorem leaveHalted_unhalted (u : State) : Unhalted u (leaveHalted u) := by
  obtain ⟨m, hm⟩ := lineStopped_eq u
  have ha := tryDraw_restarted .a (lineStopped u)
  have hb := tryDraw_restarted .b (tryDraw .a (lineStopped u))
  have hroute := route_restarted .a (tryDraw .b (tryDraw .a (lineStopped u)))
  have hbeside := (tryDraw_beside .a (lineStopped u)).trans ((tryDraw_beside .b _).trans (route_beside _))
  have hears : Hears (.line .stopped) 1 u (lineStopped u) := by
    have h := (setLine_hears .stopped u).trans (Tells.of_link (t := lineStopped u) (by rw [hm]) 0)
    exact h
  rw [leaveHalted_eq]
  refine ⟨?_, ?_, ?_, ((hears.trans ha.tells).trans hb.tells).trans hroute.tells, fun x hr hd => ?_⟩
  · rw [hroute.line, hb.line, ha.line, hm]
  · rw [hroute.faults, hb.faults, ha.faults, hm]
  · rw [hbeside.first, hm]
  · have hrec : stationRec (lineStopped u) x = stationRec u x := by
      rw [hm]
      rfl
    have hfirst := tryDraw_keeps (u := lineStopped u) .a (by rw [hrec]; exact hr) (by rw [hrec]; exact hd)
    rw [hrec] at hfirst
    have hsecond := tryDraw_keeps .b (by rw [hfirst]; exact hr) (by rw [hfirst]; exact hd)
    rw [hfirst] at hsecond
    have hclosed := (gateDecision_closed (tryDraw .b (tryDraw .a (lineStopped u)))).trans (endStroke_closed _)
    exact (hclosed.recs x (by rw [hsecond]; exact hr)).trans hsecond

end Sys2Proof.BaggingStations
end

-- ==== The stations, proofs: CLEAR FAULTS and the end of its event ====
section
/-! The line, the reports and the stations after CLEAR FAULTS (O48). -/

namespace Sys2Proof.BaggingStations

open Sys2Proof.Machine Sys2Proof.Safety Sys2Proof.Laws Sys2Proof.LoafTrack Sys2Proof.SwitchInputs Sys2Proof.SlicingHead

/-! ## A station's record after its return -/

section
variable {s u : State} {x : Station} (h : ReturnsFrom s x u) (ho : (stationRec s x).state = .outOfService)
include h

theorem ReturnsFrom.forgiven_record : stationRec (forgiven x u) x = { stationRec s x with misties := 0 } := by
  rw [stationRec_forgiven, h.record]

/-- A station with a loaf keeps its cycle, its misties forgotten (R91, R102). -/
theorem ReturnsFrom.keeps (hs : (stationRec s x).state ≠ .outOfService) :
    stationRec (serviceBack x u) x = { stationRec s x with misties := 0 } := by
  rw [serviceBack_keeps (by rw [h.record]; exact hs)]
  exact h.forgiven_record

include ho

theorem ReturnsFrom.out : serviceBack x u =
    if (stationRec s x).magazine = 0 ∧ s.sup.line ≠ .halted then stationEmpties x (forgiven x u) else enterOpening x (forgiven x u) := by
  rw [serviceBack_out (by rw [h.record]; exact ho), h.record, h.line]

/-- In HALTED the station opens held (R91, R94). -/
theorem ReturnsFrom.held (hl : s.sup.line = .halted) :
    stationRec (serviceBack x u) x = { openingRec false { stationRec s x with misties := 0 } with held := true } := by
  have hline : u.sup.line = .halted := h.line.trans hl
  have hwaits : openDraws (forgiven x u) x = false := by
    unfold openDraws
    rw [show (forgiven x u).sup.line = .halted from hline]
    simp
  have hopened := (opened_becomes x (forgiven x u)).record
  rw [show (forgiven x u).sup.line = .halted from hline, h.forgiven_record] at hopened
  rw [h.out ho, if_neg fun e => e.2 hl, enterOpening_waits hwaits, hopened]
  unfold openingRec
  rw [Bool.or_false, decide_eq_true rfl, Bool.or_true]

/-- Without bags it is EMPTY (R91). -/
theorem ReturnsFrom.empty (hl : s.sup.line ≠ .halted) (hm : (stationRec s x).magazine = 0) :
    (stationRec (serviceBack x u) x).state = .empty := by
  rw [h.out ho, if_pos ⟨hm, hl⟩, (stationEmpties_becomes x _).record]

/-- Else it opens, and draws where it may (R80, R91). -/
theorem ReturnsFrom.draws (hl : s.sup.line ≠ .halted) (hm : (stationRec s x).magazine ≠ 0) (hh : (stationRec s x).held = false)
    (hbag : Held s (.bagEye x)) (hblower : Held s (.blower x)) (he : inputHigh s (.bagEye x) = false) :
    stationRec (serviceBack x u) x = { openingRec false { stationRec s x with misties := 0 } with
      attempt := some 1, bagTimer := some s.stations.times.openTimeout, magazine := (stationRec s x).magazine - 1 } := by
  have hpoints : (forgiven x u).points = s.points := h.points
  have htimes : (forgiven x u).stations.times = s.stations.times := h.times
  have hrec := h.forgiven_record
  have hdraws : openDraws (forgiven x u) x = true := by
    refine openDraws_iff.mpr ⟨by rw [hrec]; exact hh, ?_, (inputs_same hpoints _).1.trans hbag, (inputs_same hpoints _).1.trans hblower⟩
    exact fun e => hl (h.line.symm.trans e)
  have hn := enterOpening_awaits hdraws (by rw [hrec]; exact hm) ((inputs_same hpoints _).2.trans he)
  rw [h.out ho, if_neg fun e => hm e.1, Noticed.stationRec hn]
  refine (stationRec_setStation_self x _ (forgiven x u)).trans ?_
  rw [hrec, htimes]

end

/-! ## The sweep -/

/-- The state in which a suspension that has ended has let a pending sweep start (R116). -/
abbrev sweepTried (s : State) : State :=
  if sweepsSuspended s && !sweepsSuspended (bothBack s) then trySweep (bothBack s) else bothBack s

theorem sweepTried_eq (s : State) : ∃ c, sweepTried s = (bothBack s).setCrumb c := by
  unfold sweepTried
  split
  · exact trySweep_crumb _
  · exact ⟨(bothBack s).crumb, rfl⟩

/-- What the stations' return, and the sweep's start after it, leave of the line, the faults and the queue. -/
structure BackInService (s u : State) : Prop where
  line : u.sup.line = s.sup.line
  entry : ∀ k, faultEntry u k = clearedEntry (faultEntry s k)
  first : u.sup.firstFault = s.sup.firstFault
  hears : ∀ k, (faultEntry s k).state = .latched → Hears (.fault k .inactive (faultEntry s k).count) ((latchedFaults s).length + 4) s u
  tells : Tells ((latchedFaults s).length + 4) s u

theorem bothBack_inService (s : State) : BackInService s (bothBack s) := by
  have hc := clearLatched_cleared s
  have ha := holdEnded_attended s .a (clearLatched s)
  have hb := holdEnded_attended s .b (holdEnded s .a (clearLatched s))
  have hfaults := hb.restarted.faults.trans ha.restarted.faults
  have hafter : Tells 4 (clearLatched s) (bothBack s) := ha.restarted.tells.trans hb.restarted.tells
  exact ⟨hb.restarted.line.trans (ha.restarted.line.trans hc.flagged.line),
    fun k => (faultEntry_of_faults hfaults k).trans (clearLatched_entry s k), hb.beside.first.trans (ha.beside.first.trans hc.first),
    fun k hk => (hc.hears k ((mem_latchedFaults s k).mpr hk)).trans hafter, hc.tells.trans hafter⟩

theorem sweepTried_inService (s : State) : BackInService s (sweepTried s) := by
  obtain ⟨c, hc⟩ := sweepTried_eq s
  have h := bothBack_inService s
  have hsame : Tells 0 (bothBack s) ((bothBack s).setCrumb c) := Tells.of_link rfl 0
  rw [hc]
  exact ⟨h.line, h.entry, h.first, fun k hk => (h.hears k hk).trans hsame, h.tells.trans hsame⟩

/-- The sweeps are suspended no longer, and the pending one starts (R116, R117). -/
theorem sweepTried_starts {s : State} (hs : sweepsSuspended s = true)
    (hk : ∀ k ∈ [FaultKind.trayFull, .vacuumFail], (faultEntry s k).state ≠ .active) (hl : s.sup.line ≠ .halted)
    (hp : s.crumb.pending ≠ none) (hw : s.crumb.sweep = none) (he : s.head.state = .empty) (hh : s.head.pusher.natAbs ≤ 2)
    (hz : ∀ r ∈ s.track.loaves, r.zone ≠ .slicer) :
    (sweepTried s).crumb.sweep = some ⟨s.crumb.settings.sweepTime, s.crumb.settings.pressure, false, true, true, none⟩ := by
  have hback := bothBack_inService s
  have ha := holdEnded_attended s .a (clearLatched s)
  have hb := holdEnded_attended s .b (holdEnded s .a (clearLatched s))
  have hbeside := (clearLatched_beside s).trans (ha.beside.trans hb.beside)
  have hhead : (bothBack s).head = s.head := by
    have hwaits : ∀ {v : State}, v.head = s.head → HeadWaits v := fun h => .inl (by rw [h, he]; exact ⟨by nofun, by nofun⟩)
    have hfirst := (ha.restarted.head (hwaits (clearLatched_cleared s).flagged.head)).trans (clearLatched_cleared s).flagged.head
    exact (hb.restarted.head (hwaits hfirst)).trans hfirst
  have hstands : ∀ k ∈ [FaultKind.trayFull, .vacuumFail], faultStands (bothBack s) k = false := fun k hmem => by
    rw [faultStands_cleared (hback.entry k)]
    exact decide_eq_false (hk k hmem)
  have hended : sweepsSuspended (bothBack s) = false := by
    unfold sweepsSuspended
    rw [hstands .trayFull (by simp), hstands .vacuumFail (by simp)]
    rfl
  have hcrumb := hbeside.crumb
  have hstarts := trySweep_starts (s := bothBack s) (by rw [hcrumb]; exact hp) (by rw [hcrumb]; exact hw)
    (fun h => Bool.false_ne_true (hended.symm.trans ((suspended_iff _).mpr h))) (hbeside.slicer hz) (by rw [hhead]; exact he)
    (by rw [hhead]; exact hh) (by rw [hback.line]; exact hl)
  unfold sweepTried
  rw [hs, hended]
  show (trySweep (bothBack s)).crumb.sweep = _
  rw [hstarts, ← hcrumb]
  rfl

/-! ## The line -/

/-- A fault whose action is HALT is ACTIVE (R148). -/
abbrev HaltActive (s : State) : Prop := ∃ k ∈ allFaults, (faultEntry s k).state = .active ∧ (faultEntry s k).action = .halt

theorem haltStands_iff (s : State) : haltStands (sweepTried s) = true ↔ HaltActive s := by
  have hentry := (sweepTried_inService s).entry
  unfold haltStands HaltActive
  simp only [List.any_eq_true, Bool.and_eq_true, faultStands_cleared (hentry _), hentry, decide_eq_true_eq]

/-- The line leaves HALTED, or stands, and NO_STATION is evaluated. -/
theorem clearFaults_cases (s : State) :
    (clearFaults s = evaluate .noStation (sweepTried s) ∧ (s.sup.line = .halted → HaltActive s)) ∨
      (clearFaults s = evaluate .noStation (leaveHalted (sweepTried s)) ∧ s.sup.line = .halted ∧ ¬HaltActive s) := by
  have hline := (sweepTried_inService s).line
  have hdone : clearFaults s = evaluate .noStation
    (if (sweepTried s).sup.line = .halted && !haltStands (sweepTried s) then leaveHalted (sweepTried s) else sweepTried s) := rfl
  have hcond : ((sweepTried s).sup.line = .halted && !haltStands (sweepTried s)) = true ↔ s.sup.line = .halted ∧ ¬HaltActive s := by
    rw [hline, ← haltStands_iff]
    simp only [Bool.and_eq_true, decide_eq_true_eq, Bool.not_eq_true', Bool.not_eq_true]
  by_cases h : s.sup.line = .halted ∧ ¬HaltActive s
  · exact .inr ⟨hdone.trans (congrArg (evaluate .noStation) (if_pos (hcond.mpr h))), h⟩
  · exact .inl ⟨hdone.trans (congrArg (evaluate .noStation) (if_neg (mt hcond.mp h))), fun hl => not_not.mp fun ha => h ⟨hl, ha⟩⟩

/-- What CLEAR FAULTS leaves of the fault table, the line and the queue (R148, R149, R152). -/
structure FaultsCleared (s t : State) : Prop where
  first : t.sup.firstFault = s.sup.firstFault
  entry : ∀ k, faultEntry t k = clearedEntry (faultEntry s k)
  stays : s.sup.line ≠ .halted ∨ HaltActive s → t.sup.line = s.sup.line
  leaves : s.sup.line = .halted → ¬HaltActive s → t.sup.line = .stopped
  told : Listening s → (latchedFaults s).length ≤ 8 →
    (∀ k, (faultEntry s k).state = .latched → Report.fault k .inactive (faultEntry s k).count ∈ t.link.queue) ∧
    (t.sup.line ≠ s.sup.line → Report.line t.sup.line ∈ t.link.queue)

theorem clearFaults_cleared (s : State) : FaultsCleared s (clearFaults s) := by
  have hback := sweepTried_inService s
  rcases clearFaults_cases s with ⟨h, hhalt⟩ | ⟨h, hl, hnot⟩
  · have hn := evaluate_noticed .noStation (sweepTried s)
    have hline : (evaluate .noStation (sweepTried s)).sup.line = s.sup.line := hn.line.trans hback.line
    rw [h]
    exact ⟨hn.firstFault.trans hback.first, fun k => ((Noticed.calm hn).entry k).trans (hback.entry k), fun _ => hline,
      fun hl hnot => absurd (hhalt hl) hnot, fun hs hlen =>
        ⟨fun k hk => Hears.queued ((hback.hears k hk).trans (evaluate_tells .noStation _)) (by omega) hs, fun hne => absurd hline hne⟩⟩
  · have hu := leaveHalted_unhalted (sweepTried s)
    have hn := evaluate_noticed .noStation (leaveHalted (sweepTried s))
    have hline : (evaluate .noStation (leaveHalted (sweepTried s))).sup.line = .stopped := hn.line.trans hu.line
    rw [h]
    refine ⟨hn.firstFault.trans (hu.first.trans hback.first), fun k => ?_, fun hstays => hstays.elim (absurd hl) (absurd · hnot),
      fun _ _ => hline, fun hs hlen => ⟨fun k hk => ?_, fun _ => ?_⟩⟩
    · exact ((Noticed.calm hn).entry k).trans ((faultEntry_of_faults hu.faults k).trans (hback.entry k))
    · exact Hears.queued (((hback.hears k hk).trans hu.hears.toTells).trans (evaluate_tells .noStation _)) (by omega) hs
    · rw [hline]
      exact Hears.queued ((hback.tells.hears hu.hears).trans (evaluate_tells .noStation _)) (by omega) hs

/-- What a station's return makes of it stands at the end, unless it is READY or draws. -/
theorem clearFaults_record {s : State} {x : Station} (h : Returns s x) (hr : (stationRec s x).state ≠ .ready) :
    ∃ u, ReturnsFrom s x u ∧ ∀ r, stationRec (serviceBack x u) x = r → r.state ≠ .ready →
      (s.sup.line = .halted → r.state ≠ .opening ∨ r.held = true) → stationRec (clearFaults s) x = r := by
  obtain ⟨u, hu, hback⟩ := bothBack_returns h hr
  refine ⟨u, hu, fun r hrec hnot hdraw => ?_⟩
  obtain ⟨c, hc⟩ := sweepTried_eq s
  have htried : stationRec (sweepTried s) x = r := by
    rw [hc, ← hrec]
    exact hback (by rw [hrec]; exact hnot)
  rcases clearFaults_cases s with ⟨hdone, _⟩ | ⟨hdone, hl, _⟩
  · rw [hdone, Noticed.stationRec (evaluate_noticed _ _), htried]
  · rw [hdone, Noticed.stationRec (evaluate_noticed _ _),
      (leaveHalted_unhalted (sweepTried s)).recs x (by rw [htried]; exact hnot) (by rw [htried]; exact hdraw hl), htried]

/-! ## The obligation -/

theorem svcClearFaults_taken (s : State) : svcClearFaults (some ()) s = (clearFaults s, accepted "CLEAR FAULTS"
    [decimal (latchedFaults s).length, codes (lineText (clearFaults s).sup.line)]) := needTier_pass (operator_ok s)

/-- Settles O48: the entries and the line after CLEAR FAULTS, its reports, the stations that return and the sweep that starts. -/
theorem clearFaultsReturnsLine : Obligations.ClearFaultsReturnsLine := by
  intro s hfree
  have hc := clearFaults_cleared s
  refine ⟨clearFaults s, taken hfree (svcClearFaults_taken s), (clearFaults_steady s).aside, hc.first, hc.entry, fun hl => hc.stays (.inl hl),
    fun hl => ?_, hc.told, fun x hx hflag hlatched hstation hclips => ?_, fun hs hk hl hp hw he hh hz => ?_⟩
  · split
    · next ha => exact (hc.stays (.inr ha)).trans hl
    · next ha => exact hc.leaves hl ha
  · have hreturns : Returns s x := ⟨hx, hflag, hlatched, hstation, hclips⟩
    refine ⟨fun ho hl => ?_, fun ho hl hm => ?_, fun ho hl hm hh hbag hblower he => ?_, fun hs => ?_⟩
    · obtain ⟨u, hu, hrec⟩ := clearFaults_record hreturns (by rw [ho]; nofun)
      exact hrec _ (hu.held ho hl) (by nofun) fun _ => .inr rfl
    · obtain ⟨u, hu, hrec⟩ := clearFaults_record hreturns (by rw [ho]; nofun)
      have hempty := hu.empty ho hl hm
      rw [hrec _ rfl (by rw [hempty]; nofun) fun h => absurd h hl]
      exact hempty
    · obtain ⟨u, hu, hrec⟩ := clearFaults_record hreturns (by rw [ho]; nofun)
      refine (hrec _ (hu.draws ho hl hm hh hbag hblower he) (by nofun) fun h => absurd h hl).trans ?_
      unfold openingRec
      rw [hh]
      rfl
    · have hcycle : (stationRec s x).state ≠ .ready ∧ (stationRec s x).state ≠ .outOfService ∧ (stationRec s x).state ≠ .opening := by
        rcases hs with hs | hs | hs <;> rw [hs] <;> exact ⟨by nofun, by nofun, by nofun⟩
      obtain ⟨hready, hout, hopening⟩ := hcycle
      obtain ⟨u, hu, hrec⟩ := clearFaults_record hreturns hready
      exact hrec _ (hu.keeps hout) hready fun _ => .inl hopening
  · have hstarts := sweepTried_starts hs hk hl hp hw he hh hz
    rcases clearFaults_cases s with ⟨hdone, _⟩ | ⟨_, hhalted, _⟩
    · rw [hdone, (evaluate_noticed _ _).crumb]
      exact hstarts
    · exact absurd hhalted hl

end Sys2Proof.BaggingStations
end
